-- ==== Sys2Proof/Word.lean ====
section
/-! DEFINITION. The word types of the machine and their plainest arithmetic. -/

namespace Sys2Proof

/-- A 64-bit scalar value (R11). -/
abbrev Word := BitVec 64

/-- One byte. -/
abbrev Byte := BitVec 8

/-- The 32 bits of an instruction (R78). -/
abbrev IWord := BitVec 32

/-- A vector register: 2,048 bytes, byte k in bits 8k+7 to 8k (R12). -/
abbrev VReg := BitVec 16384

/-- A predicate register (R19). -/
abbrev PReg := BitVec 4096

/-- A tile accumulator: 128 rows of 96 FP32 columns in row-major order (R20). -/
abbrev Tile := BitVec 393216

end Sys2Proof
end

