-- ==== Sys2Proof/Machine/Flags.lean ====
section
/-! DEFINITION. The number formats (R117 to R123, R130), the one rounding of every floating result (R124, R125, R132),
the flags it sets (R126), and the operations on exact values. A result is a pair of bits and flags; the flags are the
bits of FPFLAGS (R37): NX 1, UF 2, OF 4, DZ 8, NV 16. -/

namespace Sys2Proof.Machine

/-- What a format does with its top exponent: infinities and NaNs of IEEE 754, the one NaN magnitude of E4M3, or finite
values throughout (ladder M). -/
inductive FmtKind where
  | ieee
  | e4m3
  | ladder
  deriving DecidableEq, Repr

/-- A binary floating format: exponent bits, fraction bits, bias (R117). -/
structure Fmt where
  ne : Nat
  nf : Nat
  bias : Nat
  kind : FmtKind
  deriving DecidableEq, Repr

/-- FP64 (R117). -/
def fp64 : Fmt := { ne := 11, nf := 52, bias := 1023, kind := .ieee }
/-- FP32 (R117). -/
def fp32 : Fmt := { ne := 8, nf := 23, bias := 127, kind := .ieee }
/-- BF16 (R117). -/
def bf16 : Fmt := { ne := 8, nf := 7, bias := 127, kind := .ieee }
/-- FP16 (R117). -/
def fp16 : Fmt := { ne := 5, nf := 10, bias := 15, kind := .ieee }
/-- E5M2 (R117). -/
def e5m2 : Fmt := { ne := 5, nf := 2, bias := 15, kind := .ieee }
/-- E4M3 (R117, R118). -/
def e4m3 : Fmt := { ne := 4, nf := 3, bias := 7, kind := .e4m3 }
/-- E2M1X before scaling (R121). -/
def e2m1 : Fmt := { ne := 2, nf := 1, bias := 1, kind := .ladder }
/-- M8 before scaling (R130). -/
def fmtM8 : Fmt := { ne := 2, nf := 5, bias := 1, kind := .ladder }
/-- M16 before scaling (R130). -/
def fmtM16 : Fmt := { ne := 2, nf := 13, bias := 1, kind := .ladder }

/-- Bits of a format. -/
def Fmt.bits (f : Fmt) : Nat := 1 + f.ne + f.nf

/-- An exact value: NaN, an infinity, or (−1)^neg × m × 2^e; a zero keeps its sign. -/
inductive Val where
  | nan
  | inf (neg : Bool)
  | fin (neg : Bool) (m : Nat) (e : Int)
  deriving DecidableEq, Repr

/-- Decoding of R118. -/
def decodeF (f : Fmt) (x : Nat) : Val :=
  let frac := x % 2 ^ f.nf
  let ex := (x / 2 ^ f.nf) % 2 ^ f.ne
  let neg := (x / 2 ^ (f.nf + f.ne)) % 2 = 1
  if f.kind = .ieee && ex = 2 ^ f.ne - 1 then (if frac = 0 then .inf neg else .nan)
  else if f.kind = .e4m3 && ex = 2 ^ f.ne - 1 && frac = 2 ^ f.nf - 1 then .nan
  else if ex = 0 then .fin neg frac (1 - (f.bias : Int) - f.nf)
  else .fin neg (2 ^ f.nf + frac) ((ex : Int) - f.bias - f.nf)

/-- The canonical quiet NaN of a format (R119). -/
def nanOf (f : Fmt) : Nat :=
  match f.kind with
  | .ieee => (2 ^ f.ne - 1) * 2 ^ f.nf + 2 ^ (f.nf - 1)
  | .e4m3 => 2 ^ (f.nf + f.ne) - 1
  | .ladder => 0

/-- The sign bit of a format at its place. -/
def signAt (f : Fmt) (neg : Bool) : Nat := if neg then 2 ^ (f.ne + f.nf) else 0

/-- The largest finite magnitude as a code. -/
def largestOf (f : Fmt) : Nat :=
  match f.kind with
  | .ieee => (2 ^ f.ne - 1) * 2 ^ f.nf - 1
  | .e4m3 => 2 ^ (f.ne + f.nf) - 2
  | .ladder => 2 ^ (f.ne + f.nf) - 1

/-- An infinity of a format; the formats without one give what R125 puts in its place. -/
def infOf (f : Fmt) (neg : Bool) : Nat :=
  match f.kind with
  | .ieee => signAt f neg + (2 ^ f.ne - 1) * 2 ^ f.nf
  | .e4m3 => nanOf f
  | .ladder => signAt f neg + largestOf f

/-- Rounding modes (R37). -/
inductive Rm where
  | rne
  | rtz
  | rup
  | rdn
  deriving DecidableEq, Repr

/-- The mode of FPMODE (R37). -/
def rmOf (fpmode : Word) : Rm :=
  match fpmode.toNat % 4 with
  | 0 => .rne
  | 1 => .rtz
  | 2 => .rup
  | _ => .rdn

/-- The flag bits of R37. -/
def flagNX : Nat := 1
/-- Underflow. -/
def flagUF : Nat := 2
/-- Overflow. -/
def flagOF : Nat := 4
/-- Division by zero. -/
def flagDZ : Nat := 8
/-- Invalid. -/
def flagNV : Nat := 16

/-- m × 2^e rounded to a multiple of 2^q: the multiple, and whether it is inexact (R124). -/
def roundAt (rm : Rm) (neg : Bool) (m : Nat) (e q : Int) : Nat × Bool :=
  if q ≤ e then (m * 2 ^ (e - q).toNat, false)
  else
    let sh := (q - e).toNat
    let n := m / 2 ^ sh
    let r := m % 2 ^ sh
    let half := 2 ^ (sh - 1)
    let up := match rm with
      | .rne => decide (half < r) || (r == half && n % 2 == 1)
      | .rtz => false
      | .rup => !neg && r != 0
      | .rdn => neg && r != 0
    (if up then n + 1 else n, r != 0)

/-- What an overflow gives (R125): `sat` is a narrowing conversion with VCFG.SAT = 1. -/
def overflowTo (f : Fmt) (rm : Rm) (sat neg : Bool) : Nat :=
  let toInf := match rm with
    | .rne => true
    | .rtz => false
    | .rup => !neg
    | .rdn => neg
  if sat || !toInf || f.kind = .ladder then signAt f neg + largestOf f else infOf f neg

/-- The finite value (−1)^neg × m × 2^e rounded once to a format, with its flags (R124 to R126, R132). -/
def roundFin (f : Fmt) (rm : Rm) (sat neg : Bool) (m : Nat) (e : Int) : Nat × Nat :=
  if m = 0 then (if f.kind = .ladder then 0 else signAt f neg, 0)
  else
    let top := e + (m.log2 : Int)
    let emin : Int := 1 - (f.bias : Int)
    if f.kind = .ladder && neg && top < -1 then
      -- the gap of R132: −0.5 < x < 0
      let small := match rm with
        | .rtz => true
        | .rup => true
        | .rdn => false
        | .rne => decide (top < -2) || (top == -2 && m == 2 ^ m.log2)
      (if small then 0 else signAt f true + 2 ^ (f.nf - 1), flagNX)
    else
      let q := max top emin - f.nf
      let (n, ix) := roundAt rm neg m e q
      let code := (q - (emin - f.nf)).toNat * 2 ^ f.nf + n
      if largestOf f < code then (overflowTo f rm sat neg, flagOF + flagNX)
      else
        let (n', _) := roundAt rm neg m e (top - f.nf)
        -- n' × 2^(top − nf) < 2^emin, the rounded value with an unbounded exponent range below
        let tiny := decide (top < emin) && decide (n' < 2 ^ (emin - (top - f.nf)).toNat)
        let uf := ix && tiny && f.kind ≠ .ladder
        (signAt f neg + code, (if ix then flagNX else 0) + (if uf then flagUF else 0))

/-- A value rounded to a format as an arithmetic result: a NaN is canonical, an infinity stays (R119, R124). -/
def roundVal (f : Fmt) (rm : Rm) (v : Val) : Nat × Nat :=
  match v with
  | .nan => (nanOf f, 0)
  | .inf neg => (infOf f neg, 0)
  | .fin neg m e => roundFin f rm false neg m e

/-- A signed multiple of 2^e. -/
def signedAt (neg : Bool) (m : Nat) (e base : Int) : Int :=
  let k : Int := m * 2 ^ (e - base).toNat
  if neg then -k else k

/-- The value of a signed multiple of 2^e; an exact zero takes the sign of R126. -/
def ofSigned (rm : Rm) (k : Int) (e : Int) : Val :=
  if k = 0 then .fin (rm = .rdn) 0 e else .fin (k < 0) k.natAbs e

/-- An exact sum with the flags of an invalid one (R126). -/
def addVal (rm : Rm) : Val → Val → Val × Nat
  | .nan, _ => (.nan, 0)
  | _, .nan => (.nan, 0)
  | .inf a, .inf b => if a = b then (.inf a, 0) else (.nan, flagNV)
  | .inf a, _ => (.inf a, 0)
  | _, .inf b => (.inf b, 0)
  | .fin a m d, .fin b n e =>
    if m = 0 && n = 0 then (.fin (if a = b then a else rm = .rdn) 0 0, 0)
    else
      let t := min d e
      (ofSigned rm (signedAt a m d t + signedAt b n e t) t, 0)

/-- A value negated. -/
def negVal : Val → Val
  | .nan => .nan
  | .inf a => .inf (!a)
  | .fin a m e => .fin (!a) m e

/-- An exact product (R126). -/
def mulVal : Val → Val → Val × Nat
  | .nan, _ => (.nan, 0)
  | _, .nan => (.nan, 0)
  | .inf a, .inf b => (.inf (a != b), 0)
  | .inf a, .fin b m _ => if m = 0 then (.nan, flagNV) else (.inf (a != b), 0)
  | .fin a m _, .inf b => if m = 0 then (.nan, flagNV) else (.inf (a != b), 0)
  | .fin a m d, .fin b n e => (.fin (a != b) (m * n) (d + e), 0)

/-- A quotient, with a last bit that stands for the part cut off, so that one rounding decides as the exact value would
(R124, R126). -/
def divVal : Val → Val → Val × Nat
  | .nan, _ => (.nan, 0)
  | _, .nan => (.nan, 0)
  | .inf _, .inf _ => (.nan, flagNV)
  | .inf a, .fin b _ _ => (.inf (a != b), 0)
  | .fin a _ _, .inf b => (.fin (a != b) 0 0, 0)
  | .fin a m d, .fin b n e =>
    if n = 0 then (if m = 0 then (.nan, flagNV) else (.inf (a != b), flagDZ))
    else
      let k := 130 + n.log2
      let q := (m * 2 ^ k) / n
      let r := (m * 2 ^ k) % n
      (.fin (a != b) (4 * q + (if r = 0 then 0 else 1)) (d - e - k - 2), 0)

/-- The integer square root, from the bit b downwards. -/
def isqrtFrom (x : Nat) : Nat → Nat → Nat
  | 0, r => if (r + 1) * (r + 1) ≤ x then r + 1 else r
  | b + 1, r => if (r + 2 ^ (b + 1)) * (r + 2 ^ (b + 1)) ≤ x then isqrtFrom x b (r + 2 ^ (b + 1)) else isqrtFrom x b r

/-- A square root, with a last bit for the part cut off (R146, R201). -/
def sqrtVal : Val → Val × Nat
  | .nan => (.nan, 0)
  | .inf a => if a then (.nan, flagNV) else (.inf false, 0)
  | .fin a m e =>
    if m = 0 then (.fin a 0 0, 0)
    else if a then (.nan, flagNV)
    else
      let odd := e % 2 ≠ 0
      let m' := if odd then 2 * m else m
      let e' := if odd then e - 1 else e
      let x := m' * 2 ^ 136
      let r := isqrtFrom x 100 0
      (.fin false (4 * r + (if r * r = x then 0 else 1)) (e' / 2 - 68 - 2), 0)

/-- x × y + z exactly; 0 × ∞ is invalid even beside a NaN z (R146, R201). -/
def fmaVal (rm : Rm) (x y z : Val) : Val × Nat :=
  let (p, fl) := mulVal x y
  let (r, fl') := addVal rm p z
  (r, fl ||| fl')

/-- A pair of exact value and flags, rounded to a format. -/
def roundPair (f : Fmt) (rm : Rm) (x : Val × Nat) : Nat × Nat :=
  let (r, fl) := roundVal f rm x.1
  (r, fl ||| x.2)

/-- x < y between values that are not NaN; zeros of either sign are equal. -/
def ltVal : Val → Val → Bool
  | .nan, _ => false
  | _, .nan => false
  | .inf a, .inf b => a && !b
  | .inf a, .fin _ _ _ => a
  | .fin _ _ _, .inf b => !b
  | .fin a m d, .fin b n e => decide (signedAt a m d (min d e) < signedAt b n e (min d e))

/-- x = y between values that are not NaN. -/
def eqVal : Val → Val → Bool
  | .nan, _ => false
  | _, .nan => false
  | .inf a, .inf b => a == b
  | .inf _, .fin _ _ _ => false
  | .fin _ _ _, .inf _ => false
  | .fin a m d, .fin b n e => decide (signedAt a m d (min d e) = signedAt b n e (min d e))

/-- Is a value NaN? -/
def isNan (v : Val) : Bool := v == .nan

/-- Is a value a zero of this sign? -/
def isZeroOf (neg : Bool) : Val → Bool
  | .fin a 0 _ => a == neg
  | _ => false

/-- The order of R147: as `ltVal`, with −0 below +0. -/
def ltMin (x y : Val) : Bool := ltVal x y || (isZeroOf true x && isZeroOf false y)

/-- The lesser or greater of two codes by R147. -/
def pickMinMax (f : Fmt) (greater : Bool) (a b : Nat) : Nat :=
  let x := decodeF f a
  let y := decodeF f b
  if isNan x then (if isNan y then nanOf f else b)
  else if isNan y then a
  else if greater then (if ltMin x y then b else a)
  else (if ltMin y x then b else a)

/-- The class number of R150. -/
def classOf (f : Fmt) (x : Nat) : Nat :=
  match decodeF f x with
  | .nan => 8
  | .inf neg => if neg then 0 else 7
  | .fin neg m _ =>
    if m = 0 then (if neg then 3 else 4)
    else if m < 2 ^ f.nf then (if neg then 2 else 5)
    else if neg then 1 else 6

/-- A value rounded to an integer (R124): sign-carrying integer, and whether it is inexact. -/
def toIntVal (rm : Rm) (neg : Bool) (m : Nat) (e : Int) : Int × Bool :=
  let (n, ix) := roundAt rm neg m e 0
  (if neg then -(n : Int) else n, ix)

/-- The least value of an integer type (R115). -/
def intMin (signed : Bool) (w : Nat) : Int := if signed then -((2 ^ (w - 1) : Nat) : Int) else 0

/-- The greatest value of an integer type (R115). -/
def intMax (signed : Bool) (w : Nat) : Int := if signed then (2 ^ (w - 1) : Nat) - 1 else (2 ^ w : Nat) - 1

/-- The low w bits of an integer (R8, R116). -/
def wrapInt (w : Nat) (x : Int) : Nat := (x % (2 ^ w : Nat)).toNat

/-- An exact integer clamped to a type (R116). -/
def clampInt (signed : Bool) (w : Nat) (x : Int) : Int := max (intMin signed w) (min (intMax signed w) x)

/-- Conversion of a value into an integer type (R128). -/
def cvtToInt (rm : Rm) (signed : Bool) (w : Nat) (v : Val) : Nat × Nat :=
  match v with
  | .nan => (0, flagNV)
  | .inf neg => (wrapInt w (if neg then intMin signed w else intMax signed w), flagNV)
  | .fin neg m e =>
    let (k, ix) := toIntVal rm neg m e
    if k < intMin signed w then (wrapInt w (intMin signed w), flagNV)
    else if intMax signed w < k then (wrapInt w (intMax signed w), flagNV)
    else (wrapInt w k, if ix then flagNX else 0)

/-- The signed reading of w bits. -/
def toSigned (w x : Nat) : Int := if x % 2 ^ w < 2 ^ (w - 1) then (x % 2 ^ w : Nat) else (x % 2 ^ w : Nat) - (2 ^ w : Nat)

/-- The value of an integer. -/
def intVal (x : Int) : Val := .fin (x < 0) x.natAbs 0

/-- Conversion of a value into a binary floating format (R127, R128): `sat` is a narrowing conversion under SAT. -/
def cvtToFlt (f : Fmt) (rm : Rm) (sat : Bool) (v : Val) : Nat × Nat :=
  match v with
  | .nan => (nanOf f, 0)
  | .inf neg =>
    if sat then (signAt f neg + largestOf f, flagOF + flagNX) else (infOf f neg, 0)
  | .fin neg m e => roundFin f rm sat neg m e

/-! ### Block-scaled values (R120 to R123, R131) -/

/-- SCALE of a scale pair. -/
def scaleOf (pair : Nat) : Nat := pair % 256

/-- SPECIAL of a scale pair. -/
def specialOf (pair : Nat) : Nat := (pair / 256) % 256

/-- A value times 2^k. -/
def scaleVal (k : Int) : Val → Val
  | .fin a m e => .fin a m (e + k)
  | v => v

/-- The value of a ladder-M code in a block with a scale pair (R123). -/
def decodeM (f : Fmt) (code pair : Nat) : Val :=
  if scaleOf pair = 255 then .nan
  else
    let lead := (code / 2 ^ (f.bits - 4)) % 16
    scaleVal ((scaleOf pair : Int) - 127) (if lead = 8 then decodeF e4m3 (specialOf pair) else decodeF f code)

/-- Conversion of a value into a ladder-M format of a block with a scale pair (R207, R128, R132). -/
def cvtToM (f : Fmt) (rm : Rm) (pair : Nat) (v : Val) : Nat × Nat :=
  if scaleOf pair = 255 then (0, flagNV)
  else
    match v with
    | .nan => (0, flagNV)
    | .inf neg => (signAt f neg + largestOf f, flagOF + flagNX)
    | .fin neg m e => roundFin f rm true neg m (e - ((scaleOf pair : Int) - 127))

/-! ### VFEXP2 (R204, R205) -/

/-- T[j], the integer nearest to 2^(j/64) × 2^30. -/
def expTable : List Nat :=
  [0x40000000, 0x40B268FA, 0x4166C34C, 0x421D1462, 0x42D561B4, 0x438FB0CB, 0x444C0740, 0x450A6ABB]
  ++ [0x45CAE0F2, 0x468D6FAE, 0x47521CC6, 0x4818EE22, 0x48E1E9BA, 0x49AD1598, 0x4A7A77D4, 0x4B4A169C]
  ++ [0x4C1BF829, 0x4CF022CA, 0x4DC69CDD, 0x4E9F6CD4, 0x4F7A9930, 0x50582888, 0x51382182, 0x521A8AD7]
  ++ [0x52FF6B55, 0x53E6C9DA, 0x54D0AD5A, 0x55BD1CDB, 0x56AC1F75, 0x579DBC57, 0x5891FAC1, 0x5988E209]
  ++ [0x5A82799A, 0x5B7EC8F2, 0x5C7DD7A4, 0x5D7FAD59, 0x5E8451D0, 0x5F8BCCDB, 0x60962665, 0x61A3666D]
  ++ [0x62B39509, 0x63C6BA64, 0x64DCDEC3, 0x65F60A7F, 0x6712460B, 0x683199ED, 0x69540EC9, 0x6A79AD56]
  ++ [0x6BA27E65, 0x6CCE8AE1, 0x6DFDDBCC, 0x6F307A41, 0x70666F76, 0x719FC4B9, 0x72DC8374, 0x741CB528]
  ++ [0x75606374, 0x76A7980F, 0x77F25CCE, 0x7940BB9E, 0x7A92BE8B, 0x7BE86FBA, 0x7D41D96E, 0x7E9F0606]

/-- C1, the integer nearest to ln 2 × 2^32. -/
def expC1 : Nat := 0xB17217F8
/-- C2, the integer nearest to (ln 2)^2 / 2 × 2^32. -/
def expC2 : Nat := 0x3d7f7bff
/-- C3, the integer nearest to (ln 2)^3 / 6 × 2^32. -/
def expC3 : Nat := 0xe35846c

/-- Is a finite value an integer? -/
def isInteger (m : Nat) (e : Int) : Bool := 0 ≤ e || m % 2 ^ (-e).toNat = 0

/-- 2^x in a format with its flags (R204, R205). -/
def exp2 (f : Fmt) (v : Val) : Nat × Nat :=
  match v with
  | .nan => (nanOf f, 0)
  | .inf neg => if neg then (0, 0) else (infOf f false, 0)
  | .fin neg m e =>
    if ltVal (.fin false 200 0) v then (infOf f false, flagOF + flagNX)
    else if ltVal v (.fin true 200 0) then (0, flagUF + flagNX)
    else
      let x := (toIntVal .rne neg m (e + 23)).1
      let n := x / 8388608
      let r := (x - n * 8388608).toNat
      let d := r % 131072
      let q3 := expC3 * d / 8388608
      let q2 := (expC2 + q3) * d / 8388608
      let q1 := (expC1 + q2) * d / 8388608
      let (c, fl) := roundFin f .rne false false ((expTable[r / 131072]?.getD 0) * (4294967296 + q1)) (n - 62)
      (c, if isInteger m e then fl else fl ||| flagNX)

end Sys2Proof.Machine
end

