-- ==== Sys2Proof/Syntax.lean ====
section
/-! DEFINITION. The instructions: one constructor for each row of the opcode table. The encoded rows carry the raw
fields of their word (R78 to R110); WellFormed says which values the specification admits. The event rows carry the
part they concern and what comes from outside the device. -/

namespace Sys2Proof

/-- Who sent a kite message: the sending device, the port of its path on this device (31 for the internal fabric, R410;
of an Ethernet path the port and 32 times the Ethernet address of the other end, R411), the number its sender gave the
operation, and the launch that issued it. -/
structure Origin where
  dev : Nat
  port : Nat
  op : Nat
  launch : BitVec 32
  deriving DecidableEq, Repr

/-- The kinds of Ethernet frame R415 distinguishes. -/
inductive Frame where
  /-- a frame from this address with this EtherType; as a kite frame it comes from this device with this number (0 for
  an acknowledgement alone), message flits, and acknowledges frames up to a number (R416) -/
  | typed (src : BitVec 48) (ty : BitVec 16) (dev number flits ack : Nat)
  /-- an IEEE 802.3 PAUSE frame -/
  | pause
  /-- an IEEE 802.1Qbb priority flow control frame -/
  | pfc
  deriving DecidableEq, Repr

/-- A flit that was sent again on a port's link, and whether it came through (R408, R412). -/
structure Replay where
  port : Nat
  ok : Bool
  deriving DecidableEq, Repr

/-- A frame by the port that it left on and its number on its path (R416). -/
structure FrameName where
  port : Nat
  number : Nat
  deriving DecidableEq, Repr

/-- A launch by the device that runs it and its serial (R269, R382). -/
structure LaunchName where
  dev : Nat
  serial : BitVec 32
  deriving DecidableEq, Repr

/-- What a scrub pass or a repeated correction found (R424, R425, R439). -/
inductive Found where
  /-- a correctable error in device memory -/
  | correctedMem
  /-- a correctable error in an SRAM or register word -/
  | correctedSram
  /-- an uncorrectable error in the granule of this location -/
  | uncorrectable (loc : Nat)
  /-- a register SRAM word of a physical lane needed correction again -/
  | laneAgain (core lane : Nat)
  deriving DecidableEq, Repr

/-- The instructions and events, in the order of the opcode table. -/
inductive Instr where
  | add (d : BitVec 5) (a : BitVec 5) (b : BitVec 5)
  | sub (d : BitVec 5) (a : BitVec 5) (b : BitVec 5)
  | mul (d : BitVec 5) (a : BitVec 5) (b : BitVec 5)
  | mulh (d : BitVec 5) (a : BitVec 5) (b : BitVec 5)
  | mulhz (d : BitVec 5) (a : BitVec 5) (b : BitVec 5)
  | div (d : BitVec 5) (a : BitVec 5) (b : BitVec 5)
  | divz (d : BitVec 5) (a : BitVec 5) (b : BitVec 5)
  | rem (d : BitVec 5) (a : BitVec 5) (b : BitVec 5)
  | remz (d : BitVec 5) (a : BitVec 5) (b : BitVec 5)
  | and (d : BitVec 5) (a : BitVec 5) (b : BitVec 5)
  | or (d : BitVec 5) (a : BitVec 5) (b : BitVec 5)
  | xor (d : BitVec 5) (a : BitVec 5) (b : BitVec 5)
  | andn (d : BitVec 5) (a : BitVec 5) (b : BitVec 5)
  | sll (d : BitVec 5) (a : BitVec 5) (b : BitVec 5)
  | srl (d : BitVec 5) (a : BitVec 5) (b : BitVec 5)
  | sra (d : BitVec 5) (a : BitVec 5) (b : BitVec 5)
  | slt (d : BitVec 5) (a : BitVec 5) (b : BitVec 5)
  | sltz (d : BitVec 5) (a : BitVec 5) (b : BitVec 5)
  | min (d : BitVec 5) (a : BitVec 5) (b : BitVec 5)
  | max (d : BitVec 5) (a : BitVec 5) (b : BitVec 5)
  | minz (d : BitVec 5) (a : BitVec 5) (b : BitVec 5)
  | maxz (d : BitVec 5) (a : BitVec 5) (b : BitVec 5)
  | clz (d : BitVec 5) (a : BitVec 5)
  | ctz (d : BitVec 5) (a : BitVec 5)
  | popc (d : BitVec 5) (a : BitVec 5)
  | movnz (d : BitVec 5) (a : BitVec 5) (b : BitVec 5)
  | fadd (d : BitVec 5) (a : BitVec 5) (b : BitVec 5) (w : BitVec 2)
  | fsub (d : BitVec 5) (a : BitVec 5) (b : BitVec 5) (w : BitVec 2)
  | fmul (d : BitVec 5) (a : BitVec 5) (b : BitVec 5) (w : BitVec 2)
  | fma (d : BitVec 5) (a : BitVec 5) (b : BitVec 5) (w : BitVec 2)
  | fdiv (d : BitVec 5) (a : BitVec 5) (b : BitVec 5) (w : BitVec 2)
  | fsqrt (d : BitVec 5) (a : BitVec 5) (w : BitVec 2)
  | fmin (d : BitVec 5) (a : BitVec 5) (b : BitVec 5) (w : BitVec 2)
  | fmax (d : BitVec 5) (a : BitVec 5) (b : BitVec 5) (w : BitVec 2)
  | fcmpeq (d : BitVec 5) (a : BitVec 5) (b : BitVec 5) (w : BitVec 2)
  | fcmplt (d : BitVec 5) (a : BitVec 5) (b : BitVec 5) (w : BitVec 2)
  | fcmple (d : BitVec 5) (a : BitVec 5) (b : BitVec 5) (w : BitVec 2)
  | fcvt (d : BitVec 5) (a : BitVec 5) (c : BitVec 5) (w : BitVec 2)
  | fclass (d : BitVec 5) (a : BitVec 5) (w : BitVec 2)
  | addi (d : BitVec 5) (a : BitVec 5) (i : BitVec 14)
  | andi (d : BitVec 5) (a : BitVec 5) (i : BitVec 14)
  | ori (d : BitVec 5) (a : BitVec 5) (i : BitVec 14)
  | xori (d : BitVec 5) (a : BitVec 5) (i : BitVec 14)
  | slli (d : BitVec 5) (a : BitVec 5) (s : BitVec 6)
  | srli (d : BitVec 5) (a : BitVec 5) (s : BitVec 6)
  | srai (d : BitVec 5) (a : BitVec 5) (s : BitVec 6)
  | slti (d : BitVec 5) (a : BitVec 5) (i : BitVec 14)
  | sltzi (d : BitVec 5) (a : BitVec 5) (i : BitVec 14)
  | lhi (d : BitVec 5) (i : BitVec 22)
  | addpc (d : BitVec 5) (i : BitVec 22)
  | beq (a : BitVec 5) (b : BitVec 5) (o : BitVec 15)
  | bne (a : BitVec 5) (b : BitVec 5) (o : BitVec 15)
  | blt (a : BitVec 5) (b : BitVec 5) (o : BitVec 15)
  | bge (a : BitVec 5) (b : BitVec 5) (o : BitVec 15)
  | bltz (a : BitVec 5) (b : BitVec 5) (o : BitVec 15)
  | bgez (a : BitVec 5) (b : BitVec 5) (o : BitVec 15)
  | bpany (p : BitVec 5) (o : BitVec 15)
  | bpnone (p : BitVec 5) (o : BitVec 15)
  | jalr (d : BitVec 5) (a : BitVec 5)
  | jal (l : BitVec 2) (o : BitVec 23)
  | ldb (d : BitVec 5) (a : BitVec 5) (i : BitVec 14)
  | ldh (d : BitVec 5) (a : BitVec 5) (i : BitVec 14)
  | ldw (d : BitVec 5) (a : BitVec 5) (i : BitVec 14)
  | ldd (d : BitVec 5) (a : BitVec 5) (i : BitVec 14)
  | ldbz (d : BitVec 5) (a : BitVec 5) (i : BitVec 14)
  | ldhz (d : BitVec 5) (a : BitVec 5) (i : BitVec 14)
  | ldwz (d : BitVec 5) (a : BitVec 5) (i : BitVec 14)
  | stb (s : BitVec 5) (a : BitVec 5) (i : BitVec 14)
  | sth (s : BitVec 5) (a : BitVec 5) (i : BitVec 14)
  | stw (s : BitVec 5) (a : BitVec 5) (i : BitVec 14)
  | std (s : BitVec 5) (a : BitVec 5) (i : BitVec 14)
  | aadd (d : BitVec 5) (a : BitVec 5) (b : BitVec 5) (w : BitVec 1)
  | aswp (d : BitVec 5) (a : BitVec 5) (b : BitVec 5) (w : BitVec 1)
  | acas (d : BitVec 5) (a : BitVec 5) (b : BitVec 5) (w : BitVec 1)
  | amin (d : BitVec 5) (a : BitVec 5) (b : BitVec 5) (w : BitVec 1)
  | amax (d : BitVec 5) (a : BitVec 5) (b : BitVec 5) (w : BitVec 1)
  | aminz (d : BitVec 5) (a : BitVec 5) (b : BitVec 5) (w : BitVec 1)
  | amaxz (d : BitVec 5) (a : BitVec 5) (b : BitVec 5) (w : BitVec 1)
  | aand (d : BitVec 5) (a : BitVec 5) (b : BitVec 5) (w : BitVec 1)
  | aor (d : BitVec 5) (a : BitVec 5) (b : BitVec 5) (w : BitVec 1)
  | axor (d : BitVec 5) (a : BitVec 5) (b : BitVec 5) (w : BitVec 1)
  | crr (d : BitVec 5) (c : BitVec 12)
  | crw (a : BitVec 5) (c : BitVec 12)
  | crset (a : BitVec 5) (c : BitVec 12)
  | crclr (a : BitVec 5) (c : BitVec 12)
  | trap (a : BitVec 5)
  | eret
  | fence
  | fences
  | errfence
  | yield
  | halt
  | bkpt
  | ctxsave (a : BitVec 5)
  | ctxload (a : BitVec 5)
  | setvl (d : BitVec 5) (a : BitVec 5) (b : BitVec 5) (c : BitVec 5)
  | setvlK (d : BitVec 5) (a : BitVec 5) (b : BitVec 5) (c : BitVec 5)
  | setvlg (d : BitVec 5) (a : BitVec 5) (b : BitVec 5) (c : BitVec 5)
  | vadd (d : BitVec 6) (a : BitVec 6) (b : BitVec 6) (x : BitVec 1) (y : BitVec 1) (r : BitVec 3)
  | vsub (d : BitVec 6) (a : BitVec 6) (b : BitVec 6) (x : BitVec 1) (y : BitVec 1) (r : BitVec 3)
  | vmul (d : BitVec 6) (a : BitVec 6) (b : BitVec 6) (x : BitVec 1) (y : BitVec 1) (r : BitVec 3)
  | vmulh (d : BitVec 6) (a : BitVec 6) (b : BitVec 6) (x : BitVec 1) (y : BitVec 1) (r : BitVec 3)
  | vmulhz (d : BitVec 6) (a : BitVec 6) (b : BitVec 6) (x : BitVec 1) (y : BitVec 1) (r : BitVec 3)
  | vmadd (d : BitVec 6) (a : BitVec 6) (b : BitVec 6) (x : BitVec 1) (y : BitVec 1) (r : BitVec 3)
  | vmsub (d : BitVec 6) (a : BitVec 6) (b : BitVec 6) (x : BitVec 1) (y : BitVec 1) (r : BitVec 3)
  | vand (d : BitVec 6) (a : BitVec 6) (b : BitVec 6) (x : BitVec 1) (y : BitVec 1) (r : BitVec 3)
  | vor (d : BitVec 6) (a : BitVec 6) (b : BitVec 6) (x : BitVec 1) (y : BitVec 1) (r : BitVec 3)
  | vxor (d : BitVec 6) (a : BitVec 6) (b : BitVec 6) (x : BitVec 1) (y : BitVec 1) (r : BitVec 3)
  | vsll (d : BitVec 6) (a : BitVec 6) (b : BitVec 6) (x : BitVec 1) (y : BitVec 1) (r : BitVec 3)
  | vsrl (d : BitVec 6) (a : BitVec 6) (b : BitVec 6) (x : BitVec 1) (y : BitVec 1) (r : BitVec 3)
  | vsra (d : BitVec 6) (a : BitVec 6) (b : BitVec 6) (x : BitVec 1) (y : BitVec 1) (r : BitVec 3)
  | vmin (d : BitVec 6) (a : BitVec 6) (b : BitVec 6) (x : BitVec 1) (y : BitVec 1) (r : BitVec 3)
  | vmax (d : BitVec 6) (a : BitVec 6) (b : BitVec 6) (x : BitVec 1) (y : BitVec 1) (r : BitVec 3)
  | vminz (d : BitVec 6) (a : BitVec 6) (b : BitVec 6) (x : BitVec 1) (y : BitVec 1) (r : BitVec 3)
  | vmaxz (d : BitVec 6) (a : BitVec 6) (b : BitVec 6) (x : BitVec 1) (y : BitVec 1) (r : BitVec 3)
  | vsadd (d : BitVec 6) (a : BitVec 6) (b : BitVec 6) (x : BitVec 1) (y : BitVec 1) (r : BitVec 3)
  | vssub (d : BitVec 6) (a : BitVec 6) (b : BitVec 6) (x : BitVec 1) (y : BitVec 1) (r : BitVec 3)
  | vsaddz (d : BitVec 6) (a : BitVec 6) (b : BitVec 6) (x : BitVec 1) (y : BitVec 1) (r : BitVec 3)
  | vssubz (d : BitVec 6) (a : BitVec 6) (b : BitVec 6) (x : BitVec 1) (y : BitVec 1) (r : BitVec 3)
  | vabsd (d : BitVec 6) (a : BitVec 6) (b : BitVec 6) (x : BitVec 1) (y : BitVec 1) (r : BitVec 3)
  | vfadd (d : BitVec 6) (a : BitVec 6) (b : BitVec 6) (x : BitVec 1) (y : BitVec 1) (r : BitVec 3)
  | vfsub (d : BitVec 6) (a : BitVec 6) (b : BitVec 6) (x : BitVec 1) (y : BitVec 1) (r : BitVec 3)
  | vfmul (d : BitVec 6) (a : BitVec 6) (b : BitVec 6) (x : BitVec 1) (y : BitVec 1) (r : BitVec 3)
  | vfma (d : BitVec 6) (a : BitVec 6) (b : BitVec 6) (x : BitVec 1) (y : BitVec 1) (r : BitVec 3)
  | vfms (d : BitVec 6) (a : BitVec 6) (b : BitVec 6) (x : BitVec 1) (y : BitVec 1) (r : BitVec 3)
  | vfnma (d : BitVec 6) (a : BitVec 6) (b : BitVec 6) (x : BitVec 1) (y : BitVec 1) (r : BitVec 3)
  | vfdiv (d : BitVec 6) (a : BitVec 6) (b : BitVec 6) (x : BitVec 1) (y : BitVec 1) (r : BitVec 3)
  | vfsqrt (d : BitVec 6) (a : BitVec 6) (x : BitVec 1)
  | vfmin (d : BitVec 6) (a : BitVec 6) (b : BitVec 6) (x : BitVec 1) (y : BitVec 1) (r : BitVec 3)
  | vfmax (d : BitVec 6) (a : BitVec 6) (b : BitVec 6) (x : BitVec 1) (y : BitVec 1) (r : BitVec 3)
  | vfexp2 (d : BitVec 6) (a : BitVec 6) (x : BitVec 1)
  | vfcvt (d : BitVec 6) (a : BitVec 6) (s : BitVec 5) (t : BitVec 5) (x : BitVec 1)
  | vfclass (d : BitVec 6) (a : BitVec 6) (x : BitVec 1)
  | vfsgnj (d : BitVec 6) (a : BitVec 6) (b : BitVec 6) (x : BitVec 1) (y : BitVec 1) (r : BitVec 3)
  | pand (d : BitVec 5) (a : BitVec 5) (b : BitVec 5)
  | por (d : BitVec 5) (a : BitVec 5) (b : BitVec 5)
  | pxor (d : BitVec 5) (a : BitVec 5) (b : BitVec 5)
  | pandn (d : BitVec 5) (a : BitVec 5) (b : BitVec 5)
  | pset (d : BitVec 5)
  | pclr (d : BitVec 5)
  | pmov (d : BitVec 5) (a : BitVec 5)
  | pexitb (d : BitVec 5) (a : BitVec 5)
  | pexita (d : BitVec 5) (a : BitVec 5)
  | pfirst (g : BitVec 5) (a : BitVec 5)
  | pcnt (g : BitVec 5) (a : BitVec 5)
  | pidx (d : BitVec 5) (g : BitVec 5)
  | vcmpEq (d : BitVec 5) (a : BitVec 6) (b : BitVec 6) (x : BitVec 1) (y : BitVec 1) (r : BitVec 3)
  | vcmpNe (d : BitVec 5) (a : BitVec 6) (b : BitVec 6) (x : BitVec 1) (y : BitVec 1) (r : BitVec 3)
  | vcmpLt (d : BitVec 5) (a : BitVec 6) (b : BitVec 6) (x : BitVec 1) (y : BitVec 1) (r : BitVec 3)
  | vcmpLe (d : BitVec 5) (a : BitVec 6) (b : BitVec 6) (x : BitVec 1) (y : BitVec 1) (r : BitVec 3)
  | vcmpLtz (d : BitVec 5) (a : BitVec 6) (b : BitVec 6) (x : BitVec 1) (y : BitVec 1) (r : BitVec 3)
  | vcmpLez (d : BitVec 5) (a : BitVec 6) (b : BitVec 6) (x : BitVec 1) (y : BitVec 1) (r : BitVec 3)
  | vfcmpEq (d : BitVec 5) (a : BitVec 6) (b : BitVec 6) (x : BitVec 1) (y : BitVec 1) (r : BitVec 3)
  | vfcmpNe (d : BitVec 5) (a : BitVec 6) (b : BitVec 6) (x : BitVec 1) (y : BitVec 1) (r : BitVec 3)
  | vfcmpLt (d : BitVec 5) (a : BitVec 6) (b : BitVec 6) (x : BitVec 1) (y : BitVec 1) (r : BitVec 3)
  | vfcmpLe (d : BitVec 5) (a : BitVec 6) (b : BitVec 6) (x : BitVec 1) (y : BitVec 1) (r : BitVec 3)
  | vfcmpUn (d : BitVec 5) (a : BitVec 6) (b : BitVec 6) (x : BitVec 1) (y : BitVec 1) (r : BitVec 3)
  | vslup (d : BitVec 6) (a : BitVec 6) (b : BitVec 5) (s : BitVec 5)
  | vsldn (d : BitVec 6) (a : BitVec 6) (b : BitVec 5) (s : BitVec 5)
  | vcompress (d : BitVec 6) (a : BitVec 6) (p : BitVec 6)
  | vexpand (d : BitVec 6) (a : BitVec 6) (p : BitVec 6)
  | vperm (d : BitVec 6) (a : BitVec 6) (b : BitVec 6)
  | vid (d : BitVec 6)
  | viota (d : BitVec 6) (p : BitVec 6)
  | vmerge (d : BitVec 6) (a : BitVec 6) (b : BitVec 6) (x : BitVec 1) (y : BitVec 1) (r : BitVec 3)
  | vbcast (d : BitVec 6) (g : BitVec 6)
  | vextr (g : BitVec 6) (a : BitVec 6) (b : BitVec 6)
  | vins (d : BitVec 6) (g : BitVec 6) (b : BitVec 6)
  | vrsum (d : BitVec 6) (a : BitVec 6)
  | vrmax (d : BitVec 6) (a : BitVec 6)
  | vrmin (d : BitVec 6) (a : BitVec 6)
  | vfrsum (d : BitVec 6) (a : BitVec 6)
  | vfrsumo (d : BitVec 6) (a : BitVec 6)
  | vfrmax (d : BitVec 6) (a : BitVec 6)
  | vfrmin (d : BitVec 6) (a : BitVec 6)
  | vrscl (d : BitVec 6) (a : BitVec 6) (b : BitVec 6)
  | vargmax (d : BitVec 6) (a : BitVec 6)
  | vpsplit (d : BitVec 6) (a : BitVec 6) (l : BitVec 3)
  | vpjoin (d : BitVec 6) (a : BitVec 6) (l : BitVec 3)
  | vpadd (d : BitVec 6) (a : BitVec 6) (x : BitVec 1)
  | vld (d : BitVec 6) (a : BitVec 5)
  | vlds (d : BitVec 6) (a : BitVec 5)
  | vldx (d : BitVec 6) (a : BitVec 5) (i : BitVec 6) (c : BitVec 1) (k : BitVec 2)
  | vldf (d : BitVec 6) (a : BitVec 5)
  | vst (s : BitVec 6) (a : BitVec 5) (c : BitVec 1)
  | vsts (s : BitVec 6) (a : BitVec 5) (c : BitVec 1)
  | vstx (s : BitVec 6) (a : BitVec 5) (i : BitVec 6) (c : BitVec 1) (k : BitVec 2)
  | vscadd (s : BitVec 6) (a : BitVec 5) (i : BitVec 6) (c : BitVec 1) (f : BitVec 1) (k : BitVec 2)
  | vmerget (s : BitVec 6) (a : BitVec 5) (f : BitVec 1)
  | vpld (d : BitVec 6) (a : BitVec 5) (i : BitVec 6) (p : BitVec 2) (m : BitVec 2)
  | vpst (s : BitVec 6) (a : BitVec 5) (i : BitVec 6) (p : BitVec 2) (m : BitVec 1)
  | vxpand (d : BitVec 6) (a : BitVec 5) (p : BitVec 2)
  | vbind (d : BitVec 6) (a : BitVec 5)
  | vunbind (d : BitVec 6)
  | mattach (n : BitVec 3)
  | mdetach
  | mzero (t : BitVec 2)
  | mxacc (t : BitVec 2) (a : BitVec 6) (b : BitVec 6) (x : BitVec 1) (y : BitVec 1) (f : BitVec 4) (s : BitVec 1)
  | mxsub (t : BitVec 2) (a : BitVec 6) (b : BitVec 6) (x : BitVec 1) (y : BitVec 1) (f : BitVec 4) (s : BitVec 1)
  | mrowv (t : BitVec 2) (d : BitVec 6) (g : BitVec 6)
  | mcolv (t : BitVec 2) (d : BitVec 6) (g : BitVec 6)
  | mvrow (t : BitVec 2) (a : BitVec 6) (g : BitVec 6)
  | mtst (t : BitVec 2) (g : BitVec 6)
  | mtld (t : BitVec 2) (g : BitVec 6)
  | cpy (d : BitVec 5) (a : BitVec 5) (b : BitVec 5) (c : BitVec 6)
  | cpyg (d : BitVec 5) (a : BitVec 5) (v : BitVec 6)
  | cpyx (d : BitVec 5) (a : BitVec 5)
  | kzone (a : BitVec 5) (b : BitVec 5) (c : BitVec 6)
  | krsv (d : BitVec 5) (a : BitVec 5) (b : BitVec 5)
  | ksend (d : BitVec 5) (a : BitVec 5) (b : BitVec 5) (c : BitVec 6) (n : BitVec 2)
  | kwait (d : BitVec 5) (a : BitVec 5) (b : BitVec 5)
  | krel (a : BitVec 5) (b : BitVec 5)
  | kstat (d : BitVec 5) (a : BitVec 5) (b : BitVec 5)
  | tlrd (d : BitVec 5) (a : BitVec 5)
  | tlwait (d : BitVec 5) (a : BitVec 5) (b : BitVec 5)
  | tlsig (a : BitVec 5) (b : BitVec 5)
  | launch (d : BitVec 5) (a : BitVec 5)
  | waitslot
  | post (a : BitVec 5) (b : BitVec 5)
  | wait (d : BitVec 5) (a : BitVec 5)
  | gbarw (d : BitVec 5)
  | barinit (a : BitVec 5) (b : BitVec 5)
  | barwait (d : BitVec 5) (a : BitVec 5)
  | vsample (d : BitVec 6) (a : BitVec 6) (b : BitVec 6) (s : BitVec 5)
  | vpen (d : BitVec 6) (a : BitVec 6) (s : BitVec 5)
  | gmask (p : BitVec 6) (b : BitVec 6) (s : BitVec 5)
  | gadv (d : BitVec 6) (a : BitVec 6) (s : BitVec 5)
  | gstat (d : BitVec 6) (s : BitVec 5)
  | stopm (d : BitVec 6) (a : BitVec 6) (s : BitVec 5)
  | vhlook (d : BitVec 6) (a : BitVec 6) (c : BitVec 6) (s : BitVec 5)
  | pfxh (d : BitVec 6) (a : BitVec 6) (s : BitVec 5)
  | pfxlk (d : BitVec 6) (a : BitVec 6) (b : BitVec 6) (s : BitVec 5)
  | pfxpin (d : BitVec 6) (a : BitVec 6) (b : BitVec 6)
  | pfxins (d : BitVec 6) (a : BitVec 6) (b : BitVec 6)
  | pfxunpin (d : BitVec 6) (a : BitVec 6) (b : BitVec 6)
  | ngput (a : BitVec 6) (b : BitVec 6)
  | ngget (d : BitVec 6) (a : BitVec 6) (b : BitVec 6)
  | convoyStart (h : Nat)
  | issuePromotion (h : Nat)
  | breakResolve (h : Nat)
  | commitFrontAdvance (h : Nat)
  | heldEntryEnter (h : Nat)
  | streamDelivery (h : Nat)
  | streamBlockDecode (h b : Nat)
  | copyFinish (c k : Nat)
  | reservation (o : Origin) (core zone : Nat)
  | reply (op status slot gen : Nat)
  | messageHead (o : Origin) (core zone slot gen len : Nat)
  | messageData (o : Origin) (core zone slot off : Nat) (bytes : List (BitVec 8)) (bad : Bool)
  | messageLast (o : Origin) (core zone slot : Nat)
  | completion (op : Nat)
  | kiteRejection (op : Nat) (long : Bool)
  | pathDown (dev port : Nat)
  | pathTimeout (dev port : Nat)
  | flitReplay (x : Replay)
  | linkDown (port : Nat)
  | linkUp (port : Nat)
  | frameRetransmit (dev : Nat) (f : FrameName)
  | ethernetFrame (port : Nat) (f : Frame)
  | tailWrite (q : Nat) (v : BitVec 64)
  | qenableWrite (q : Nat) (v : BitVec 64)
  | recordIntake (q : Nat)
  | launchEligible (serial : BitVec 32)
  | gangDispatch
  | candidateBlocking
  | preemption
  | preemptCommitFront (h : Nat)
  | swapOut
  | gangResumable (serial : BitVec 32) (gang : Nat)
  | laneGroupTimeout (c : Nat)
  | launchComplete (l : LaunchName)
  | killWrite (v : BitVec 64)
  | tlresetWrite (t : Nat) (v : BitVec 64)
  | tlvalueRead (t : Nat)
  | svcreqClear (v : BitVec 64)
  | lanestatClear (c : Nat) (v : BitVec 64)
  | hostRegisterWrite (off : Nat) (v : BitVec 64)
  | hostMemRead (addr n : Nat)
  | hostMemWrite (addr : Nat) (bytes : List (BitVec 8))
  | tlbinv (h : Nat) (v : BitVec 64)
  | scrub (x : Found)
  | coreRetire (c : Nat)
  | dctlHalt (h : Nat)
  | dctlGo (h : Nat)
  | dctlStep (h : Nat)
  | stepHalt (h : Nat)
  | dimgSave (h : Nat) (v : BitVec 64)
  | dimgLoad (h : Nat) (v : BitVec 64)
  | dimgComplete (h : Nat)
  | sample (h : Nat)
  | traceRecordWrite (r : Nat)
  | trheadRead (r : Nat)
  | flueDrainTimeout (k : Nat)
  | energyWindow (k energy idle : Nat)
  | damperTrip (k : Nat)
  | damperRecover (k : Nat)
  | powerCapStep (watts : Nat)
  | thermalThreshold (temp : Nat)
  | hearthPowerGate (k : Nat)
  | hearthPowerUp (k : Nat)
  | pgateWrite (v : BitVec 64)
  | deviceReset
  | resetWrite (v : BitVec 64)
  | firmwareLoad (v : BitVec 64)
  | firmwareLoadDone (bad : Bool)
  | arithmeticClock (k : Nat)
  | tscIncrement
  | streamFetch (h b n : Nat)
  deriving DecidableEq, Repr

end Sys2Proof
end

