-- ==== Sys2Proof/WellFormed.lean ====
section
/-! DEFINITION. The values of the fields of a word that the specification admits (R80, R94, R97, R99, R113): every
check that is not a fixed bit of the row's encoding. -/

namespace Sys2Proof

/-- A vector register field accepts 0 to 47 (R80). -/
def vOk (x : BitVec 6) : Bool := x.toNat < 48

/-- A 6-bit field that names a g or p register accepts 0 to 31 (R80). -/
def gOk (x : BitVec 6) : Bool := x.toNat < 32

/-- A planed field accepts 0 to 15 (R18). -/
def planeOk (x : BitVec 6) : Bool := x.toNat < 16

/-- The replicate codes of R94, and never one of them together with the chain bit of vb. -/
def repOk (y : BitVec 1) (r : BitVec 3) : Bool := r == 0 || (4 ≤ r.toNat && y == 0)

/-- The type codes of VFCVT (R97). -/
def cvtOk (x : BitVec 5) : Bool := x.toNat ≤ 8 || (16 ≤ x.toNat && x.toNat ≤ 23)

/-- A ladder-M scale register is none of the planes of its own data register (R228). -/
def scaleOk (d i : BitVec 6) : Bool := i != d && i != d + 16 && i != d + 32

/-- The fields of an instruction hold values that the specification admits. -/
def wellFormed : Instr → Bool
  | .add _ _ _ => true
  | .sub _ _ _ => true
  | .mul _ _ _ => true
  | .mulh _ _ _ => true
  | .mulhz _ _ _ => true
  | .div _ _ _ => true
  | .divz _ _ _ => true
  | .rem _ _ _ => true
  | .remz _ _ _ => true
  | .and _ _ _ => true
  | .or _ _ _ => true
  | .xor _ _ _ => true
  | .andn _ _ _ => true
  | .sll _ _ _ => true
  | .srl _ _ _ => true
  | .sra _ _ _ => true
  | .slt _ _ _ => true
  | .sltz _ _ _ => true
  | .min _ _ _ => true
  | .max _ _ _ => true
  | .minz _ _ _ => true
  | .maxz _ _ _ => true
  | .clz _ _ => true
  | .ctz _ _ => true
  | .popc _ _ => true
  | .movnz _ _ _ => true
  | .fadd _ _ _ w => decide (w.toNat < 2)
  | .fsub _ _ _ w => decide (w.toNat < 2)
  | .fmul _ _ _ w => decide (w.toNat < 2)
  | .fma _ _ _ w => decide (w.toNat < 2)
  | .fdiv _ _ _ w => decide (w.toNat < 2)
  | .fsqrt _ _ w => decide (w.toNat < 2)
  | .fmin _ _ _ w => decide (w.toNat < 2)
  | .fmax _ _ _ w => decide (w.toNat < 2)
  | .fcmpeq _ _ _ w => decide (w.toNat < 2)
  | .fcmplt _ _ _ w => decide (w.toNat < 2)
  | .fcmple _ _ _ w => decide (w.toNat < 2)
  | .fcvt _ _ c w => decide (w.toNat < 2) && decide (c.toNat < 5)
  | .fclass _ _ w => decide (w.toNat < 2)
  | .addi _ _ _ => true
  | .andi _ _ _ => true
  | .ori _ _ _ => true
  | .xori _ _ _ => true
  | .slli _ _ _ => true
  | .srli _ _ _ => true
  | .srai _ _ _ => true
  | .slti _ _ _ => true
  | .sltzi _ _ _ => true
  | .lhi _ _ => true
  | .addpc _ _ => true
  | .beq _ _ _ => true
  | .bne _ _ _ => true
  | .blt _ _ _ => true
  | .bge _ _ _ => true
  | .bltz _ _ _ => true
  | .bgez _ _ _ => true
  | .bpany _ _ => true
  | .bpnone _ _ => true
  | .jalr _ _ => true
  | .jal _ _ => true
  | .ldb _ _ _ => true
  | .ldh _ _ _ => true
  | .ldw _ _ _ => true
  | .ldd _ _ _ => true
  | .ldbz _ _ _ => true
  | .ldhz _ _ _ => true
  | .ldwz _ _ _ => true
  | .stb _ _ _ => true
  | .sth _ _ _ => true
  | .stw _ _ _ => true
  | .std _ _ _ => true
  | .aadd _ _ _ _ => true
  | .aswp _ _ _ _ => true
  | .acas _ _ _ _ => true
  | .amin _ _ _ _ => true
  | .amax _ _ _ _ => true
  | .aminz _ _ _ _ => true
  | .amaxz _ _ _ _ => true
  | .aand _ _ _ _ => true
  | .aor _ _ _ _ => true
  | .axor _ _ _ _ => true
  | .crr _ _ => true
  | .crw _ _ => true
  | .crset _ _ => true
  | .crclr _ _ => true
  | .trap _ => true
  | .eret => true
  | .fence => true
  | .fences => true
  | .errfence => true
  | .yield => true
  | .halt => true
  | .bkpt => true
  | .ctxsave _ => true
  | .ctxload _ => true
  | .setvl _ _ _ _ => true
  | .setvlK _ _ _ _ => true
  | .setvlg _ _ _ _ => true
  | .vadd d a b _ y r => vOk d && vOk a && vOk b && repOk y r
  | .vsub d a b _ y r => vOk d && vOk a && vOk b && repOk y r
  | .vmul d a b _ y r => vOk d && vOk a && vOk b && repOk y r
  | .vmulh d a b _ y r => vOk d && vOk a && vOk b && repOk y r
  | .vmulhz d a b _ y r => vOk d && vOk a && vOk b && repOk y r
  | .vmadd d a b _ y r => vOk d && vOk a && vOk b && repOk y r
  | .vmsub d a b _ y r => vOk d && vOk a && vOk b && repOk y r
  | .vand d a b _ y r => vOk d && vOk a && vOk b && repOk y r
  | .vor d a b _ y r => vOk d && vOk a && vOk b && repOk y r
  | .vxor d a b _ y r => vOk d && vOk a && vOk b && repOk y r
  | .vsll d a b _ y r => vOk d && vOk a && vOk b && repOk y r
  | .vsrl d a b _ y r => vOk d && vOk a && vOk b && repOk y r
  | .vsra d a b _ y r => vOk d && vOk a && vOk b && repOk y r
  | .vmin d a b _ y r => vOk d && vOk a && vOk b && repOk y r
  | .vmax d a b _ y r => vOk d && vOk a && vOk b && repOk y r
  | .vminz d a b _ y r => vOk d && vOk a && vOk b && repOk y r
  | .vmaxz d a b _ y r => vOk d && vOk a && vOk b && repOk y r
  | .vsadd d a b _ y r => vOk d && vOk a && vOk b && repOk y r
  | .vssub d a b _ y r => vOk d && vOk a && vOk b && repOk y r
  | .vsaddz d a b _ y r => vOk d && vOk a && vOk b && repOk y r
  | .vssubz d a b _ y r => vOk d && vOk a && vOk b && repOk y r
  | .vabsd d a b _ y r => vOk d && vOk a && vOk b && repOk y r
  | .vfadd d a b _ y r => vOk d && vOk a && vOk b && repOk y r
  | .vfsub d a b _ y r => vOk d && vOk a && vOk b && repOk y r
  | .vfmul d a b _ y r => vOk d && vOk a && vOk b && repOk y r
  | .vfma d a b _ y r => vOk d && vOk a && vOk b && repOk y r
  | .vfms d a b _ y r => vOk d && vOk a && vOk b && repOk y r
  | .vfnma d a b _ y r => vOk d && vOk a && vOk b && repOk y r
  | .vfdiv d a b _ y r => vOk d && vOk a && vOk b && repOk y r
  | .vfsqrt d a _ => vOk d && vOk a
  | .vfmin d a b _ y r => vOk d && vOk a && vOk b && repOk y r
  | .vfmax d a b _ y r => vOk d && vOk a && vOk b && repOk y r
  | .vfexp2 d a _ => vOk d && vOk a
  | .vfcvt d a s t _ => vOk d && vOk a && cvtOk s && cvtOk t && s != t
  | .vfclass d a _ => vOk d && vOk a
  | .vfsgnj d a b _ y r => vOk d && vOk a && vOk b && repOk y r
  | .pand _ _ _ => true
  | .por _ _ _ => true
  | .pxor _ _ _ => true
  | .pandn _ _ _ => true
  | .pset _ => true
  | .pclr _ => true
  | .pmov _ _ => true
  | .pexitb _ _ => true
  | .pexita _ _ => true
  | .pfirst _ _ => true
  | .pcnt _ _ => true
  | .pidx _ _ => true
  | .vcmpEq _ a b _ y r => vOk a && vOk b && repOk y r
  | .vcmpNe _ a b _ y r => vOk a && vOk b && repOk y r
  | .vcmpLt _ a b _ y r => vOk a && vOk b && repOk y r
  | .vcmpLe _ a b _ y r => vOk a && vOk b && repOk y r
  | .vcmpLtz _ a b _ y r => vOk a && vOk b && repOk y r
  | .vcmpLez _ a b _ y r => vOk a && vOk b && repOk y r
  | .vfcmpEq _ a b _ y r => vOk a && vOk b && repOk y r
  | .vfcmpNe _ a b _ y r => vOk a && vOk b && repOk y r
  | .vfcmpLt _ a b _ y r => vOk a && vOk b && repOk y r
  | .vfcmpLe _ a b _ y r => vOk a && vOk b && repOk y r
  | .vfcmpUn _ a b _ y r => vOk a && vOk b && repOk y r
  | .vslup d a _ _ => vOk d && vOk a
  | .vsldn d a _ _ => vOk d && vOk a
  | .vcompress d a p => vOk d && vOk a && gOk p
  | .vexpand d a p => vOk d && vOk a && gOk p
  | .vperm d a b => vOk d && vOk a && vOk b
  | .vid d => vOk d
  | .viota d p => vOk d && gOk p
  | .vmerge d a b _ y r => vOk d && vOk a && vOk b && repOk y r
  | .vbcast d g => vOk d && gOk g
  | .vextr g a b => gOk g && vOk a && gOk b
  | .vins d g b => vOk d && gOk g && gOk b
  | .vrsum d a => vOk d && vOk a
  | .vrmax d a => vOk d && vOk a
  | .vrmin d a => vOk d && vOk a
  | .vfrsum d a => vOk d && vOk a
  | .vfrsumo d a => vOk d && vOk a
  | .vfrmax d a => vOk d && vOk a
  | .vfrmin d a => vOk d && vOk a
  | .vrscl d a b => vOk d && vOk a && vOk b
  | .vargmax d a => vOk d && vOk a
  | .vpsplit d a l => planeOk d && vOk a && decide (l.toNat < 2)
  | .vpjoin d a l => vOk d && planeOk a && decide (l.toNat < 2)
  | .vpadd d a _ => planeOk d && vOk a
  | .vld d _ => vOk d
  | .vlds d _ => vOk d
  | .vldx d _ i _ _ => vOk d && vOk i
  | .vldf d _ => vOk d
  | .vst s _ _ => vOk s
  | .vsts s _ _ => vOk s
  | .vstx s _ i _ _ => vOk s && vOk i
  | .vscadd s _ i _ _ _ => vOk s && vOk i
  | .vmerget s _ _ => vOk s
  | .vpld d _ i p m => planeOk d && decide (p.toNat < 3) && (if m.toNat < 2 then i == 0 else vOk i && scaleOk d i)
  | .vpst s _ i p m => planeOk s && decide (p.toNat < 3) && (if m == 0 then i == 0 else vOk i && scaleOk s i)
  | .vxpand d _ p => decide (p.toNat < 3) && (if p == 0 then vOk d else planeOk d)
  | .vbind d _ => vOk d
  | .vunbind d => vOk d
  | .mattach n => decide (1 ≤ n.toNat) && decide (n.toNat ≤ 4)
  | .mdetach => true
  | .mzero _ => true
  | .mxacc t a b _ _ f s => vOk a && vOk b && decide (f.toNat ≤ 8) && (s == 0 || 4 ≤ f.toNat) && (f != 1 || t.getLsbD 0 == false)
  | .mxsub t a b _ _ f s => vOk a && vOk b && decide (f.toNat ≤ 8) && (s == 0 || 4 ≤ f.toNat) && (f != 1 || t.getLsbD 0 == false)
  | .mrowv _ d g => vOk d && gOk g
  | .mcolv _ d g => vOk d && gOk g
  | .mvrow _ a g => vOk a && gOk g
  | .mtst _ g => gOk g
  | .mtld _ g => gOk g
  | .cpy _ _ _ c => gOk c
  | .cpyg _ _ v => vOk v
  | .cpyx _ _ => true
  | .kzone _ _ c => gOk c
  | .krsv _ _ _ => true
  | .ksend _ _ _ c _ => gOk c
  | .kwait _ _ _ => true
  | .krel _ _ => true
  | .kstat _ _ _ => true
  | .tlrd _ _ => true
  | .tlwait _ _ _ => true
  | .tlsig _ _ => true
  | .launch _ _ => true
  | .waitslot => true
  | .post _ _ => true
  | .wait _ _ => true
  | .gbarw _ => true
  | .barinit _ _ => true
  | .barwait _ _ => true
  | .vsample d a b _ => gOk d && vOk a && vOk b
  | .vpen d a _ => vOk d && vOk a
  | .gmask p b _ => gOk p && gOk b
  | .gadv d a _ => gOk d && gOk a
  | .gstat d _ => gOk d
  | .stopm d a _ => gOk d && gOk a
  | .vhlook d a c _ => vOk d && vOk a && vOk c
  | .pfxh d a _ => gOk d && gOk a
  | .pfxlk d a b _ => gOk d && gOk a && gOk b
  | .pfxpin d a b => gOk d && gOk a && gOk b
  | .pfxins d a b => gOk d && gOk a && gOk b
  | .pfxunpin d a b => gOk d && gOk a && gOk b
  | .ngput a b => gOk a && gOk b
  | .ngget d a b => gOk d && gOk a && gOk b
  | .convoyStart _ => true
  | .issuePromotion _ => true
  | .breakResolve _ => true
  | .commitFrontAdvance _ => true
  | .heldEntryEnter _ => true
  | .streamDelivery _ => true
  | .streamBlockDecode _ _ => true
  | .copyFinish _ _ => true
  | .reservation _ _ _ => true
  | .reply _ _ _ _ => true
  | .messageHead _ _ _ _ _ _ => true
  | .messageData _ _ _ _ _ _ _ => true
  | .messageLast _ _ _ _ => true
  | .completion _ => true
  | .kiteRejection _ _ => true
  | .pathDown _ _ => true
  | .pathTimeout _ _ => true
  | .flitReplay _ => true
  | .linkDown _ => true
  | .linkUp _ => true
  | .frameRetransmit _ _ => true
  | .ethernetFrame _ _ => true
  | .tailWrite _ _ => true
  | .qenableWrite _ _ => true
  | .recordIntake _ => true
  | .launchEligible _ => true
  | .gangDispatch => true
  | .candidateBlocking => true
  | .preemption => true
  | .preemptCommitFront _ => true
  | .swapOut => true
  | .gangResumable _ _ => true
  | .laneGroupTimeout _ => true
  | .launchComplete _ => true
  | .killWrite _ => true
  | .tlresetWrite _ _ => true
  | .tlvalueRead _ => true
  | .svcreqClear _ => true
  | .lanestatClear _ _ => true
  | .hostRegisterWrite _ _ => true
  | .hostMemRead _ _ => true
  | .hostMemWrite _ _ => true
  | .tlbinv _ _ => true
  | .scrub _ => true
  | .coreRetire _ => true
  | .dctlHalt _ => true
  | .dctlGo _ => true
  | .dctlStep _ => true
  | .stepHalt _ => true
  | .dimgSave _ _ => true
  | .dimgLoad _ _ => true
  | .dimgComplete _ => true
  | .sample _ => true
  | .traceRecordWrite _ => true
  | .trheadRead _ => true
  | .flueDrainTimeout _ => true
  | .energyWindow _ _ _ => true
  | .damperTrip _ => true
  | .damperRecover _ => true
  | .powerCapStep _ => true
  | .thermalThreshold _ => true
  | .hearthPowerGate _ => true
  | .hearthPowerUp _ => true
  | .pgateWrite _ => true
  | .deviceReset => true
  | .resetWrite _ => true
  | .firmwareLoad _ => true
  | .firmwareLoadDone _ => true
  | .arithmeticClock _ => true
  | .tscIncrement => true
  | .streamFetch _ _ _ => true

/-- An instruction that the decoder may yield. -/
abbrev WellFormed (i : Instr) : Prop := wellFormed i = true

end Sys2Proof
end

