-- ==== Sys2Proof/Decode.lean ====
section
/-! DEFINITION. The decoder, total on any word, and the encoder, both written from the layouts of R81 to R110. -/

namespace Sys2Proof

/-- The n bits of a word from bit lo upwards. -/
def bitsAt (w : IWord) (lo n : Nat) : BitVec n := w.extractLsb' lo n

/-- A field placed at bit lo of a word. -/
def placed {n : Nat} (x : BitVec n) (lo : Nat) : IWord := x.setWidth 32 <<< lo

/-- The row applies when the fixed bits of the word, the zero fields among them, are those of its encoding. -/
def row (w mask pattern : IWord) (i : Instr) : Option Instr := if w &&& mask = pattern then some i else none

/-- Class 0 (R81 to R83). -/
def decodeClass0 (w : IWord) : Option Instr :=
  match (bitsAt w 0 6).toNat with
  | 1 => row w 0xF0001FFF#32 0x00000001#32 (.add (bitsAt w 23 5) (bitsAt w 18 5) (bitsAt w 13 5))
  | 2 => row w 0xF0001FFF#32 0x00000002#32 (.sub (bitsAt w 23 5) (bitsAt w 18 5) (bitsAt w 13 5))
  | 3 => row w 0xF0001FFF#32 0x00000003#32 (.mul (bitsAt w 23 5) (bitsAt w 18 5) (bitsAt w 13 5))
  | 4 => row w 0xF0001FFF#32 0x00000004#32 (.mulh (bitsAt w 23 5) (bitsAt w 18 5) (bitsAt w 13 5))
  | 5 => row w 0xF0001FFF#32 0x00000005#32 (.mulhz (bitsAt w 23 5) (bitsAt w 18 5) (bitsAt w 13 5))
  | 6 => row w 0xF0001FFF#32 0x00000006#32 (.div (bitsAt w 23 5) (bitsAt w 18 5) (bitsAt w 13 5))
  | 7 => row w 0xF0001FFF#32 0x00000007#32 (.divz (bitsAt w 23 5) (bitsAt w 18 5) (bitsAt w 13 5))
  | 8 => row w 0xF0001FFF#32 0x00000008#32 (.rem (bitsAt w 23 5) (bitsAt w 18 5) (bitsAt w 13 5))
  | 9 => row w 0xF0001FFF#32 0x00000009#32 (.remz (bitsAt w 23 5) (bitsAt w 18 5) (bitsAt w 13 5))
  | 10 => row w 0xF0001FFF#32 0x0000000A#32 (.and (bitsAt w 23 5) (bitsAt w 18 5) (bitsAt w 13 5))
  | 11 => row w 0xF0001FFF#32 0x0000000B#32 (.or (bitsAt w 23 5) (bitsAt w 18 5) (bitsAt w 13 5))
  | 12 => row w 0xF0001FFF#32 0x0000000C#32 (.xor (bitsAt w 23 5) (bitsAt w 18 5) (bitsAt w 13 5))
  | 13 => row w 0xF0001FFF#32 0x0000000D#32 (.andn (bitsAt w 23 5) (bitsAt w 18 5) (bitsAt w 13 5))
  | 14 => row w 0xF0001FFF#32 0x0000000E#32 (.sll (bitsAt w 23 5) (bitsAt w 18 5) (bitsAt w 13 5))
  | 15 => row w 0xF0001FFF#32 0x0000000F#32 (.srl (bitsAt w 23 5) (bitsAt w 18 5) (bitsAt w 13 5))
  | 16 => row w 0xF0001FFF#32 0x00000010#32 (.sra (bitsAt w 23 5) (bitsAt w 18 5) (bitsAt w 13 5))
  | 17 => row w 0xF0001FFF#32 0x00000011#32 (.slt (bitsAt w 23 5) (bitsAt w 18 5) (bitsAt w 13 5))
  | 18 => row w 0xF0001FFF#32 0x00000012#32 (.sltz (bitsAt w 23 5) (bitsAt w 18 5) (bitsAt w 13 5))
  | 19 => row w 0xF0001FFF#32 0x00000013#32 (.min (bitsAt w 23 5) (bitsAt w 18 5) (bitsAt w 13 5))
  | 20 => row w 0xF0001FFF#32 0x00000014#32 (.max (bitsAt w 23 5) (bitsAt w 18 5) (bitsAt w 13 5))
  | 21 => row w 0xF0001FFF#32 0x00000015#32 (.minz (bitsAt w 23 5) (bitsAt w 18 5) (bitsAt w 13 5))
  | 22 => row w 0xF0001FFF#32 0x00000016#32 (.maxz (bitsAt w 23 5) (bitsAt w 18 5) (bitsAt w 13 5))
  | 23 => row w 0xF003FFFF#32 0x00000017#32 (.clz (bitsAt w 23 5) (bitsAt w 18 5))
  | 24 => row w 0xF003FFFF#32 0x00000018#32 (.ctz (bitsAt w 23 5) (bitsAt w 18 5))
  | 25 => row w 0xF003FFFF#32 0x00000019#32 (.popc (bitsAt w 23 5) (bitsAt w 18 5))
  | 26 => row w 0xF0001FFF#32 0x0000001A#32 (.movnz (bitsAt w 23 5) (bitsAt w 18 5) (bitsAt w 13 5))
  | 32 => row w 0xF00007FF#32 0x00000020#32 (.fadd (bitsAt w 23 5) (bitsAt w 18 5) (bitsAt w 13 5) (bitsAt w 11 2))
  | 33 => row w 0xF00007FF#32 0x00000021#32 (.fsub (bitsAt w 23 5) (bitsAt w 18 5) (bitsAt w 13 5) (bitsAt w 11 2))
  | 34 => row w 0xF00007FF#32 0x00000022#32 (.fmul (bitsAt w 23 5) (bitsAt w 18 5) (bitsAt w 13 5) (bitsAt w 11 2))
  | 35 => row w 0xF00007FF#32 0x00000023#32 (.fma (bitsAt w 23 5) (bitsAt w 18 5) (bitsAt w 13 5) (bitsAt w 11 2))
  | 36 => row w 0xF00007FF#32 0x00000024#32 (.fdiv (bitsAt w 23 5) (bitsAt w 18 5) (bitsAt w 13 5) (bitsAt w 11 2))
  | 37 => row w 0xF003E7FF#32 0x00000025#32 (.fsqrt (bitsAt w 23 5) (bitsAt w 18 5) (bitsAt w 11 2))
  | 38 => row w 0xF00007FF#32 0x00000026#32 (.fmin (bitsAt w 23 5) (bitsAt w 18 5) (bitsAt w 13 5) (bitsAt w 11 2))
  | 39 => row w 0xF00007FF#32 0x00000027#32 (.fmax (bitsAt w 23 5) (bitsAt w 18 5) (bitsAt w 13 5) (bitsAt w 11 2))
  | 40 => row w 0xF00007FF#32 0x00000028#32 (.fcmpeq (bitsAt w 23 5) (bitsAt w 18 5) (bitsAt w 13 5) (bitsAt w 11 2))
  | 41 => row w 0xF00007FF#32 0x00000029#32 (.fcmplt (bitsAt w 23 5) (bitsAt w 18 5) (bitsAt w 13 5) (bitsAt w 11 2))
  | 42 => row w 0xF00007FF#32 0x0000002A#32 (.fcmple (bitsAt w 23 5) (bitsAt w 18 5) (bitsAt w 13 5) (bitsAt w 11 2))
  | 43 => row w 0xF00007FF#32 0x0000002B#32 (.fcvt (bitsAt w 23 5) (bitsAt w 18 5) (bitsAt w 13 5) (bitsAt w 11 2))
  | 44 => row w 0xF003E7FF#32 0x0000002C#32 (.fclass (bitsAt w 23 5) (bitsAt w 18 5) (bitsAt w 11 2))
  | _ => none

/-- Class 1 (R84). -/
def decodeClass1 (w : IWord) : Option Instr :=
  match (bitsAt w 14 4).toNat with
  | 0 => row w 0xF003C000#32 0x10000000#32 (.addi (bitsAt w 23 5) (bitsAt w 18 5) (bitsAt w 0 14))
  | 1 => row w 0xF003C000#32 0x10004000#32 (.andi (bitsAt w 23 5) (bitsAt w 18 5) (bitsAt w 0 14))
  | 2 => row w 0xF003C000#32 0x10008000#32 (.ori (bitsAt w 23 5) (bitsAt w 18 5) (bitsAt w 0 14))
  | 3 => row w 0xF003C000#32 0x1000C000#32 (.xori (bitsAt w 23 5) (bitsAt w 18 5) (bitsAt w 0 14))
  | 4 => row w 0xF003FFC0#32 0x10010000#32 (.slli (bitsAt w 23 5) (bitsAt w 18 5) (bitsAt w 0 6))
  | 5 => row w 0xF003FFC0#32 0x10014000#32 (.srli (bitsAt w 23 5) (bitsAt w 18 5) (bitsAt w 0 6))
  | 6 => row w 0xF003FFC0#32 0x10018000#32 (.srai (bitsAt w 23 5) (bitsAt w 18 5) (bitsAt w 0 6))
  | 7 => row w 0xF003C000#32 0x1001C000#32 (.slti (bitsAt w 23 5) (bitsAt w 18 5) (bitsAt w 0 14))
  | 8 => row w 0xF003C000#32 0x10020000#32 (.sltzi (bitsAt w 23 5) (bitsAt w 18 5) (bitsAt w 0 14))
  | _ => none

/-- Class 2 (R85). -/
def decodeClass2 (w : IWord) : Option Instr :=
  match (bitsAt w 22 1).toNat with
  | 0 => row w 0xF0400000#32 0x20000000#32 (.lhi (bitsAt w 23 5) (bitsAt w 0 22))
  | 1 => row w 0xF0400000#32 0x20400000#32 (.addpc (bitsAt w 23 5) (bitsAt w 0 22))
  | _ => none

/-- Class 3 (R90). -/
def decodeClass3 (w : IWord) : Option Instr :=
  match (bitsAt w 25 3).toNat with
  | 0 => row w 0xFE000000#32 0x30000000#32 (.beq (bitsAt w 20 5) (bitsAt w 15 5) (bitsAt w 0 15))
  | 1 => row w 0xFE000000#32 0x32000000#32 (.bne (bitsAt w 20 5) (bitsAt w 15 5) (bitsAt w 0 15))
  | 2 => row w 0xFE000000#32 0x34000000#32 (.blt (bitsAt w 20 5) (bitsAt w 15 5) (bitsAt w 0 15))
  | 3 => row w 0xFE000000#32 0x36000000#32 (.bge (bitsAt w 20 5) (bitsAt w 15 5) (bitsAt w 0 15))
  | 4 => row w 0xFE000000#32 0x38000000#32 (.bltz (bitsAt w 20 5) (bitsAt w 15 5) (bitsAt w 0 15))
  | 5 => row w 0xFE000000#32 0x3A000000#32 (.bgez (bitsAt w 20 5) (bitsAt w 15 5) (bitsAt w 0 15))
  | 7 => row w 0xFE000000#32 0x3E000000#32 (.jal (bitsAt w 23 2) (bitsAt w 0 23))
  | 6 =>
    match (bitsAt w 23 2).toNat with
    | 0 => row w 0xFF838000#32 0x3C000000#32 (.bpany (bitsAt w 18 5) (bitsAt w 0 15))
    | 1 => row w 0xFF838000#32 0x3C800000#32 (.bpnone (bitsAt w 18 5) (bitsAt w 0 15))
    | 2 => row w 0xFF801FFF#32 0x3D000000#32 (.jalr (bitsAt w 18 5) (bitsAt w 13 5))
    | _ => none
  | _ => none

/-- Class 4 (R86, R87). -/
def decodeClass4 (w : IWord) : Option Instr :=
  match (bitsAt w 14 4).toNat with
  | 0 => row w 0xF003C000#32 0x40000000#32 (.ldb (bitsAt w 23 5) (bitsAt w 18 5) (bitsAt w 0 14))
  | 1 => row w 0xF003C000#32 0x40004000#32 (.ldh (bitsAt w 23 5) (bitsAt w 18 5) (bitsAt w 0 14))
  | 2 => row w 0xF003C000#32 0x40008000#32 (.ldw (bitsAt w 23 5) (bitsAt w 18 5) (bitsAt w 0 14))
  | 3 => row w 0xF003C000#32 0x4000C000#32 (.ldd (bitsAt w 23 5) (bitsAt w 18 5) (bitsAt w 0 14))
  | 4 => row w 0xF003C000#32 0x40010000#32 (.ldbz (bitsAt w 23 5) (bitsAt w 18 5) (bitsAt w 0 14))
  | 5 => row w 0xF003C000#32 0x40014000#32 (.ldhz (bitsAt w 23 5) (bitsAt w 18 5) (bitsAt w 0 14))
  | 6 => row w 0xF003C000#32 0x40018000#32 (.ldwz (bitsAt w 23 5) (bitsAt w 18 5) (bitsAt w 0 14))
  | 8 => row w 0xF003C000#32 0x40020000#32 (.stb (bitsAt w 23 5) (bitsAt w 18 5) (bitsAt w 0 14))
  | 9 => row w 0xF003C000#32 0x40024000#32 (.sth (bitsAt w 23 5) (bitsAt w 18 5) (bitsAt w 0 14))
  | 10 => row w 0xF003C000#32 0x40028000#32 (.stw (bitsAt w 23 5) (bitsAt w 18 5) (bitsAt w 0 14))
  | 11 => row w 0xF003C000#32 0x4002C000#32 (.std (bitsAt w 23 5) (bitsAt w 18 5) (bitsAt w 0 14))
  | 15 =>
    match (bitsAt w 4 4).toNat with
    | 0 => row w 0xF003C0FF#32 0x4003C000#32 (.aadd (bitsAt w 23 5) (bitsAt w 18 5) (bitsAt w 9 5) (bitsAt w 8 1))
    | 1 => row w 0xF003C0FF#32 0x4003C010#32 (.aswp (bitsAt w 23 5) (bitsAt w 18 5) (bitsAt w 9 5) (bitsAt w 8 1))
    | 2 => row w 0xF003C0FF#32 0x4003C020#32 (.acas (bitsAt w 23 5) (bitsAt w 18 5) (bitsAt w 9 5) (bitsAt w 8 1))
    | 3 => row w 0xF003C0FF#32 0x4003C030#32 (.amin (bitsAt w 23 5) (bitsAt w 18 5) (bitsAt w 9 5) (bitsAt w 8 1))
    | 4 => row w 0xF003C0FF#32 0x4003C040#32 (.amax (bitsAt w 23 5) (bitsAt w 18 5) (bitsAt w 9 5) (bitsAt w 8 1))
    | 5 => row w 0xF003C0FF#32 0x4003C050#32 (.aminz (bitsAt w 23 5) (bitsAt w 18 5) (bitsAt w 9 5) (bitsAt w 8 1))
    | 6 => row w 0xF003C0FF#32 0x4003C060#32 (.amaxz (bitsAt w 23 5) (bitsAt w 18 5) (bitsAt w 9 5) (bitsAt w 8 1))
    | 7 => row w 0xF003C0FF#32 0x4003C070#32 (.aand (bitsAt w 23 5) (bitsAt w 18 5) (bitsAt w 9 5) (bitsAt w 8 1))
    | 8 => row w 0xF003C0FF#32 0x4003C080#32 (.aor (bitsAt w 23 5) (bitsAt w 18 5) (bitsAt w 9 5) (bitsAt w 8 1))
    | 9 => row w 0xF003C0FF#32 0x4003C090#32 (.axor (bitsAt w 23 5) (bitsAt w 18 5) (bitsAt w 9 5) (bitsAt w 8 1))
    | _ => none
  | _ => none

/-- Class 5 (R88, R89, R171). -/
def decodeClass5 (w : IWord) : Option Instr :=
  match (bitsAt w 0 5).toNat with
  | 0 => row w 0xF07C003F#32 0x50000000#32 (.crr (bitsAt w 23 5) (bitsAt w 6 12))
  | 1 => row w 0xFF80003F#32 0x50000001#32 (.crw (bitsAt w 18 5) (bitsAt w 6 12))
  | 2 => row w 0xFF80003F#32 0x50000002#32 (.crset (bitsAt w 18 5) (bitsAt w 6 12))
  | 3 => row w 0xFF80003F#32 0x50000003#32 (.crclr (bitsAt w 18 5) (bitsAt w 6 12))
  | 4 => row w 0xFF83FFFF#32 0x50000004#32 (.trap (bitsAt w 18 5))
  | 5 => row w 0xFFFFFFFF#32 0x50000005#32 .eret
  | 6 => row w 0xFFFFFFFF#32 0x50000006#32 .fence
  | 7 => row w 0xFFFFFFFF#32 0x50000007#32 .fences
  | 8 => row w 0xFFFFFFFF#32 0x50000008#32 .errfence
  | 9 => row w 0xFFFFFFFF#32 0x50000009#32 .yield
  | 10 => row w 0xFFFFFFFF#32 0x5000000A#32 .halt
  | 11 => row w 0xFFFFFFFF#32 0x5000000B#32 .bkpt
  | 12 => row w 0xFF83FFFF#32 0x5000000C#32 (.ctxsave (bitsAt w 18 5))
  | 13 => row w 0xFF83FFFF#32 0x5000000D#32 (.ctxload (bitsAt w 18 5))
  | 14 => row w 0xF00000FF#32 0x5000000E#32 (.setvl (bitsAt w 23 5) (bitsAt w 18 5) (bitsAt w 13 5) (bitsAt w 8 5))
  | 15 => row w 0xF00000FF#32 0x5000000F#32 (.setvlK (bitsAt w 23 5) (bitsAt w 18 5) (bitsAt w 13 5) (bitsAt w 8 5))
  | 16 => row w 0xF00000FF#32 0x50000010#32 (.setvlg (bitsAt w 23 5) (bitsAt w 18 5) (bitsAt w 13 5) (bitsAt w 8 5))
  | _ => none

/-- Class 8 (R93 to R95). -/
def decodeClass8 (w : IWord) : Option Instr :=
  match (bitsAt w 0 5).toNat with
  | 0 => row w 0xF000001F#32 0x80000000#32 (.vadd (bitsAt w 22 6) (bitsAt w 16 6) (bitsAt w 10 6) (bitsAt w 9 1) (bitsAt w 8 1) (bitsAt w 5 3))
  | 1 => row w 0xF000001F#32 0x80000001#32 (.vsub (bitsAt w 22 6) (bitsAt w 16 6) (bitsAt w 10 6) (bitsAt w 9 1) (bitsAt w 8 1) (bitsAt w 5 3))
  | 2 => row w 0xF000001F#32 0x80000002#32 (.vmul (bitsAt w 22 6) (bitsAt w 16 6) (bitsAt w 10 6) (bitsAt w 9 1) (bitsAt w 8 1) (bitsAt w 5 3))
  | 3 => row w 0xF000001F#32 0x80000003#32 (.vmulh (bitsAt w 22 6) (bitsAt w 16 6) (bitsAt w 10 6) (bitsAt w 9 1) (bitsAt w 8 1) (bitsAt w 5 3))
  | 4 => row w 0xF000001F#32 0x80000004#32 (.vmulhz (bitsAt w 22 6) (bitsAt w 16 6) (bitsAt w 10 6) (bitsAt w 9 1) (bitsAt w 8 1) (bitsAt w 5 3))
  | 5 => row w 0xF000001F#32 0x80000005#32 (.vmadd (bitsAt w 22 6) (bitsAt w 16 6) (bitsAt w 10 6) (bitsAt w 9 1) (bitsAt w 8 1) (bitsAt w 5 3))
  | 6 => row w 0xF000001F#32 0x80000006#32 (.vmsub (bitsAt w 22 6) (bitsAt w 16 6) (bitsAt w 10 6) (bitsAt w 9 1) (bitsAt w 8 1) (bitsAt w 5 3))
  | 7 => row w 0xF000001F#32 0x80000007#32 (.vand (bitsAt w 22 6) (bitsAt w 16 6) (bitsAt w 10 6) (bitsAt w 9 1) (bitsAt w 8 1) (bitsAt w 5 3))
  | 8 => row w 0xF000001F#32 0x80000008#32 (.vor (bitsAt w 22 6) (bitsAt w 16 6) (bitsAt w 10 6) (bitsAt w 9 1) (bitsAt w 8 1) (bitsAt w 5 3))
  | 9 => row w 0xF000001F#32 0x80000009#32 (.vxor (bitsAt w 22 6) (bitsAt w 16 6) (bitsAt w 10 6) (bitsAt w 9 1) (bitsAt w 8 1) (bitsAt w 5 3))
  | 10 => row w 0xF000001F#32 0x8000000A#32 (.vsll (bitsAt w 22 6) (bitsAt w 16 6) (bitsAt w 10 6) (bitsAt w 9 1) (bitsAt w 8 1) (bitsAt w 5 3))
  | 11 => row w 0xF000001F#32 0x8000000B#32 (.vsrl (bitsAt w 22 6) (bitsAt w 16 6) (bitsAt w 10 6) (bitsAt w 9 1) (bitsAt w 8 1) (bitsAt w 5 3))
  | 12 => row w 0xF000001F#32 0x8000000C#32 (.vsra (bitsAt w 22 6) (bitsAt w 16 6) (bitsAt w 10 6) (bitsAt w 9 1) (bitsAt w 8 1) (bitsAt w 5 3))
  | 13 => row w 0xF000001F#32 0x8000000D#32 (.vmin (bitsAt w 22 6) (bitsAt w 16 6) (bitsAt w 10 6) (bitsAt w 9 1) (bitsAt w 8 1) (bitsAt w 5 3))
  | 14 => row w 0xF000001F#32 0x8000000E#32 (.vmax (bitsAt w 22 6) (bitsAt w 16 6) (bitsAt w 10 6) (bitsAt w 9 1) (bitsAt w 8 1) (bitsAt w 5 3))
  | 15 => row w 0xF000001F#32 0x8000000F#32 (.vminz (bitsAt w 22 6) (bitsAt w 16 6) (bitsAt w 10 6) (bitsAt w 9 1) (bitsAt w 8 1) (bitsAt w 5 3))
  | 16 => row w 0xF000001F#32 0x80000010#32 (.vmaxz (bitsAt w 22 6) (bitsAt w 16 6) (bitsAt w 10 6) (bitsAt w 9 1) (bitsAt w 8 1) (bitsAt w 5 3))
  | 17 => row w 0xF000001F#32 0x80000011#32 (.vsadd (bitsAt w 22 6) (bitsAt w 16 6) (bitsAt w 10 6) (bitsAt w 9 1) (bitsAt w 8 1) (bitsAt w 5 3))
  | 18 => row w 0xF000001F#32 0x80000012#32 (.vssub (bitsAt w 22 6) (bitsAt w 16 6) (bitsAt w 10 6) (bitsAt w 9 1) (bitsAt w 8 1) (bitsAt w 5 3))
  | 19 => row w 0xF000001F#32 0x80000013#32 (.vsaddz (bitsAt w 22 6) (bitsAt w 16 6) (bitsAt w 10 6) (bitsAt w 9 1) (bitsAt w 8 1) (bitsAt w 5 3))
  | 20 => row w 0xF000001F#32 0x80000014#32 (.vssubz (bitsAt w 22 6) (bitsAt w 16 6) (bitsAt w 10 6) (bitsAt w 9 1) (bitsAt w 8 1) (bitsAt w 5 3))
  | 21 => row w 0xF000001F#32 0x80000015#32 (.vabsd (bitsAt w 22 6) (bitsAt w 16 6) (bitsAt w 10 6) (bitsAt w 9 1) (bitsAt w 8 1) (bitsAt w 5 3))
  | _ => none

/-- Class 9 (R96, R97). -/
def decodeClass9 (w : IWord) : Option Instr :=
  match (bitsAt w 0 5).toNat with
  | 0 => row w 0xF000001F#32 0x90000000#32 (.vfadd (bitsAt w 22 6) (bitsAt w 16 6) (bitsAt w 10 6) (bitsAt w 9 1) (bitsAt w 8 1) (bitsAt w 5 3))
  | 1 => row w 0xF000001F#32 0x90000001#32 (.vfsub (bitsAt w 22 6) (bitsAt w 16 6) (bitsAt w 10 6) (bitsAt w 9 1) (bitsAt w 8 1) (bitsAt w 5 3))
  | 2 => row w 0xF000001F#32 0x90000002#32 (.vfmul (bitsAt w 22 6) (bitsAt w 16 6) (bitsAt w 10 6) (bitsAt w 9 1) (bitsAt w 8 1) (bitsAt w 5 3))
  | 3 => row w 0xF000001F#32 0x90000003#32 (.vfma (bitsAt w 22 6) (bitsAt w 16 6) (bitsAt w 10 6) (bitsAt w 9 1) (bitsAt w 8 1) (bitsAt w 5 3))
  | 4 => row w 0xF000001F#32 0x90000004#32 (.vfms (bitsAt w 22 6) (bitsAt w 16 6) (bitsAt w 10 6) (bitsAt w 9 1) (bitsAt w 8 1) (bitsAt w 5 3))
  | 5 => row w 0xF000001F#32 0x90000005#32 (.vfnma (bitsAt w 22 6) (bitsAt w 16 6) (bitsAt w 10 6) (bitsAt w 9 1) (bitsAt w 8 1) (bitsAt w 5 3))
  | 6 => row w 0xF000001F#32 0x90000006#32 (.vfdiv (bitsAt w 22 6) (bitsAt w 16 6) (bitsAt w 10 6) (bitsAt w 9 1) (bitsAt w 8 1) (bitsAt w 5 3))
  | 7 => row w 0xF000FDFF#32 0x90000007#32 (.vfsqrt (bitsAt w 22 6) (bitsAt w 16 6) (bitsAt w 9 1))
  | 8 => row w 0xF000001F#32 0x90000008#32 (.vfmin (bitsAt w 22 6) (bitsAt w 16 6) (bitsAt w 10 6) (bitsAt w 9 1) (bitsAt w 8 1) (bitsAt w 5 3))
  | 9 => row w 0xF000001F#32 0x90000009#32 (.vfmax (bitsAt w 22 6) (bitsAt w 16 6) (bitsAt w 10 6) (bitsAt w 9 1) (bitsAt w 8 1) (bitsAt w 5 3))
  | 10 => row w 0xF000FDFF#32 0x9000000A#32 (.vfexp2 (bitsAt w 22 6) (bitsAt w 16 6) (bitsAt w 9 1))
  | 11 => row w 0xF000001F#32 0x9000000B#32 (.vfcvt (bitsAt w 22 6) (bitsAt w 16 6) (bitsAt w 11 5) (bitsAt w 10 1 ++ bitsAt w 5 4) (bitsAt w 9 1))
  | 12 => row w 0xF000FDFF#32 0x9000000C#32 (.vfclass (bitsAt w 22 6) (bitsAt w 16 6) (bitsAt w 9 1))
  | 13 => row w 0xF000001F#32 0x9000000D#32 (.vfsgnj (bitsAt w 22 6) (bitsAt w 16 6) (bitsAt w 10 6) (bitsAt w 9 1) (bitsAt w 8 1) (bitsAt w 5 3))
  | _ => none

/-- Class 10 (R100, R101). -/
def decodeClass10 (w : IWord) : Option Instr :=
  match (bitsAt w 0 5).toNat with
  | 0 => row w 0xF0001FFF#32 0xA0000000#32 (.pand (bitsAt w 23 5) (bitsAt w 18 5) (bitsAt w 13 5))
  | 1 => row w 0xF0001FFF#32 0xA0000001#32 (.por (bitsAt w 23 5) (bitsAt w 18 5) (bitsAt w 13 5))
  | 2 => row w 0xF0001FFF#32 0xA0000002#32 (.pxor (bitsAt w 23 5) (bitsAt w 18 5) (bitsAt w 13 5))
  | 3 => row w 0xF0001FFF#32 0xA0000003#32 (.pandn (bitsAt w 23 5) (bitsAt w 18 5) (bitsAt w 13 5))
  | 4 => row w 0xF07FFFFF#32 0xA0000004#32 (.pset (bitsAt w 23 5))
  | 5 => row w 0xF07FFFFF#32 0xA0000005#32 (.pclr (bitsAt w 23 5))
  | 6 => row w 0xF003FFFF#32 0xA0000006#32 (.pmov (bitsAt w 23 5) (bitsAt w 18 5))
  | 7 => row w 0xF003FFFF#32 0xA0000007#32 (.pexitb (bitsAt w 23 5) (bitsAt w 18 5))
  | 8 => row w 0xF003FFFF#32 0xA0000008#32 (.pexita (bitsAt w 23 5) (bitsAt w 18 5))
  | 9 => row w 0xF003FFFF#32 0xA0000009#32 (.pfirst (bitsAt w 23 5) (bitsAt w 18 5))
  | 10 => row w 0xF003FFFF#32 0xA000000A#32 (.pcnt (bitsAt w 23 5) (bitsAt w 18 5))
  | 11 => row w 0xF003FFFF#32 0xA000000B#32 (.pidx (bitsAt w 23 5) (bitsAt w 18 5))
  | 16 => row w 0xF000003F#32 0xA0000010#32 (.vcmpEq (bitsAt w 23 5) (bitsAt w 17 6) (bitsAt w 11 6) (bitsAt w 10 1) (bitsAt w 9 1) (bitsAt w 6 3))
  | 17 => row w 0xF000003F#32 0xA0000011#32 (.vcmpNe (bitsAt w 23 5) (bitsAt w 17 6) (bitsAt w 11 6) (bitsAt w 10 1) (bitsAt w 9 1) (bitsAt w 6 3))
  | 18 => row w 0xF000003F#32 0xA0000012#32 (.vcmpLt (bitsAt w 23 5) (bitsAt w 17 6) (bitsAt w 11 6) (bitsAt w 10 1) (bitsAt w 9 1) (bitsAt w 6 3))
  | 19 => row w 0xF000003F#32 0xA0000013#32 (.vcmpLe (bitsAt w 23 5) (bitsAt w 17 6) (bitsAt w 11 6) (bitsAt w 10 1) (bitsAt w 9 1) (bitsAt w 6 3))
  | 20 => row w 0xF000003F#32 0xA0000014#32 (.vcmpLtz (bitsAt w 23 5) (bitsAt w 17 6) (bitsAt w 11 6) (bitsAt w 10 1) (bitsAt w 9 1) (bitsAt w 6 3))
  | 21 => row w 0xF000003F#32 0xA0000015#32 (.vcmpLez (bitsAt w 23 5) (bitsAt w 17 6) (bitsAt w 11 6) (bitsAt w 10 1) (bitsAt w 9 1) (bitsAt w 6 3))
  | 22 => row w 0xF000003F#32 0xA0000016#32 (.vfcmpEq (bitsAt w 23 5) (bitsAt w 17 6) (bitsAt w 11 6) (bitsAt w 10 1) (bitsAt w 9 1) (bitsAt w 6 3))
  | 23 => row w 0xF000003F#32 0xA0000017#32 (.vfcmpNe (bitsAt w 23 5) (bitsAt w 17 6) (bitsAt w 11 6) (bitsAt w 10 1) (bitsAt w 9 1) (bitsAt w 6 3))
  | 24 => row w 0xF000003F#32 0xA0000018#32 (.vfcmpLt (bitsAt w 23 5) (bitsAt w 17 6) (bitsAt w 11 6) (bitsAt w 10 1) (bitsAt w 9 1) (bitsAt w 6 3))
  | 25 => row w 0xF000003F#32 0xA0000019#32 (.vfcmpLe (bitsAt w 23 5) (bitsAt w 17 6) (bitsAt w 11 6) (bitsAt w 10 1) (bitsAt w 9 1) (bitsAt w 6 3))
  | 26 => row w 0xF000003F#32 0xA000001A#32 (.vfcmpUn (bitsAt w 23 5) (bitsAt w 17 6) (bitsAt w 11 6) (bitsAt w 10 1) (bitsAt w 9 1) (bitsAt w 6 3))
  | _ => none

/-- Class 11 (R98, R99). -/
def decodeClass11 (w : IWord) : Option Instr :=
  match (bitsAt w 0 5).toNat with
  | 0 => row w 0xF000021F#32 0xB0000000#32 (.vslup (bitsAt w 22 6) (bitsAt w 16 6) (bitsAt w 11 5) (bitsAt w 10 1 ++ bitsAt w 5 4))
  | 1 => row w 0xF000021F#32 0xB0000001#32 (.vsldn (bitsAt w 22 6) (bitsAt w 16 6) (bitsAt w 11 5) (bitsAt w 10 1 ++ bitsAt w 5 4))
  | 2 => row w 0xF00003FF#32 0xB0000002#32 (.vcompress (bitsAt w 22 6) (bitsAt w 16 6) (bitsAt w 10 6))
  | 3 => row w 0xF00003FF#32 0xB0000003#32 (.vexpand (bitsAt w 22 6) (bitsAt w 16 6) (bitsAt w 10 6))
  | 4 => row w 0xF00003FF#32 0xB0000004#32 (.vperm (bitsAt w 22 6) (bitsAt w 16 6) (bitsAt w 10 6))
  | 5 => row w 0xF03FFFFF#32 0xB0000005#32 (.vid (bitsAt w 22 6))
  | 6 => row w 0xF000FFFF#32 0xB0000006#32 (.viota (bitsAt w 22 6) (bitsAt w 16 6))
  | 7 => row w 0xF000001F#32 0xB0000007#32 (.vmerge (bitsAt w 22 6) (bitsAt w 16 6) (bitsAt w 10 6) (bitsAt w 9 1) (bitsAt w 8 1) (bitsAt w 5 3))
  | 8 => row w 0xF000FFFF#32 0xB0000008#32 (.vbcast (bitsAt w 22 6) (bitsAt w 16 6))
  | 9 => row w 0xF00003FF#32 0xB0000009#32 (.vextr (bitsAt w 22 6) (bitsAt w 16 6) (bitsAt w 10 6))
  | 10 => row w 0xF00003FF#32 0xB000000A#32 (.vins (bitsAt w 22 6) (bitsAt w 16 6) (bitsAt w 10 6))
  | 11 => row w 0xF000FFFF#32 0xB000000B#32 (.vrsum (bitsAt w 22 6) (bitsAt w 16 6))
  | 12 => row w 0xF000FFFF#32 0xB000000C#32 (.vrmax (bitsAt w 22 6) (bitsAt w 16 6))
  | 13 => row w 0xF000FFFF#32 0xB000000D#32 (.vrmin (bitsAt w 22 6) (bitsAt w 16 6))
  | 14 => row w 0xF000FFFF#32 0xB000000E#32 (.vfrsum (bitsAt w 22 6) (bitsAt w 16 6))
  | 15 => row w 0xF000FFFF#32 0xB000000F#32 (.vfrsumo (bitsAt w 22 6) (bitsAt w 16 6))
  | 16 => row w 0xF000FFFF#32 0xB0000010#32 (.vfrmax (bitsAt w 22 6) (bitsAt w 16 6))
  | 17 => row w 0xF000FFFF#32 0xB0000011#32 (.vfrmin (bitsAt w 22 6) (bitsAt w 16 6))
  | 18 => row w 0xF00003FF#32 0xB0000012#32 (.vrscl (bitsAt w 22 6) (bitsAt w 16 6) (bitsAt w 10 6))
  | 19 => row w 0xF000FFFF#32 0xB0000013#32 (.vargmax (bitsAt w 22 6) (bitsAt w 16 6))
  | 20 => row w 0xF000FF1F#32 0xB0000014#32 (.vpsplit (bitsAt w 22 6) (bitsAt w 16 6) (bitsAt w 5 3))
  | 21 => row w 0xF000FF1F#32 0xB0000015#32 (.vpjoin (bitsAt w 22 6) (bitsAt w 16 6) (bitsAt w 5 3))
  | 22 => row w 0xF000FDFF#32 0xB0000016#32 (.vpadd (bitsAt w 22 6) (bitsAt w 16 6) (bitsAt w 9 1))
  | _ => none

/-- Class 12 (R102 to R104). -/
def decodeClass12 (w : IWord) : Option Instr :=
  match (bitsAt w 0 5).toNat with
  | 0 => row w 0xF001FFFF#32 0xC0000000#32 (.vld (bitsAt w 22 6) (bitsAt w 17 5))
  | 1 => row w 0xF001FFFF#32 0xC0000001#32 (.vlds (bitsAt w 22 6) (bitsAt w 17 5))
  | 2 => row w 0xF000039F#32 0xC0000002#32 (.vldx (bitsAt w 22 6) (bitsAt w 17 5) (bitsAt w 11 6) (bitsAt w 10 1) (bitsAt w 5 2))
  | 3 => row w 0xF001FFFF#32 0xC0000003#32 (.vldf (bitsAt w 22 6) (bitsAt w 17 5))
  | 4 => row w 0xF001FBFF#32 0xC0000004#32 (.vst (bitsAt w 22 6) (bitsAt w 17 5) (bitsAt w 10 1))
  | 5 => row w 0xF001FBFF#32 0xC0000005#32 (.vsts (bitsAt w 22 6) (bitsAt w 17 5) (bitsAt w 10 1))
  | 6 => row w 0xF000039F#32 0xC0000006#32 (.vstx (bitsAt w 22 6) (bitsAt w 17 5) (bitsAt w 11 6) (bitsAt w 10 1) (bitsAt w 5 2))
  | 7 => row w 0xF000031F#32 0xC0000007#32 (.vscadd (bitsAt w 22 6) (bitsAt w 17 5) (bitsAt w 11 6) (bitsAt w 10 1) (bitsAt w 7 1) (bitsAt w 5 2))
  | 8 => row w 0xF001FFDF#32 0xC0000008#32 (.vmerget (bitsAt w 22 6) (bitsAt w 17 5) (bitsAt w 5 1))
  | 9 => row w 0xF000049F#32 0xC0000009#32 (.vpld (bitsAt w 22 6) (bitsAt w 17 5) (bitsAt w 11 6) (bitsAt w 8 2) (bitsAt w 5 2))
  | 10 => row w 0xF00004BF#32 0xC000000A#32 (.vpst (bitsAt w 22 6) (bitsAt w 17 5) (bitsAt w 11 6) (bitsAt w 8 2) (bitsAt w 6 1))
  | 11 => row w 0xF001FCFF#32 0xC000000B#32 (.vxpand (bitsAt w 22 6) (bitsAt w 17 5) (bitsAt w 8 2))
  | 12 => row w 0xF001FFFF#32 0xC000000C#32 (.vbind (bitsAt w 22 6) (bitsAt w 17 5))
  | 13 => row w 0xF03FFFFF#32 0xC000000D#32 (.vunbind (bitsAt w 22 6))
  | _ => none

/-- Class 13 (R106 to R108). -/
def decodeClass13 (w : IWord) : Option Instr :=
  match (bitsAt w 0 5).toNat with
  | 0 => row w 0xFFFFFF1F#32 0xD0000000#32 (.mattach (bitsAt w 5 3))
  | 1 => row w 0xFFFFFFFF#32 0xD0000001#32 .mdetach
  | 2 => row w 0xF3FFFFFF#32 0xD0000002#32 (.mzero (bitsAt w 26 2))
  | 3 => row w 0xF00000DF#32 0xD0000003#32 (.mxacc (bitsAt w 26 2) (bitsAt w 20 6) (bitsAt w 14 6) (bitsAt w 13 1) (bitsAt w 12 1) (bitsAt w 8 4) (bitsAt w 5 1))
  | 4 => row w 0xF00000DF#32 0xD0000004#32 (.mxsub (bitsAt w 26 2) (bitsAt w 20 6) (bitsAt w 14 6) (bitsAt w 13 1) (bitsAt w 12 1) (bitsAt w 8 4) (bitsAt w 5 1))
  | 5 => row w 0xF0003FFF#32 0xD0000005#32 (.mrowv (bitsAt w 26 2) (bitsAt w 20 6) (bitsAt w 14 6))
  | 6 => row w 0xF0003FFF#32 0xD0000006#32 (.mcolv (bitsAt w 26 2) (bitsAt w 20 6) (bitsAt w 14 6))
  | 7 => row w 0xF0003FFF#32 0xD0000007#32 (.mvrow (bitsAt w 26 2) (bitsAt w 20 6) (bitsAt w 14 6))
  | 8 => row w 0xF00FFFFF#32 0xD0000008#32 (.mtst (bitsAt w 26 2) (bitsAt w 20 6))
  | 9 => row w 0xF00FFFFF#32 0xD0000009#32 (.mtld (bitsAt w 26 2) (bitsAt w 20 6))
  | _ => none

/-- Class 14 (R109). -/
def decodeClass14 (w : IWord) : Option Instr :=
  match (bitsAt w 0 5).toNat with
  | 0 => row w 0xF000007F#32 0xE0000000#32 (.cpy (bitsAt w 23 5) (bitsAt w 18 5) (bitsAt w 13 5) (bitsAt w 7 6))
  | 1 => row w 0xF003E07F#32 0xE0000001#32 (.cpyg (bitsAt w 23 5) (bitsAt w 18 5) (bitsAt w 7 6))
  | 2 => row w 0xF003FFFF#32 0xE0000002#32 (.cpyx (bitsAt w 23 5) (bitsAt w 18 5))
  | 3 => row w 0xFF80007F#32 0xE0000003#32 (.kzone (bitsAt w 18 5) (bitsAt w 13 5) (bitsAt w 7 6))
  | 4 => row w 0xF0001FFF#32 0xE0000004#32 (.krsv (bitsAt w 23 5) (bitsAt w 18 5) (bitsAt w 13 5))
  | 5 => row w 0xF000001F#32 0xE0000005#32 (.ksend (bitsAt w 23 5) (bitsAt w 18 5) (bitsAt w 13 5) (bitsAt w 7 6) (bitsAt w 5 2))
  | 6 => row w 0xF0001FFF#32 0xE0000006#32 (.kwait (bitsAt w 23 5) (bitsAt w 18 5) (bitsAt w 13 5))
  | 7 => row w 0xFF801FFF#32 0xE0000007#32 (.krel (bitsAt w 18 5) (bitsAt w 13 5))
  | 8 => row w 0xF0001FFF#32 0xE0000008#32 (.kstat (bitsAt w 23 5) (bitsAt w 18 5) (bitsAt w 13 5))
  | 9 => row w 0xF003FFFF#32 0xE0000009#32 (.tlrd (bitsAt w 23 5) (bitsAt w 18 5))
  | 10 => row w 0xF0001FFF#32 0xE000000A#32 (.tlwait (bitsAt w 23 5) (bitsAt w 18 5) (bitsAt w 13 5))
  | 11 => row w 0xFF801FFF#32 0xE000000B#32 (.tlsig (bitsAt w 18 5) (bitsAt w 13 5))
  | 12 => row w 0xF003FFFF#32 0xE000000C#32 (.launch (bitsAt w 23 5) (bitsAt w 18 5))
  | 13 => row w 0xFFFFFFFF#32 0xE000000D#32 .waitslot
  | 14 => row w 0xFF801FFF#32 0xE000000E#32 (.post (bitsAt w 18 5) (bitsAt w 13 5))
  | 15 => row w 0xF003FFFF#32 0xE000000F#32 (.wait (bitsAt w 23 5) (bitsAt w 18 5))
  | 16 => row w 0xF07FFFFF#32 0xE0000010#32 (.gbarw (bitsAt w 23 5))
  | 17 => row w 0xFF801FFF#32 0xE0000011#32 (.barinit (bitsAt w 18 5) (bitsAt w 13 5))
  | 18 => row w 0xF003FFFF#32 0xE0000012#32 (.barwait (bitsAt w 23 5) (bitsAt w 18 5))
  | _ => none

/-- Class 15 (R110). -/
def decodeClass15 (w : IWord) : Option Instr :=
  match (bitsAt w 0 5).toNat with
  | 0 => row w 0xF000001F#32 0xF0000000#32 (.vsample (bitsAt w 22 6) (bitsAt w 16 6) (bitsAt w 10 6) (bitsAt w 5 5))
  | 1 => row w 0xF000FC1F#32 0xF0000001#32 (.vpen (bitsAt w 22 6) (bitsAt w 16 6) (bitsAt w 5 5))
  | 2 => row w 0xF000FC1F#32 0xF0000002#32 (.gmask (bitsAt w 22 6) (bitsAt w 16 6) (bitsAt w 5 5))
  | 3 => row w 0xF000FC1F#32 0xF0000003#32 (.gadv (bitsAt w 22 6) (bitsAt w 16 6) (bitsAt w 5 5))
  | 4 => row w 0xF03FFC1F#32 0xF0000004#32 (.gstat (bitsAt w 22 6) (bitsAt w 5 5))
  | 5 => row w 0xF000FC1F#32 0xF0000005#32 (.stopm (bitsAt w 22 6) (bitsAt w 16 6) (bitsAt w 5 5))
  | 6 => row w 0xF000001F#32 0xF0000006#32 (.vhlook (bitsAt w 22 6) (bitsAt w 16 6) (bitsAt w 10 6) (bitsAt w 5 5))
  | 7 => row w 0xF000FC1F#32 0xF0000007#32 (.pfxh (bitsAt w 22 6) (bitsAt w 16 6) (bitsAt w 5 5))
  | 8 => row w 0xF000001F#32 0xF0000008#32 (.pfxlk (bitsAt w 22 6) (bitsAt w 16 6) (bitsAt w 10 6) (bitsAt w 5 5))
  | 9 => row w 0xF00003FF#32 0xF0000009#32 (.pfxpin (bitsAt w 22 6) (bitsAt w 16 6) (bitsAt w 10 6))
  | 10 => row w 0xF00003FF#32 0xF000000A#32 (.pfxins (bitsAt w 22 6) (bitsAt w 16 6) (bitsAt w 10 6))
  | 11 => row w 0xF00003FF#32 0xF000000B#32 (.pfxunpin (bitsAt w 22 6) (bitsAt w 16 6) (bitsAt w 10 6))
  | 12 => row w 0xFFC003FF#32 0xF000000C#32 (.ngput (bitsAt w 16 6) (bitsAt w 10 6))
  | 13 => row w 0xF00003FF#32 0xF000000D#32 (.ngget (bitsAt w 22 6) (bitsAt w 16 6) (bitsAt w 10 6))
  | _ => none

/-- The instruction a word would name by its class, op and fixed bits alone (R78). -/
def decodeFields (w : IWord) : Option Instr :=
  match (bitsAt w 28 4).toNat with
  | 0 => decodeClass0 w
  | 1 => decodeClass1 w
  | 2 => decodeClass2 w
  | 3 => decodeClass3 w
  | 4 => decodeClass4 w
  | 5 => decodeClass5 w
  | 8 => decodeClass8 w
  | 9 => decodeClass9 w
  | 10 => decodeClass10 w
  | 11 => decodeClass11 w
  | 12 => decodeClass12 w
  | 13 => decodeClass13 w
  | 14 => decodeClass14 w
  | 15 => decodeClass15 w
  | _ => none

/-- The instruction that a word holds; none for the words that R113 calls ILLEGAL. -/
def decode (w : IWord) : Option Instr := (decodeFields w).filter wellFormed

/-- The word of an encoded instruction; none for an event, which has no word. -/
def encode : Instr → Option IWord
  | .add d a b => some (0x00000001#32 ||| placed d 23 ||| placed a 18 ||| placed b 13)
  | .sub d a b => some (0x00000002#32 ||| placed d 23 ||| placed a 18 ||| placed b 13)
  | .mul d a b => some (0x00000003#32 ||| placed d 23 ||| placed a 18 ||| placed b 13)
  | .mulh d a b => some (0x00000004#32 ||| placed d 23 ||| placed a 18 ||| placed b 13)
  | .mulhz d a b => some (0x00000005#32 ||| placed d 23 ||| placed a 18 ||| placed b 13)
  | .div d a b => some (0x00000006#32 ||| placed d 23 ||| placed a 18 ||| placed b 13)
  | .divz d a b => some (0x00000007#32 ||| placed d 23 ||| placed a 18 ||| placed b 13)
  | .rem d a b => some (0x00000008#32 ||| placed d 23 ||| placed a 18 ||| placed b 13)
  | .remz d a b => some (0x00000009#32 ||| placed d 23 ||| placed a 18 ||| placed b 13)
  | .and d a b => some (0x0000000A#32 ||| placed d 23 ||| placed a 18 ||| placed b 13)
  | .or d a b => some (0x0000000B#32 ||| placed d 23 ||| placed a 18 ||| placed b 13)
  | .xor d a b => some (0x0000000C#32 ||| placed d 23 ||| placed a 18 ||| placed b 13)
  | .andn d a b => some (0x0000000D#32 ||| placed d 23 ||| placed a 18 ||| placed b 13)
  | .sll d a b => some (0x0000000E#32 ||| placed d 23 ||| placed a 18 ||| placed b 13)
  | .srl d a b => some (0x0000000F#32 ||| placed d 23 ||| placed a 18 ||| placed b 13)
  | .sra d a b => some (0x00000010#32 ||| placed d 23 ||| placed a 18 ||| placed b 13)
  | .slt d a b => some (0x00000011#32 ||| placed d 23 ||| placed a 18 ||| placed b 13)
  | .sltz d a b => some (0x00000012#32 ||| placed d 23 ||| placed a 18 ||| placed b 13)
  | .min d a b => some (0x00000013#32 ||| placed d 23 ||| placed a 18 ||| placed b 13)
  | .max d a b => some (0x00000014#32 ||| placed d 23 ||| placed a 18 ||| placed b 13)
  | .minz d a b => some (0x00000015#32 ||| placed d 23 ||| placed a 18 ||| placed b 13)
  | .maxz d a b => some (0x00000016#32 ||| placed d 23 ||| placed a 18 ||| placed b 13)
  | .clz d a => some (0x00000017#32 ||| placed d 23 ||| placed a 18)
  | .ctz d a => some (0x00000018#32 ||| placed d 23 ||| placed a 18)
  | .popc d a => some (0x00000019#32 ||| placed d 23 ||| placed a 18)
  | .movnz d a b => some (0x0000001A#32 ||| placed d 23 ||| placed a 18 ||| placed b 13)
  | .fadd d a b w => some (0x00000020#32 ||| placed d 23 ||| placed a 18 ||| placed b 13 ||| placed w 11)
  | .fsub d a b w => some (0x00000021#32 ||| placed d 23 ||| placed a 18 ||| placed b 13 ||| placed w 11)
  | .fmul d a b w => some (0x00000022#32 ||| placed d 23 ||| placed a 18 ||| placed b 13 ||| placed w 11)
  | .fma d a b w => some (0x00000023#32 ||| placed d 23 ||| placed a 18 ||| placed b 13 ||| placed w 11)
  | .fdiv d a b w => some (0x00000024#32 ||| placed d 23 ||| placed a 18 ||| placed b 13 ||| placed w 11)
  | .fsqrt d a w => some (0x00000025#32 ||| placed d 23 ||| placed a 18 ||| placed w 11)
  | .fmin d a b w => some (0x00000026#32 ||| placed d 23 ||| placed a 18 ||| placed b 13 ||| placed w 11)
  | .fmax d a b w => some (0x00000027#32 ||| placed d 23 ||| placed a 18 ||| placed b 13 ||| placed w 11)
  | .fcmpeq d a b w => some (0x00000028#32 ||| placed d 23 ||| placed a 18 ||| placed b 13 ||| placed w 11)
  | .fcmplt d a b w => some (0x00000029#32 ||| placed d 23 ||| placed a 18 ||| placed b 13 ||| placed w 11)
  | .fcmple d a b w => some (0x0000002A#32 ||| placed d 23 ||| placed a 18 ||| placed b 13 ||| placed w 11)
  | .fcvt d a c w => some (0x0000002B#32 ||| placed d 23 ||| placed a 18 ||| placed c 13 ||| placed w 11)
  | .fclass d a w => some (0x0000002C#32 ||| placed d 23 ||| placed a 18 ||| placed w 11)
  | .addi d a i => some (0x10000000#32 ||| placed d 23 ||| placed a 18 ||| placed i 0)
  | .andi d a i => some (0x10004000#32 ||| placed d 23 ||| placed a 18 ||| placed i 0)
  | .ori d a i => some (0x10008000#32 ||| placed d 23 ||| placed a 18 ||| placed i 0)
  | .xori d a i => some (0x1000C000#32 ||| placed d 23 ||| placed a 18 ||| placed i 0)
  | .slli d a s => some (0x10010000#32 ||| placed d 23 ||| placed a 18 ||| placed s 0)
  | .srli d a s => some (0x10014000#32 ||| placed d 23 ||| placed a 18 ||| placed s 0)
  | .srai d a s => some (0x10018000#32 ||| placed d 23 ||| placed a 18 ||| placed s 0)
  | .slti d a i => some (0x1001C000#32 ||| placed d 23 ||| placed a 18 ||| placed i 0)
  | .sltzi d a i => some (0x10020000#32 ||| placed d 23 ||| placed a 18 ||| placed i 0)
  | .lhi d i => some (0x20000000#32 ||| placed d 23 ||| placed i 0)
  | .addpc d i => some (0x20400000#32 ||| placed d 23 ||| placed i 0)
  | .beq a b o => some (0x30000000#32 ||| placed a 20 ||| placed b 15 ||| placed o 0)
  | .bne a b o => some (0x32000000#32 ||| placed a 20 ||| placed b 15 ||| placed o 0)
  | .blt a b o => some (0x34000000#32 ||| placed a 20 ||| placed b 15 ||| placed o 0)
  | .bge a b o => some (0x36000000#32 ||| placed a 20 ||| placed b 15 ||| placed o 0)
  | .bltz a b o => some (0x38000000#32 ||| placed a 20 ||| placed b 15 ||| placed o 0)
  | .bgez a b o => some (0x3A000000#32 ||| placed a 20 ||| placed b 15 ||| placed o 0)
  | .bpany p o => some (0x3C000000#32 ||| placed p 18 ||| placed o 0)
  | .bpnone p o => some (0x3C800000#32 ||| placed p 18 ||| placed o 0)
  | .jalr d a => some (0x3D000000#32 ||| placed d 18 ||| placed a 13)
  | .jal l o => some (0x3E000000#32 ||| placed l 23 ||| placed o 0)
  | .ldb d a i => some (0x40000000#32 ||| placed d 23 ||| placed a 18 ||| placed i 0)
  | .ldh d a i => some (0x40004000#32 ||| placed d 23 ||| placed a 18 ||| placed i 0)
  | .ldw d a i => some (0x40008000#32 ||| placed d 23 ||| placed a 18 ||| placed i 0)
  | .ldd d a i => some (0x4000C000#32 ||| placed d 23 ||| placed a 18 ||| placed i 0)
  | .ldbz d a i => some (0x40010000#32 ||| placed d 23 ||| placed a 18 ||| placed i 0)
  | .ldhz d a i => some (0x40014000#32 ||| placed d 23 ||| placed a 18 ||| placed i 0)
  | .ldwz d a i => some (0x40018000#32 ||| placed d 23 ||| placed a 18 ||| placed i 0)
  | .stb s a i => some (0x40020000#32 ||| placed s 23 ||| placed a 18 ||| placed i 0)
  | .sth s a i => some (0x40024000#32 ||| placed s 23 ||| placed a 18 ||| placed i 0)
  | .stw s a i => some (0x40028000#32 ||| placed s 23 ||| placed a 18 ||| placed i 0)
  | .std s a i => some (0x4002C000#32 ||| placed s 23 ||| placed a 18 ||| placed i 0)
  | .aadd d a b w => some (0x4003C000#32 ||| placed d 23 ||| placed a 18 ||| placed b 9 ||| placed w 8)
  | .aswp d a b w => some (0x4003C010#32 ||| placed d 23 ||| placed a 18 ||| placed b 9 ||| placed w 8)
  | .acas d a b w => some (0x4003C020#32 ||| placed d 23 ||| placed a 18 ||| placed b 9 ||| placed w 8)
  | .amin d a b w => some (0x4003C030#32 ||| placed d 23 ||| placed a 18 ||| placed b 9 ||| placed w 8)
  | .amax d a b w => some (0x4003C040#32 ||| placed d 23 ||| placed a 18 ||| placed b 9 ||| placed w 8)
  | .aminz d a b w => some (0x4003C050#32 ||| placed d 23 ||| placed a 18 ||| placed b 9 ||| placed w 8)
  | .amaxz d a b w => some (0x4003C060#32 ||| placed d 23 ||| placed a 18 ||| placed b 9 ||| placed w 8)
  | .aand d a b w => some (0x4003C070#32 ||| placed d 23 ||| placed a 18 ||| placed b 9 ||| placed w 8)
  | .aor d a b w => some (0x4003C080#32 ||| placed d 23 ||| placed a 18 ||| placed b 9 ||| placed w 8)
  | .axor d a b w => some (0x4003C090#32 ||| placed d 23 ||| placed a 18 ||| placed b 9 ||| placed w 8)
  | .crr d c => some (0x50000000#32 ||| placed d 23 ||| placed c 6)
  | .crw a c => some (0x50000001#32 ||| placed a 18 ||| placed c 6)
  | .crset a c => some (0x50000002#32 ||| placed a 18 ||| placed c 6)
  | .crclr a c => some (0x50000003#32 ||| placed a 18 ||| placed c 6)
  | .trap a => some (0x50000004#32 ||| placed a 18)
  | .eret => some (0x50000005#32)
  | .fence => some (0x50000006#32)
  | .fences => some (0x50000007#32)
  | .errfence => some (0x50000008#32)
  | .yield => some (0x50000009#32)
  | .halt => some (0x5000000A#32)
  | .bkpt => some (0x5000000B#32)
  | .ctxsave a => some (0x5000000C#32 ||| placed a 18)
  | .ctxload a => some (0x5000000D#32 ||| placed a 18)
  | .setvl d a b c => some (0x5000000E#32 ||| placed d 23 ||| placed a 18 ||| placed b 13 ||| placed c 8)
  | .setvlK d a b c => some (0x5000000F#32 ||| placed d 23 ||| placed a 18 ||| placed b 13 ||| placed c 8)
  | .setvlg d a b c => some (0x50000010#32 ||| placed d 23 ||| placed a 18 ||| placed b 13 ||| placed c 8)
  | .vadd d a b x y r => some (0x80000000#32 ||| placed d 22 ||| placed a 16 ||| placed b 10 ||| placed x 9 ||| placed y 8 ||| placed r 5)
  | .vsub d a b x y r => some (0x80000001#32 ||| placed d 22 ||| placed a 16 ||| placed b 10 ||| placed x 9 ||| placed y 8 ||| placed r 5)
  | .vmul d a b x y r => some (0x80000002#32 ||| placed d 22 ||| placed a 16 ||| placed b 10 ||| placed x 9 ||| placed y 8 ||| placed r 5)
  | .vmulh d a b x y r => some (0x80000003#32 ||| placed d 22 ||| placed a 16 ||| placed b 10 ||| placed x 9 ||| placed y 8 ||| placed r 5)
  | .vmulhz d a b x y r => some (0x80000004#32 ||| placed d 22 ||| placed a 16 ||| placed b 10 ||| placed x 9 ||| placed y 8 ||| placed r 5)
  | .vmadd d a b x y r => some (0x80000005#32 ||| placed d 22 ||| placed a 16 ||| placed b 10 ||| placed x 9 ||| placed y 8 ||| placed r 5)
  | .vmsub d a b x y r => some (0x80000006#32 ||| placed d 22 ||| placed a 16 ||| placed b 10 ||| placed x 9 ||| placed y 8 ||| placed r 5)
  | .vand d a b x y r => some (0x80000007#32 ||| placed d 22 ||| placed a 16 ||| placed b 10 ||| placed x 9 ||| placed y 8 ||| placed r 5)
  | .vor d a b x y r => some (0x80000008#32 ||| placed d 22 ||| placed a 16 ||| placed b 10 ||| placed x 9 ||| placed y 8 ||| placed r 5)
  | .vxor d a b x y r => some (0x80000009#32 ||| placed d 22 ||| placed a 16 ||| placed b 10 ||| placed x 9 ||| placed y 8 ||| placed r 5)
  | .vsll d a b x y r => some (0x8000000A#32 ||| placed d 22 ||| placed a 16 ||| placed b 10 ||| placed x 9 ||| placed y 8 ||| placed r 5)
  | .vsrl d a b x y r => some (0x8000000B#32 ||| placed d 22 ||| placed a 16 ||| placed b 10 ||| placed x 9 ||| placed y 8 ||| placed r 5)
  | .vsra d a b x y r => some (0x8000000C#32 ||| placed d 22 ||| placed a 16 ||| placed b 10 ||| placed x 9 ||| placed y 8 ||| placed r 5)
  | .vmin d a b x y r => some (0x8000000D#32 ||| placed d 22 ||| placed a 16 ||| placed b 10 ||| placed x 9 ||| placed y 8 ||| placed r 5)
  | .vmax d a b x y r => some (0x8000000E#32 ||| placed d 22 ||| placed a 16 ||| placed b 10 ||| placed x 9 ||| placed y 8 ||| placed r 5)
  | .vminz d a b x y r => some (0x8000000F#32 ||| placed d 22 ||| placed a 16 ||| placed b 10 ||| placed x 9 ||| placed y 8 ||| placed r 5)
  | .vmaxz d a b x y r => some (0x80000010#32 ||| placed d 22 ||| placed a 16 ||| placed b 10 ||| placed x 9 ||| placed y 8 ||| placed r 5)
  | .vsadd d a b x y r => some (0x80000011#32 ||| placed d 22 ||| placed a 16 ||| placed b 10 ||| placed x 9 ||| placed y 8 ||| placed r 5)
  | .vssub d a b x y r => some (0x80000012#32 ||| placed d 22 ||| placed a 16 ||| placed b 10 ||| placed x 9 ||| placed y 8 ||| placed r 5)
  | .vsaddz d a b x y r => some (0x80000013#32 ||| placed d 22 ||| placed a 16 ||| placed b 10 ||| placed x 9 ||| placed y 8 ||| placed r 5)
  | .vssubz d a b x y r => some (0x80000014#32 ||| placed d 22 ||| placed a 16 ||| placed b 10 ||| placed x 9 ||| placed y 8 ||| placed r 5)
  | .vabsd d a b x y r => some (0x80000015#32 ||| placed d 22 ||| placed a 16 ||| placed b 10 ||| placed x 9 ||| placed y 8 ||| placed r 5)
  | .vfadd d a b x y r => some (0x90000000#32 ||| placed d 22 ||| placed a 16 ||| placed b 10 ||| placed x 9 ||| placed y 8 ||| placed r 5)
  | .vfsub d a b x y r => some (0x90000001#32 ||| placed d 22 ||| placed a 16 ||| placed b 10 ||| placed x 9 ||| placed y 8 ||| placed r 5)
  | .vfmul d a b x y r => some (0x90000002#32 ||| placed d 22 ||| placed a 16 ||| placed b 10 ||| placed x 9 ||| placed y 8 ||| placed r 5)
  | .vfma d a b x y r => some (0x90000003#32 ||| placed d 22 ||| placed a 16 ||| placed b 10 ||| placed x 9 ||| placed y 8 ||| placed r 5)
  | .vfms d a b x y r => some (0x90000004#32 ||| placed d 22 ||| placed a 16 ||| placed b 10 ||| placed x 9 ||| placed y 8 ||| placed r 5)
  | .vfnma d a b x y r => some (0x90000005#32 ||| placed d 22 ||| placed a 16 ||| placed b 10 ||| placed x 9 ||| placed y 8 ||| placed r 5)
  | .vfdiv d a b x y r => some (0x90000006#32 ||| placed d 22 ||| placed a 16 ||| placed b 10 ||| placed x 9 ||| placed y 8 ||| placed r 5)
  | .vfsqrt d a x => some (0x90000007#32 ||| placed d 22 ||| placed a 16 ||| placed x 9)
  | .vfmin d a b x y r => some (0x90000008#32 ||| placed d 22 ||| placed a 16 ||| placed b 10 ||| placed x 9 ||| placed y 8 ||| placed r 5)
  | .vfmax d a b x y r => some (0x90000009#32 ||| placed d 22 ||| placed a 16 ||| placed b 10 ||| placed x 9 ||| placed y 8 ||| placed r 5)
  | .vfexp2 d a x => some (0x9000000A#32 ||| placed d 22 ||| placed a 16 ||| placed x 9)
  | .vfcvt d a s t x => some (0x9000000B#32 ||| placed d 22 ||| placed a 16 ||| placed s 11 ||| placed (t.extractLsb' 4 1) 10 ||| placed (t.extractLsb' 0 4) 5 ||| placed x 9)
  | .vfclass d a x => some (0x9000000C#32 ||| placed d 22 ||| placed a 16 ||| placed x 9)
  | .vfsgnj d a b x y r => some (0x9000000D#32 ||| placed d 22 ||| placed a 16 ||| placed b 10 ||| placed x 9 ||| placed y 8 ||| placed r 5)
  | .pand d a b => some (0xA0000000#32 ||| placed d 23 ||| placed a 18 ||| placed b 13)
  | .por d a b => some (0xA0000001#32 ||| placed d 23 ||| placed a 18 ||| placed b 13)
  | .pxor d a b => some (0xA0000002#32 ||| placed d 23 ||| placed a 18 ||| placed b 13)
  | .pandn d a b => some (0xA0000003#32 ||| placed d 23 ||| placed a 18 ||| placed b 13)
  | .pset d => some (0xA0000004#32 ||| placed d 23)
  | .pclr d => some (0xA0000005#32 ||| placed d 23)
  | .pmov d a => some (0xA0000006#32 ||| placed d 23 ||| placed a 18)
  | .pexitb d a => some (0xA0000007#32 ||| placed d 23 ||| placed a 18)
  | .pexita d a => some (0xA0000008#32 ||| placed d 23 ||| placed a 18)
  | .pfirst g a => some (0xA0000009#32 ||| placed g 23 ||| placed a 18)
  | .pcnt g a => some (0xA000000A#32 ||| placed g 23 ||| placed a 18)
  | .pidx d g => some (0xA000000B#32 ||| placed d 23 ||| placed g 18)
  | .vcmpEq d a b x y r => some (0xA0000010#32 ||| placed d 23 ||| placed a 17 ||| placed b 11 ||| placed x 10 ||| placed y 9 ||| placed r 6)
  | .vcmpNe d a b x y r => some (0xA0000011#32 ||| placed d 23 ||| placed a 17 ||| placed b 11 ||| placed x 10 ||| placed y 9 ||| placed r 6)
  | .vcmpLt d a b x y r => some (0xA0000012#32 ||| placed d 23 ||| placed a 17 ||| placed b 11 ||| placed x 10 ||| placed y 9 ||| placed r 6)
  | .vcmpLe d a b x y r => some (0xA0000013#32 ||| placed d 23 ||| placed a 17 ||| placed b 11 ||| placed x 10 ||| placed y 9 ||| placed r 6)
  | .vcmpLtz d a b x y r => some (0xA0000014#32 ||| placed d 23 ||| placed a 17 ||| placed b 11 ||| placed x 10 ||| placed y 9 ||| placed r 6)
  | .vcmpLez d a b x y r => some (0xA0000015#32 ||| placed d 23 ||| placed a 17 ||| placed b 11 ||| placed x 10 ||| placed y 9 ||| placed r 6)
  | .vfcmpEq d a b x y r => some (0xA0000016#32 ||| placed d 23 ||| placed a 17 ||| placed b 11 ||| placed x 10 ||| placed y 9 ||| placed r 6)
  | .vfcmpNe d a b x y r => some (0xA0000017#32 ||| placed d 23 ||| placed a 17 ||| placed b 11 ||| placed x 10 ||| placed y 9 ||| placed r 6)
  | .vfcmpLt d a b x y r => some (0xA0000018#32 ||| placed d 23 ||| placed a 17 ||| placed b 11 ||| placed x 10 ||| placed y 9 ||| placed r 6)
  | .vfcmpLe d a b x y r => some (0xA0000019#32 ||| placed d 23 ||| placed a 17 ||| placed b 11 ||| placed x 10 ||| placed y 9 ||| placed r 6)
  | .vfcmpUn d a b x y r => some (0xA000001A#32 ||| placed d 23 ||| placed a 17 ||| placed b 11 ||| placed x 10 ||| placed y 9 ||| placed r 6)
  | .vslup d a b s => some (0xB0000000#32 ||| placed d 22 ||| placed a 16 ||| placed b 11 ||| placed (s.extractLsb' 4 1) 10 ||| placed (s.extractLsb' 0 4) 5)
  | .vsldn d a b s => some (0xB0000001#32 ||| placed d 22 ||| placed a 16 ||| placed b 11 ||| placed (s.extractLsb' 4 1) 10 ||| placed (s.extractLsb' 0 4) 5)
  | .vcompress d a p => some (0xB0000002#32 ||| placed d 22 ||| placed a 16 ||| placed p 10)
  | .vexpand d a p => some (0xB0000003#32 ||| placed d 22 ||| placed a 16 ||| placed p 10)
  | .vperm d a b => some (0xB0000004#32 ||| placed d 22 ||| placed a 16 ||| placed b 10)
  | .vid d => some (0xB0000005#32 ||| placed d 22)
  | .viota d p => some (0xB0000006#32 ||| placed d 22 ||| placed p 16)
  | .vmerge d a b x y r => some (0xB0000007#32 ||| placed d 22 ||| placed a 16 ||| placed b 10 ||| placed x 9 ||| placed y 8 ||| placed r 5)
  | .vbcast d g => some (0xB0000008#32 ||| placed d 22 ||| placed g 16)
  | .vextr g a b => some (0xB0000009#32 ||| placed g 22 ||| placed a 16 ||| placed b 10)
  | .vins d g b => some (0xB000000A#32 ||| placed d 22 ||| placed g 16 ||| placed b 10)
  | .vrsum d a => some (0xB000000B#32 ||| placed d 22 ||| placed a 16)
  | .vrmax d a => some (0xB000000C#32 ||| placed d 22 ||| placed a 16)
  | .vrmin d a => some (0xB000000D#32 ||| placed d 22 ||| placed a 16)
  | .vfrsum d a => some (0xB000000E#32 ||| placed d 22 ||| placed a 16)
  | .vfrsumo d a => some (0xB000000F#32 ||| placed d 22 ||| placed a 16)
  | .vfrmax d a => some (0xB0000010#32 ||| placed d 22 ||| placed a 16)
  | .vfrmin d a => some (0xB0000011#32 ||| placed d 22 ||| placed a 16)
  | .vrscl d a b => some (0xB0000012#32 ||| placed d 22 ||| placed a 16 ||| placed b 10)
  | .vargmax d a => some (0xB0000013#32 ||| placed d 22 ||| placed a 16)
  | .vpsplit d a l => some (0xB0000014#32 ||| placed d 22 ||| placed a 16 ||| placed l 5)
  | .vpjoin d a l => some (0xB0000015#32 ||| placed d 22 ||| placed a 16 ||| placed l 5)
  | .vpadd d a x => some (0xB0000016#32 ||| placed d 22 ||| placed a 16 ||| placed x 9)
  | .vld d a => some (0xC0000000#32 ||| placed d 22 ||| placed a 17)
  | .vlds d a => some (0xC0000001#32 ||| placed d 22 ||| placed a 17)
  | .vldx d a i c k => some (0xC0000002#32 ||| placed d 22 ||| placed a 17 ||| placed i 11 ||| placed c 10 ||| placed k 5)
  | .vldf d a => some (0xC0000003#32 ||| placed d 22 ||| placed a 17)
  | .vst s a c => some (0xC0000004#32 ||| placed s 22 ||| placed a 17 ||| placed c 10)
  | .vsts s a c => some (0xC0000005#32 ||| placed s 22 ||| placed a 17 ||| placed c 10)
  | .vstx s a i c k => some (0xC0000006#32 ||| placed s 22 ||| placed a 17 ||| placed i 11 ||| placed c 10 ||| placed k 5)
  | .vscadd s a i c f k => some (0xC0000007#32 ||| placed s 22 ||| placed a 17 ||| placed i 11 ||| placed c 10 ||| placed f 7 ||| placed k 5)
  | .vmerget s a f => some (0xC0000008#32 ||| placed s 22 ||| placed a 17 ||| placed f 5)
  | .vpld d a i p m => some (0xC0000009#32 ||| placed d 22 ||| placed a 17 ||| placed i 11 ||| placed p 8 ||| placed m 5)
  | .vpst s a i p m => some (0xC000000A#32 ||| placed s 22 ||| placed a 17 ||| placed i 11 ||| placed p 8 ||| placed m 6)
  | .vxpand d a p => some (0xC000000B#32 ||| placed d 22 ||| placed a 17 ||| placed p 8)
  | .vbind d a => some (0xC000000C#32 ||| placed d 22 ||| placed a 17)
  | .vunbind d => some (0xC000000D#32 ||| placed d 22)
  | .mattach n => some (0xD0000000#32 ||| placed n 5)
  | .mdetach => some (0xD0000001#32)
  | .mzero t => some (0xD0000002#32 ||| placed t 26)
  | .mxacc t a b x y f s => some (0xD0000003#32 ||| placed t 26 ||| placed a 20 ||| placed b 14 ||| placed x 13 ||| placed y 12 ||| placed f 8 ||| placed s 5)
  | .mxsub t a b x y f s => some (0xD0000004#32 ||| placed t 26 ||| placed a 20 ||| placed b 14 ||| placed x 13 ||| placed y 12 ||| placed f 8 ||| placed s 5)
  | .mrowv t d g => some (0xD0000005#32 ||| placed t 26 ||| placed d 20 ||| placed g 14)
  | .mcolv t d g => some (0xD0000006#32 ||| placed t 26 ||| placed d 20 ||| placed g 14)
  | .mvrow t a g => some (0xD0000007#32 ||| placed t 26 ||| placed a 20 ||| placed g 14)
  | .mtst t g => some (0xD0000008#32 ||| placed t 26 ||| placed g 20)
  | .mtld t g => some (0xD0000009#32 ||| placed t 26 ||| placed g 20)
  | .cpy d a b c => some (0xE0000000#32 ||| placed d 23 ||| placed a 18 ||| placed b 13 ||| placed c 7)
  | .cpyg d a v => some (0xE0000001#32 ||| placed d 23 ||| placed a 18 ||| placed v 7)
  | .cpyx d a => some (0xE0000002#32 ||| placed d 23 ||| placed a 18)
  | .kzone a b c => some (0xE0000003#32 ||| placed a 18 ||| placed b 13 ||| placed c 7)
  | .krsv d a b => some (0xE0000004#32 ||| placed d 23 ||| placed a 18 ||| placed b 13)
  | .ksend d a b c n => some (0xE0000005#32 ||| placed d 23 ||| placed a 18 ||| placed b 13 ||| placed c 7 ||| placed n 5)
  | .kwait d a b => some (0xE0000006#32 ||| placed d 23 ||| placed a 18 ||| placed b 13)
  | .krel a b => some (0xE0000007#32 ||| placed a 18 ||| placed b 13)
  | .kstat d a b => some (0xE0000008#32 ||| placed d 23 ||| placed a 18 ||| placed b 13)
  | .tlrd d a => some (0xE0000009#32 ||| placed d 23 ||| placed a 18)
  | .tlwait d a b => some (0xE000000A#32 ||| placed d 23 ||| placed a 18 ||| placed b 13)
  | .tlsig a b => some (0xE000000B#32 ||| placed a 18 ||| placed b 13)
  | .launch d a => some (0xE000000C#32 ||| placed d 23 ||| placed a 18)
  | .waitslot => some (0xE000000D#32)
  | .post a b => some (0xE000000E#32 ||| placed a 18 ||| placed b 13)
  | .wait d a => some (0xE000000F#32 ||| placed d 23 ||| placed a 18)
  | .gbarw d => some (0xE0000010#32 ||| placed d 23)
  | .barinit a b => some (0xE0000011#32 ||| placed a 18 ||| placed b 13)
  | .barwait d a => some (0xE0000012#32 ||| placed d 23 ||| placed a 18)
  | .vsample d a b s => some (0xF0000000#32 ||| placed d 22 ||| placed a 16 ||| placed b 10 ||| placed s 5)
  | .vpen d a s => some (0xF0000001#32 ||| placed d 22 ||| placed a 16 ||| placed s 5)
  | .gmask p b s => some (0xF0000002#32 ||| placed p 22 ||| placed b 16 ||| placed s 5)
  | .gadv d a s => some (0xF0000003#32 ||| placed d 22 ||| placed a 16 ||| placed s 5)
  | .gstat d s => some (0xF0000004#32 ||| placed d 22 ||| placed s 5)
  | .stopm d a s => some (0xF0000005#32 ||| placed d 22 ||| placed a 16 ||| placed s 5)
  | .vhlook d a c s => some (0xF0000006#32 ||| placed d 22 ||| placed a 16 ||| placed c 10 ||| placed s 5)
  | .pfxh d a s => some (0xF0000007#32 ||| placed d 22 ||| placed a 16 ||| placed s 5)
  | .pfxlk d a b s => some (0xF0000008#32 ||| placed d 22 ||| placed a 16 ||| placed b 10 ||| placed s 5)
  | .pfxpin d a b => some (0xF0000009#32 ||| placed d 22 ||| placed a 16 ||| placed b 10)
  | .pfxins d a b => some (0xF000000A#32 ||| placed d 22 ||| placed a 16 ||| placed b 10)
  | .pfxunpin d a b => some (0xF000000B#32 ||| placed d 22 ||| placed a 16 ||| placed b 10)
  | .ngput a b => some (0xF000000C#32 ||| placed a 16 ||| placed b 10)
  | .ngget d a b => some (0xF000000D#32 ||| placed d 22 ||| placed a 16 ||| placed b 10)
  | .convoyStart _ => none
  | .issuePromotion _ => none
  | .breakResolve _ => none
  | .commitFrontAdvance _ => none
  | .heldEntryEnter _ => none
  | .streamDelivery _ => none
  | .streamBlockDecode _ _ => none
  | .copyFinish _ _ => none
  | .reservation _ _ _ => none
  | .reply _ _ _ _ => none
  | .messageHead _ _ _ _ _ _ => none
  | .messageData _ _ _ _ _ _ _ => none
  | .messageLast _ _ _ _ => none
  | .completion _ => none
  | .kiteRejection _ _ => none
  | .pathDown _ _ => none
  | .pathTimeout _ _ => none
  | .flitReplay _ => none
  | .linkDown _ => none
  | .linkUp _ => none
  | .frameRetransmit _ _ => none
  | .ethernetFrame _ _ => none
  | .tailWrite _ _ => none
  | .qenableWrite _ _ => none
  | .recordIntake _ => none
  | .launchEligible _ => none
  | .gangDispatch => none
  | .candidateBlocking => none
  | .preemption => none
  | .preemptCommitFront _ => none
  | .swapOut => none
  | .gangResumable _ _ => none
  | .laneGroupTimeout _ => none
  | .launchComplete _ => none
  | .killWrite _ => none
  | .tlresetWrite _ _ => none
  | .tlvalueRead _ => none
  | .svcreqClear _ => none
  | .lanestatClear _ _ => none
  | .hostRegisterWrite _ _ => none
  | .hostMemRead _ _ => none
  | .hostMemWrite _ _ => none
  | .tlbinv _ _ => none
  | .scrub _ => none
  | .coreRetire _ => none
  | .dctlHalt _ => none
  | .dctlGo _ => none
  | .dctlStep _ => none
  | .stepHalt _ => none
  | .dimgSave _ _ => none
  | .dimgLoad _ _ => none
  | .dimgComplete _ => none
  | .sample _ => none
  | .traceRecordWrite _ => none
  | .trheadRead _ => none
  | .flueDrainTimeout _ => none
  | .energyWindow _ _ _ => none
  | .damperTrip _ => none
  | .damperRecover _ => none
  | .powerCapStep _ => none
  | .thermalThreshold _ => none
  | .hearthPowerGate _ => none
  | .hearthPowerUp _ => none
  | .pgateWrite _ => none
  | .deviceReset => none
  | .resetWrite _ => none
  | .firmwareLoad _ => none
  | .firmwareLoadDone _ => none
  | .arithmeticClock _ => none
  | .tscIncrement => none
  | .streamFetch _ _ _ => none

/-- The word of an instruction, zero for an event. -/
def wordOf (i : Instr) : IWord := (encode i).getD 0

/-- The four bytes of a word as memory holds them: little-endian (R78). -/
def wordBytes (w : IWord) : List Byte := [bitsAt w 0 8, bitsAt w 8 8, bitsAt w 16 8, bitsAt w 24 8]

/-- The word that four bytes of memory hold. -/
def wordOfBytes : List Byte → Option IWord
  | [a, b, c, d] => some (d ++ c ++ b ++ a)
  | _ => none

/-- The decoder over bytes of memory: an instruction is exactly four of them (R78). -/
def decodeBytes (bs : List Byte) : Option Instr := (wordOfBytes bs).bind decode

/-- The instruction that the decoder reads from the bits w laid out as memory holds them; every instruction has one
word, so bits from 32 on are no part of it. -/
def decodeTableWord (_nbits w : Nat) : Option Instr := decodeBytes (wordBytes (BitVec.ofNat 32 w))

end Sys2Proof
end

