-- ==== Sys2Proof/Config.lean ====
section
/-! DEFINITION. What the specification leaves open: the free values, which have no body, and the fixed sizes of the
TZ8-128. A free value is applied to the counter `fresh` of the state, which the step that takes one advances. -/

namespace Sys2Proof

/-- A byte that the specification calls unspecified: a byte of a FILLING or FAILED slot (R269). Log 9. -/
opaque Config.freeByte : Nat → Byte

/-- The choice, for one destination byte of a copy that met a fault, between its old value and its source byte
(R264, R267). Log 10. -/
opaque Config.freeBool : Nat → Bool

/-- The place, among the floating adds of one instruction still to be performed, of the one performed next (R141,
R226). Log 11. -/
opaque Config.freeOrder : Nat → Nat

/-- Energy in picojoules that the device measured: of a launch's final window (R459), or of memory and links beyond what
is charged; and the bytes of a hart that a memory-side cache served or that crossed between dies (R458). Log 12. -/
opaque Config.freeEnergy : Nat → Nat

/-- The synchronised value that the timestamp takes at an advance after a device reset, if it takes it there (R462,
R465). Log 15. -/
opaque Config.freeSync : Nat → Option (BitVec 64)

/-- A scale pair that a reader of a stream needs, that was not produced with its block and cannot be read (R236). Log 35. -/
opaque Config.freePair : Nat → Nat

/-- The check word over a flit (R408). Log 58. -/
opaque Config.flitCheck : Nat → BitVec 16

/-- The Ethernet address of a port (R415). Log 58. -/
opaque Config.portMac : Nat → BitVec 48

/-- The frame check sequence of a frame (R415). Log 58. -/
opaque Config.frameCheck : Nat → BitVec 32

/-- Harts of the device (R10). -/
def Config.harts : Nat := 512

/-- Cores of the device (R10). -/
def Config.cores : Nat := 128

/-- Entries of the held-effects buffer (R35). -/
def Config.hebCap : Nat := 4096

/-- Entries of the vector command queue (R45). -/
def Config.queueCap : Nat := 32

/-- Convoys that may have begun beyond the oldest unresolved break (R184). -/
def Config.breakWindow : Nat := 16

/-- Bytes of device memory: 576 GiB from physical address 0 (R332). -/
def Config.devBytes : Nat := 0x9000000000

/-- First physical address of the firmware region, the highest 2 GiB of device memory (R466). -/
def Config.fwBase : Nat := 0x8F80000000

/-- First physical address of host memory (R332). -/
def Config.hostBase : Nat := 0x8000000000000

/-- Physical addresses have 52 bits (R332). -/
def Config.physEnd : Nat := 0x10000000000000

/-- Entries of the pending-launch pool (R375). -/
def Config.poolSize : Nat := 4096

/-- Save areas for the images of stopped gangs (R390, R466). -/
def Config.saveAreas : Nat := 512

/-- Records that a flue holds (R451). -/
def Config.flueCap : Nat := 8192

/-- Where the memory list keeps the scratchpad of core 0: the model's own location, beyond every physical address. -/
def Config.spadLoc : Nat := 0x10000000000000

/-- Where the memory list keeps the scalar data memory of core 0. -/
def Config.sdmLoc : Nat := 0x20000000000000

/-- The byte that a location reads as while nothing has written it. Scratchpads and scalar data memories are zero
after power-up (R464); for device and host memory the specification gives no value. DESIGN CHOICE, unsafe: log 3. -/
def Config.unwritten : Byte := 0

end Sys2Proof
end

