-- ==== Sys2Proof/Machine/State.lean ====
section
/-! DEFINITION. The state of the device as plain data, with the owners of R10: hart, core, hearth, gang and device. -/

namespace Sys2Proof.Machine

/-- Why a step ends in a fault. -/
inductive Fault where
  /-- An event names a hart, core, hearth, port or ring that the device does not have (R10). Raised by the events.
  Safe: no such event exists. -/
  | noSuchPart
  deriving DecidableEq, Repr

/-- Why a step is refused. -/
inductive Refusal where
  /-- The instruction has no meaning in this model. Raised by exec alone. Safe. -/
  | notModelled (mnemonic : String)
  deriving DecidableEq, Repr

/-- What an instruction or event answers. -/
abbrev Out := Host.Outcome

/-! ### The hart -/

/-- The control values that a vector instruction takes with it at issue (R24). -/
structure Captured where
  vcfg : Word
  vmsk : Word
  vstr : Word
  vpstr : Word
  fpmode : Word
  mscale : Word
  sckm : Word
  heblim : Word
  mirror : Bool
  deriving DecidableEq, Repr

/-- An entry of the vector command queue (R45, R327). `seq` is its place in program order, `begun` says that its
convoy has begun (R184) and `split` that it starts a convoy of its own whatever its chain bits say (R111 rule 6). -/
structure QEntry where
  instr : Instr
  addr : Word
  opa : Word
  opb : Word
  cap : Captured
  consumed : Bool
  seq : Nat
  begun : Bool
  split : Bool
  /-- the bound registers as its own strips left them, where `consumed` (R236) -/
  strip : List (Nat × VReg) := []
  /-- in a stopped convoy that keeps what its members wrote apart (log 79): the elements that it has executed, those that
  a handler has had skipped, and the registers that it writes as it left them -/
  ran : List Nat := []
  gone : List Nat := []
  wrote : List (Nat × VReg) := []
  deriving DecidableEq, Repr

/-- The stopped convoy at the head of the queue: stopping member and commit front (R47, R326). -/
structure Stopped where
  member : Nat
  front : Nat
  /-- where its members read or write each other's elements at different places, the registers that they write as they
  stood before the convoy (R112, R193; log 79); predicate n stands as register 64 + n -/
  base : List (Nat × VReg) := []
  deriving DecidableEq, Repr

/-- The kinds of held entry (R328). -/
inductive HeldKind where
  | store
  | addInt
  | addFlt
  | mergeInt
  | mergeFlt
  deriving DecidableEq, Repr

/-- An entry of the held-effects buffer (R35, R328): its instruction's place in program order and its element (R315),
whether a vector instruction made it (R152, R315), its size code, its virtual address, the pieces (location, length) it
covered when it entered (R341), and its data bytes or addends. -/
structure Held where
  seq : Nat
  elem : Nat
  vector : Bool
  kind : HeldKind
  size : Nat
  high : Bool
  scope : BitVec 2
  ew : BitVec 3
  fmt : BitVec 3
  va : Nat
  locs : List (Nat × Nat)
  bytes : List Byte
  addends : List Word
  /-- the capacity that the entry meets when it enters (R35) -/
  room : Nat := 0
  /-- of the scale pair of a plane store, the elements of its block, which are performed after it (R230) -/
  block : Nat := 0
  deriving DecidableEq, Repr

/-- The strip checkpoint (R46, R174, R244). -/
structure Checkpoint where
  resume : Word
  sckm : Word
  used : List Nat
  gs : List Word
  va : VReg
  vb : VReg
  tiles : List Tile
  deriving DecidableEq, Repr

/-- An element that a stream has produced: its planes, and whether its data was damaged (R236, R427). -/
structure StreamElem where
  p0 : Nat
  p1 : Nat
  p2 : Nat
  bad : Bool
  deriving DecidableEq, Repr

/-- A stream binding (R233 to R237): the record's address, the bound register, the record's program fields as VBIND
read them, the elements produced, USED, and the state of the stream (STATUS and CAUSE of R233). -/
structure Binding where
  record : Word
  reg : Nat
  base : Word
  stride : Word
  pstr : Word
  scales : Word
  replica : Word
  total : Nat
  ew : Nat
  ladder : Nat
  planes : Nat
  packed : Bool
  sreg : Nat
  tl : Nat
  ticket : Nat
  /-- the elements produced since VBIND; AVAIL is their number -/
  data : List StreamElem
  /-- of ladder M: the elements of a block, and the scale pairs produced with their blocks, with whether damaged -/
  block : Nat
  pairs : List (Nat × Bool)
  used : Nat
  status : Nat
  cause : Nat
  deriving DecidableEq, Repr

/-- An entry of the watch table (R320). -/
structure Watch where
  addr : Word
  elem : Nat
  en : Bool
  deriving DecidableEq, Repr

/-- What a parked hart waits for (R258), with the register that receives the result; `done` is a wait whose condition
has been met and whose result is still to be written. -/
inductive Wait where
  | tl (t : Nat) (v : Word) (d : BitVec 5)
  | zone (c z n : Nat) (d : BitVec 5)
  | slot
  | post (k v : Word)
  | ring (k : Word) (d : BitVec 5)
  | gbar (d : BitVec 5)
  | bar (loc : Nat) (d : BitVec 5)
  | done (d : Option (BitVec 5)) (v : Word)
  deriving DecidableEq, Repr

/-- The launch, gang and rank a hart is placed for (R42, R377). -/
structure Place where
  serial : BitVec 32
  gang : Nat
  rank : Nat
  deriving DecidableEq, Repr

/-- The debug block of a hart (R441): `armed` is a GO with STEP under way, `retired` says that an instruction or convoy
has retired since. -/
structure Debug where
  own : Bool
  step : Bool
  haltReq : Bool
  halted : Bool
  imgBusy : Bool
  imgErr : Bool
  dcause : Nat
  dpc : Word
  dspc : Word
  dstop : Word
  dval : Word
  dsample : Word
  since : Nat
  armed : Bool
  retired : Bool
  deriving DecidableEq, Repr

/-- Bytes moved for a hart since its energy window began (R458): in device memory, in host memory, and sent on Kiteline
and on Ethernet. -/
structure Moved where
  dev : Nat
  host : Nat
  kite : Nat
  eth : Nat
  deriving DecidableEq, Repr

/-- A hart (R10 to R47, R320, R441). -/
structure Hart where
  g : Vector Word 32
  v : Vector VReg 48
  p : Vector PReg 32
  pc : Word
  tiles : List Tile
  keptTiles : Nat
  vcfg : Word
  vmsk : Word
  vstr : Word
  vpstr : Word
  vresume : Word
  vexit : Word
  vftrim : Word
  ftrimPlace : Nat
  sckm : Word
  heblim : Word
  mscale : Word
  fpmode : Word
  fpflags : Word
  retiredLanes : BitVec 32
  sup : Bool
  psup : Bool
  mirror : Bool
  miract : Bool
  stripNo : BitVec 48
  stripK : Bool
  drained : Bool
  poisoned : Bool
  paddr : Word
  /-- the place of the consuming access that PADDR names: its instruction in program order, and its element (R428) -/
  paddrPlace : Nat × Nat
  kvcfg : Word
  lcuse : Word
  lcmask : Word
  lctail : Word
  lcstart : Word
  lcstall : Word
  charge : Nat
  activity : Nat
  /-- arithmetic clocks that convoys have been charged for and that have not come yet (R447) -/
  ahead : Nat
  moved : Moved
  trapcause : Word
  trappc : Word
  trapmem : Word
  trapelem : Word
  trapval : Word
  trapspc : Word
  trapvec : Word
  sscratch : Word
  queue : List QEntry
  stopped : Option Stopped
  /-- the members, by their place in program order, and elements whose watch match the replay does not repeat (R321) -/
  watched : List (Nat × Nat)
  held : List Held
  /-- the entry of a store that waits for capacity; the scalar unit waits with it (R152, R185) -/
  waiting : List Held
  ckpt : Option Checkpoint
  /-- the least exit index of the breaks of the strip so far (R181) -/
  bound : Option Nat
  binds : List Binding
  watch : Vector Watch 4
  wait : Option Wait
  /-- when the wait began: its place among all waits, and the timestamp (R277, R278, R391) -/
  parkedAt : Nat
  parkedTsc : Word
  slotRes : Bool
  place : Option Place
  /-- since when the hart asks for lane groups, and how many it is short of (R386) -/
  laneSince : Option Nat
  laneShort : Nat
  /-- clocks for which the hart has been ready and not picked, and its promotion; the same of the tile unit (R383) -/
  readyClocks : Nat
  promoted : Option Nat
  tileReady : Nat
  tilePromoted : Option Nat
  yielded : Bool
  /-- the first word of a handler is still to be fetched (R319) -/
  entering : Bool
  /-- the next vector instruction starts a convoy of its own (R111 rule 6) -/
  split : Bool
  nextSeq : Nat
  /-- the places of the FENCES of the strip among its stores: what is older is performed before what is not (R161) -/
  fences : List Nat
  /-- the VL of the most recent vector instruction, as its entry holds it (R157) -/
  lastVl : Nat
  /-- a stop asked for by pre-emption (R389), with the timestamp of the request -/
  stopping : Option Word
  placedTsc : Word
  dbg : Debug
  /-- soft errors to come: an uncorrectable error in the hart's registers (R430), and comparisons that will fail in a
  mirror strip, as member and element (R437) -/
  regError : Bool
  mirrorError : List (Nat × Nat)
  /-- of a saved context: the image that the device wrote (R318, R324); empty on a hart -/
  image : List Byte
  deriving DecidableEq, Repr

/-! ### The core -/

/-- A lane group of the lane allocation table (R385). -/
inductive Group where
  | free
  | holds (h : Nat)
  | earmarked (h : Nat)
  deriving DecidableEq, Repr

/-- What a copy operation does (R264 to R267): bytes; rows by position and row number with the descriptor's address;
rows named by an index list; or a bad descriptor. -/
inductive CopyKind where
  | bytes (dst src len : Nat)
  | rows (desc : Nat) (dst dstride src sstride : Word) (rowBytes : Nat) (rows : List (Nat × Word))
  | listed (desc : Nat) (dst dstride src sstride : Word) (rowBytes : Nat) (idx count : Nat) (signed : Bool)
  | bad (desc : Nat)
  deriving DecidableEq, Repr

/-- An operation of a copy engine, with the hart that issued it and the place that hart had (R458). `tl` is the timeline,
0xFFFF for none. -/
structure CopyOp where
  hart : Nat
  place : Option Place
  serial : BitVec 32
  tl : Nat
  ticket : Nat
  kind : CopyKind
  deriving DecidableEq, Repr

/-- The state of a slot (R269). -/
inductive SlotState where
  | free
  | reserved
  | filling
  | arrived
  | failed
  deriving DecidableEq, Repr

/-- A slot of a landing zone (R268). `owner` names its sender and path; `want` is the length of the message that fills
it, `landed` its pieces that have landed so far: offset, bytes, and whether they are damaged, and `kept` what stood
beyond the message, with the number of the first free byte of the slot (R423). -/
structure Slot where
  state : SlotState
  gen : BitVec 16
  len : Nat
  owner : Option Origin
  want : Nat
  landed : List (Nat × List Byte × Bool)
  kept : Nat × List Byte := (0, [])
  deriving DecidableEq, Repr

/-- A declared landing zone (R268): `base` is the offset in the core's scratchpad. -/
structure Zone where
  base : Nat
  slotSize : Nat
  slots : List Slot
  arrived : BitVec 32
  failed : BitVec 32
  deriving DecidableEq, Repr

/-- A core (R10, R264, R268, R385, R439, R440). `started` says that it has started a convoy in this clock (R383). -/
structure Core where
  copies : List CopyOp
  zones : Vector (Option Zone) 8
  groups : Vector Group 4
  retiredLanes : BitVec 32
  suspect : BitVec 32
  retired : Bool
  started : Bool
  deriving DecidableEq, Repr

/-! ### The hearth -/

/-- An entry of the n-gram pool (R308). -/
structure NgEntry where
  set : Nat
  way : Nat
  key : Word
  tokens : List (BitVec 32)
  mark : Nat
  deriving DecidableEq, Repr

/-- A trace record (R448). -/
structure TraceRec where
  time : Word
  src : Nat
  ty : Nat
  payload : List Byte
  deriving DecidableEq, Repr

/-- The part of an energy window for which a hart was resident that has left since (R456): its place, its residency in
nanoseconds, its activity and the bytes it moved; `paid` where its launch has completed (R459). -/
structure Stay where
  place : Place
  ns : Nat
  activity : Nat
  moved : Moved
  paid : Bool
  deriving DecidableEq, Repr

/-- A hearth (R10, R308, R451 to R459, R461, R464). `lost` counts the records lost and not yet reported, with the time
of the first; `gating` is the time from which the flue drains before power gating, `idleSince` that from which the
hearth has been idle, `winStart` that at which its energy window began, `damper` that at which its damper's stretch began
and `tripped` that of the last trip (R463). -/
structure Hearth where
  ngrams : List NgEntry
  flue : List TraceRec
  lost : Nat
  firstLost : Word
  rate : Nat
  damper : Option Word
  tripped : Word
  gating : Option Word
  gated : Bool
  idleSince : Option Word
  winStart : Word
  stays : List Stay
  deriving DecidableEq, Repr

/-! ### Gangs and launches -/

/-- A rank of a gang: on a hart, saved (R389) or halted. -/
inductive Rank where
  | on (h : Nat)
  | saved (ctx : Hart)
  | halted
  deriving DecidableEq, Repr

/-- The state of a placed gang (R379). -/
inductive GangState where
  | running
  | stopping
  | saved
  | resumable
  deriving DecidableEq, Repr

/-- A gang that has been placed (R40, R278, R379). -/
structure Gang where
  index : Nat
  hearth : Nat
  ranks : List Rank
  state : GangState
  phase : BitVec 32
  arrived : BitVec 5
  ggrant : Word
  ring : List (Word × Word)
  swapped : Bool
  passedSince : Option Word
  /-- the order stamp of the latest halt of a rank (R391) -/
  haltedAt : Nat := 0
  deriving DecidableEq, Repr

/-- The states of a launch (R379). -/
inductive LaunchState where
  | pending
  | eligible
  | dispatching
  | running
  | draining
  | complete
  deriving DecidableEq, Repr

/-- Why a launch was killed (R381). -/
structure Kill where
  reason : Nat
  fval : Word
  fgang : Nat
  frank : Nat
  deriving DecidableEq, Repr

/-- An accepted launch (R369 to R382). -/
structure Launch where
  serial : BitVec 32
  entry : Word
  param : Word
  compl : Word
  w0tl : Nat
  w0val : Word
  w1tl : Nat
  w1val : Word
  ctl : Nat
  ticket : Nat
  gsize : Nat
  gcount : Nat
  prio : Nat
  mirror : Bool
  rewind : Bool
  charged : Bool
  tag : Word
  asid : Nat
  root : Nat
  tvec : Word
  queue : Option Nat
  parentHearth : Option Nat
  state : LaunchState
  inPool : Bool
  kill : Option Kill
  tstart : Word
  gangs : List Gang
  nextGang : Nat
  energy : Nat
  passedSince : Option Word
  deriving DecidableEq, Repr

/-! ### The device -/

/-- A timeline (R259); `done` holds the finished tickets above VALUE. -/
structure Timeline where
  value : Word
  next : Word
  err : Bool
  ecode : Byte
  ekind : Byte
  eticket : Word
  eaddr : Word
  done : List Nat
  deriving DecidableEq, Repr

/-- An entry of the prefix table (R303). -/
structure PfxEntry where
  index : Nat
  hash : Word
  page : BitVec 32
  pins : Nat
  mark : Nat
  deriving DecidableEq, Repr

/-- A host launch queue (R373, R419). -/
structure LQueue where
  qbase : Word
  qsize : Word
  qasid : Word
  qroot : Word
  qtvec : Word
  priomax : Word
  qenable : Word
  tail : BitVec 32
  head : BitVec 32
  error : Bool
  qirq : Word
  deriving DecidableEq, Repr

/-- A port (R408, R412, R415, R419): `seq` is the sequence number of the next flit sent, and `replays` the replays of
one flit in a row that have failed. -/
structure Port where
  up : Bool
  downs : Nat
  dropped : Nat
  vlan : Word
  seq : BitVec 12
  replays : Nat
  deriving DecidableEq, Repr

/-- A trace ring (R451). -/
structure Ring where
  trbase : Word
  trsize : Word
  trmask : Word
  trhead : BitVec 32
  trtail : BitVec 32
  trlost : Word
  deriving DecidableEq, Repr

/-- A kite operation issued and not finished (R271, R272), with the hart that issued it and the place that hart had
(R458). The path is the device and the path's number, portOf. -/
structure KiteOp where
  op : Nat
  hart : Nat
  place : Option Place
  serial : BitVec 32
  tl : Nat
  ticket : Nat
  dev : Nat
  port : Nat
  /-- core and zone that the target word names -/
  core : Nat
  zone : Nat
  /-- the address of the reservation word of a KRSV; none for a KSEND -/
  word : Option Nat
  deriving DecidableEq, Repr

/-- A kite message under way (R408): on the internal fabric, or sent to another device. -/
inductive KMsg where
  | reserve (o : Origin) (core zone : Nat)
  | reply (op status slot gen : Nat)
  | head (o : Origin) (core zone slot gen len : Nat)
  | data (o : Origin) (core zone slot off : Nat) (bytes : List Byte) (bad : Bool)
  | last (o : Origin) (core zone slot : Nat)
  | completion (op : Nat)
  | rejection (op : Nat) (long : Bool)
  /-- a launch of the sending device has ended (R269) -/
  | ended (serial : BitVec 32)
  /-- frames of an Ethernet path have been taken in (R416) -/
  | ack
  deriving DecidableEq, Repr

/-- A flit as a port sends it (R408): the header, and what its 120 bytes of payload say. -/
structure Flit where
  header : Word
  msg : KMsg
  deriving DecidableEq, Repr

/-- A kite frame (R415): destination and source address, the 802.1Q VLAN where the port has one, the EtherType, its
number on its path, 0 where it only acknowledges, the number up to which it acknowledges frames (R416), its flits, and
the frame check sequence. -/
structure KFrame where
  mac : BitVec 48
  src : BitVec 48
  vlan : Option (BitVec 12)
  etype : BitVec 16
  number : Nat
  ack : Nat
  flits : List Flit
  fcs : BitVec 32
  deriving DecidableEq, Repr

/-- What a port has sent: a flit on a Kiteline link (R408), or a frame (R415). -/
inductive Packet where
  | flit (port dev : Nat) (f : Flit)
  | frame (port dev : Nat) (f : KFrame)
  deriving DecidableEq, Repr

/-- A frame that is not acknowledged (R416), when it was last sent, and its retransmissions. -/
structure Unacked where
  frame : KFrame
  since : Word
  resent : Nat
  deriving DecidableEq, Repr

/-- The state of an Ethernet path (R416): frames sent, those not acknowledged, frames taken in, and the flits of the last
one whose messages are still to arrive. -/
structure EthPath where
  sent : Nat
  unacked : List Unacked
  taken : Nat
  flits : Nat
  deriving DecidableEq, Repr

/-- Firmware load states (R460, R466). -/
inductive FwState where
  | idle
  | loading
  | done
  | failed (code : Nat)
  deriving DecidableEq, Repr

/-- Which agent moves next: a hart's scalar unit. -/
abbrev Turn := Nat

/-- The whole machine. -/
structure State where
  harts : Vector Hart 512
  cores : Vector Core 128
  hearths : Vector Hearth 32
  /-- every byte that differs from the unwritten byte: physical addresses, then scratchpads, then scalar data
  memories (Config.spadLoc, Config.sdmLoc); addresses strictly rising -/
  mem : List Host.Cell
  /-- the first locations of the poisoned granules (R426) -/
  poison : List Nat
  /-- damage in transit to come: the first locations of 32-byte granules whose next read comes damaged (R424) -/
  transit : List Nat
  timelines : List (Nat × Timeline)
  prefixes : List PfxEntry
  launches : List Launch
  nextSerial : BitVec 32
  queues : Vector LQueue 64
  servedLast : Nat
  kites : List KiteOp
  nextOp : Nat
  /-- the locations of the memory barrier records on which BARWAITs are parked (R282) -/
  bars : List Nat
  /-- messages on the internal fabric (R410), oldest first -/
  fabric : List KMsg
  /-- what the ports have sent to other devices, oldest first (R408, R415) -/
  sent : List Packet
  /-- when this device last sent on a path, by pathKey (R413) -/
  lastSent : List (Nat × Word)
  /-- the paths over which this device has reserved slots: device, core and zone, slot and generation, and the path's
  number: its port, on Ethernet with 32 times its address, 31 for the internal fabric, 30 once it has failed (R410, R411,
  R413) -/
  paths : List ((Nat × Nat × Nat) × (Nat × Nat) × Nat)
  routes : List (Nat × Word)
  /-- the Ethernet paths, by pathKey (R416) -/
  eth : List (Nat × EthPath)
  ports : Vector Port 20
  rings : Vector Ring 33
  /-- records of the device sources not yet written to ring 32 (R449) -/
  devFlue : List TraceRec
  tsc : Word
  /-- the timestamp has been synchronised since device reset (R462, R465) -/
  tscSync : Bool
  devnum : Word
  ready : Bool
  cxlmem : Bool
  cxlcache : Bool
  svcreq : Word
  ketype : Word
  unattr : Nat
  cehbm : Word
  cesram : Word
  uecount : Word
  ueaddr : Word
  fwsrc : Word
  fwlen : Word
  fw : FwState
  pwrcap : Word
  pwrnow : Nat
  /-- the power average has exceeded the cap, and has not fallen below it since (R461) -/
  lowering : Bool
  temp : Nat
  hot : Bool
  noDispatch : Bool
  pgate : Word
  /-- the launch, or saved gang, that blocks placement (R378) -/
  blocking : Option (BitVec 32 × Option Nat)
  /-- MSI-X vectors raised, latest first (R417, R421) -/
  msix : List Nat
  /-- what the host's last read returned -/
  hostData : List Byte
  /-- the model's own: the hart whose instruction executes -/
  cur : Nat
  /-- the model's own: events to come, in the order they come -/
  inbox : List Instr
  /-- the model's own: harts that move next, before the round robin -/
  turns : List Turn
  /-- the model's own: the timestamp has advanced since a hart last moved -/
  ticked : Bool
  /-- the model's own: takes the sequencer its queue up at once -/
  eager : Bool
  /-- the model's own: free values taken so far -/
  fresh : Nat
  /-- the model's own: order stamps given so far (recency marks, parking order) -/
  stamp : Nat
  deriving DecidableEq, Repr

/-! ### Reset -/

/-- The debug block at device reset (R441). -/
def Debug.reset : Debug :=
  { own := false, step := false, haltReq := false, halted := false, imgBusy := false, imgErr := false, dcause := 0,
    dpc := 0, dspc := 0, dstop := 0, dval := 0, dsample := 0, since := 0, armed := false, retired := false }

/-- A hart at device reset. R50 gives TRAPVEC and SSCRATCH; R23 and R49 give the values of launch start, which this
model's hart also holds before its first launch (DESIGN CHOICE, log 1). -/
def Hart.reset : Hart :=
  { g := .replicate 32 0, v := .replicate 48 0, p := .replicate 32 0, pc := 0, tiles := [], keptTiles := 0,
    vcfg := 0x8000, vmsk := 0, vstr := 0, vpstr := 0, vresume := 0, vexit := 0, vftrim := 0, ftrimPlace := 0,
    sckm := 0, heblim := 0, mscale := 0x600000, fpmode := 0, fpflags := 0, retiredLanes := 0, sup := false,
    psup := false, mirror := false, miract := false, stripNo := 0, stripK := false, drained := false,
    poisoned := false, paddr := 0, paddrPlace := (0, 0), kvcfg := 0, lcuse := 0, lcmask := 0, lctail := 0,
    lcstart := 0, lcstall := 0, charge := 0, activity := 0, ahead := 0, moved := { dev := 0, host := 0, kite := 0, eth := 0 },
    trapcause := 0, trappc := 0, trapmem := 0, trapelem := 0, trapval := 0, trapspc := 0,
    trapvec := 0, sscratch := 0, queue := [], stopped := none, watched := [], held := [], waiting := [], ckpt := none,
    bound := none, binds := [], watch := .replicate 4 { addr := 0, elem := 0, en := false }, wait := none,
    parkedAt := 0, parkedTsc := 0, slotRes := false, place := none, laneSince := none, laneShort := 0,
    readyClocks := 0, promoted := none, tileReady := 0, tilePromoted := none, yielded := false, entering := false,
    split := false, nextSeq := 0, fences := [], lastVl := 0, stopping := none, placedTsc := 0, dbg := .reset,
    regError := false, mirrorError := [], image := [] }

/-- A core at device reset: no copy, no zone, every lane group free (R465). -/
def Core.reset : Core :=
  { copies := [], zones := .replicate 8 none, groups := .replicate 4 .free, retiredLanes := 0, suspect := 0,
    retired := false, started := false }

/-- A hearth at device reset (R308, R462, R465). -/
def Hearth.reset : Hearth :=
  { ngrams := [], flue := [], lost := 0, firstLost := 0, rate := 2500, damper := none, tripped := 0, gating := none,
    gated := false, idleSince := none, winStart := 0, stays := [] }

/-- A timeline at device reset (R259). -/
def Timeline.reset : Timeline :=
  { value := 0, next := 0, err := false, ecode := 0, ekind := 0, eticket := 0, eaddr := 0, done := [] }

/-- A launch queue at device reset (R419). -/
def LQueue.reset : LQueue :=
  { qbase := 0, qsize := 0, qasid := 0, qroot := 0, qtvec := 0, priomax := 0, qenable := 0, tail := 0, head := 0,
    error := false, qirq := 0 }

/-- A port at device reset (R419). -/
def Port.reset : Port := { up := false, downs := 0, dropped := 0, vlan := 0, seq := 0, replays := 0 }

/-- A trace ring at device reset (R451). -/
def Ring.reset : Ring := { trbase := 0, trsize := 0, trmask := 0, trhead := 0, trtail := 0, trlost := 0 }

/-- The machine right after device reset (R465, R419, R425, R460), before any firmware load. -/
def State.reset : State :=
  { harts := .replicate 512 .reset, cores := .replicate 128 .reset, hearths := .replicate 32 .reset, mem := [],
    poison := [], transit := [], timelines := [], prefixes := [], launches := [], nextSerial := 1,
    queues := .replicate 64 .reset, servedLast := 63, kites := [], nextOp := 0, bars := [], fabric := [], sent := [],
    lastSent := [], paths := [], routes := [], eth := [], ports := .replicate 20 .reset, rings := .replicate 33 .reset,
    devFlue := [], tsc := 0, tscSync := false, devnum := 0, ready := false, cxlmem := false, cxlcache := false,
    svcreq := 0, ketype := 0x88B5, unattr := 0, cehbm := 0, cesram := 0, uecount := 0, ueaddr := 0, fwsrc := 0, fwlen := 0,
    fw := .idle, pwrcap := 2400, pwrnow := 0, lowering := false, temp := 0, hot := false, noDispatch := false,
    pgate := 1, blocking := none, msix := [], hostData := [], cur := 0, inbox := [], turns := [], ticked := true,
    eager := true, fresh := 0, stamp := 0 }

/-! ### Memory: one canonical list -/

/-- The canonical form from location `lo` upwards: locations strictly rising, none listed that holds the byte an
unlisted location reads as. -/
def Memory.wfFrom : Nat → List Host.Cell → Bool
  | _, [] => true
  | lo, (a, b) :: m => decide (lo ≤ a) && decide (b ≠ Config.unwritten) && Memory.wfFrom (a + 1) m

/-- The canonical form of a memory. -/
def Memory.wf (m : List Host.Cell) : Bool := Memory.wfFrom 0 m

end Sys2Proof.Machine
end

