-- ==== Sys2Proof/Machine/Ops.lean ====
section
/-! DEFINITION. The named operations over registers, memory, lanes, timelines, slots and launches, and the one way a
trap is taken (R312, R313) and returned from (R165). -/

namespace Sys2Proof.Machine

/-! ### Fields of words -/

/-- Field of a word: n bits from bit lo. -/
def fld (w : Word) (lo n : Nat) : Nat := (w.toNat >>> lo) % 2 ^ n

/-- One bit of a word. -/
def bit (w : Word) (i : Nat) : Bool := w.getLsbD i

/-- A word with n bits from bit lo replaced. -/
def setFld (w : Word) (lo n x : Nat) : Word :=
  (w &&& ~~~(BitVec.ofNat 64 ((2 ^ n - 1) <<< lo))) ||| BitVec.ofNat 64 ((x % 2 ^ n) <<< lo)

/-- 1 for true, 0 for false. -/
def b2n (b : Bool) : Nat := if b then 1 else 0

/-- The n low bytes of a number, least significant first (R5). -/
def leBytes : Nat → Nat → List Byte
  | 0, _ => []
  | n + 1, x => BitVec.ofNat 8 x :: leBytes n (x / 256)

/-- The number that bytes hold, least significant first (R5). -/
def leNat : List Byte → Nat
  | [] => 0
  | b :: bs => b.toNat + 256 * leNat bs

/-- Sign extension of the n low bits of a number to 64 bits. -/
def sext64 (n x : Nat) : Word := (BitVec.ofNat n x).signExtend 64

/-- The sign-extended 14-bit immediate of R84 and R86. -/
def simm (i : BitVec 14) : Word := i.signExtend 64

/-- The 64-byte fetch block of an address (%blk). -/
def blk (a : Word) : Word := a &&& ~~~63

/-! ### Harts, cores, hearths -/

/-- Hart n. -/
def State.hartAt (s : State) (n : Nat) : Hart := (s.harts[n]?).getD .reset

/-- The machine with hart n replaced. -/
def State.setHartAt (s : State) (n : Nat) (h : Hart) : State := { s with harts := s.harts.setIfInBounds n h }

/-- The hart whose instruction executes. -/
def State.hart (s : State) : Hart := s.hartAt s.cur

/-- The machine with the executing hart replaced. -/
def State.setHart (s : State) (h : Hart) : State := s.setHartAt s.cur h

/-- The machine with the executing hart changed. -/
def State.modHart (s : State) (f : Hart → Hart) : State := s.setHart (f s.hart)

/-- The machine with hart n changed. -/
def State.modHartAt (s : State) (n : Nat) (f : Hart → Hart) : State := s.setHartAt n (f (s.hartAt n))

/-- Core n. -/
def State.core (s : State) (n : Nat) : Core := (s.cores[n]?).getD .reset

/-- The machine with core n changed. -/
def State.modCore (s : State) (n : Nat) (f : Core → Core) : State :=
  { s with cores := s.cores.setIfInBounds n (f (s.core n)) }

/-- Hearth n. -/
def State.hearth (s : State) (n : Nat) : Hearth := (s.hearths[n]?).getD .reset

/-- The machine with hearth n changed. -/
def State.modHearth (s : State) (n : Nat) (f : Hearth → Hearth) : State :=
  { s with hearths := s.hearths.setIfInBounds n (f (s.hearth n)) }

/-- The core of a hart (R42). -/
def coreOf (h : Nat) : Nat := h / 4

/-- The hearth of a hart (R42). -/
def hearthOf (h : Nat) : Nat := h / 16

/-! ### Lanes and registers -/

/-- Live lanes of a hart: its core's 32, less those retired for it (R16, R439). -/
def Hart.lanes (h : Hart) : Nat := 32 - (List.range 32).countP (fun i => h.retiredLanes.getLsbD i)

/-- VLMAXR (R28). -/
def Hart.vlmaxr (h : Hart) : Nat := if h.miract then 8 * (h.lanes / 2) else 8 * h.lanes

/-- Bits of an element at the width code EW (R26). -/
def ewBits (ew : Nat) : Nat := 4 <<< ew

/-- VLMAX for a width code (R28). -/
def Hart.vlmax (h : Hart) (ew : Nat) : Nat := h.vlmaxr * 64 / ewBits ew

/-- The bits of a vector register that the live lanes hold (R16, R28). -/
def Hart.vmask (h : Hart) : VReg := BitVec.ofNat 16384 (2 ^ (64 * h.vlmaxr) - 1)

/-- The bits of a predicate register that the live lanes hold (R19, R28). -/
def Hart.pmask (h : Hart) : PReg := BitVec.ofNat 4096 (2 ^ (16 * h.vlmaxr) - 1)

/-- A scalar register; g0 reads as zero (R11). -/
def Hart.gget (h : Hart) (i : Nat) : Word := if i = 0 then 0 else (h.g[i]?).getD 0

/-- A scalar register written; writes to g0 are discarded (R11). -/
def Hart.gset (h : Hart) (i : Nat) (x : Word) : Hart := if i = 0 then h else { h with g := h.g.setIfInBounds i x }

/-- A vector register (R12, R16). -/
def Hart.vget (h : Hart) (i : Nat) : VReg := (h.v[i]?).getD 0 &&& h.vmask

/-- A vector register written (R16). -/
def Hart.vset (h : Hart) (i : Nat) (x : VReg) : Hart := { h with v := h.v.setIfInBounds i (x &&& h.vmask) }

/-- A predicate register (R19). -/
def Hart.pget (h : Hart) (i : Nat) : PReg := (h.p[i]?).getD 0 &&& h.pmask

/-- A predicate register written (R19). -/
def Hart.pset (h : Hart) (i : Nat) (x : PReg) : Hart := { h with p := h.p.setIfInBounds i (x &&& h.pmask) }

/-- The machine with a scalar register of the executing hart written. -/
def State.gset (s : State) (i : Nat) (x : Word) : State := s.modHart (fun h => h.gset i x)

/-- Element i of a register at a width in bits (R12, R13). -/
def elemOf (r : VReg) (bits i : Nat) : Nat := (r.toNat >>> (i * bits)) % 2 ^ bits

/-- A register with element i replaced (R12, R13). -/
def setElem (r : VReg) (bits i x : Nat) : VReg :=
  (r &&& ~~~(BitVec.ofNat 16384 ((2 ^ bits - 1) <<< (i * bits)))) ||| BitVec.ofNat 16384 ((x % 2 ^ bits) <<< (i * bits))

/-- VL of a VCFG value (R26). -/
def vlOf (c : Word) : Nat := fld c 0 13
/-- EW of a VCFG value (R26). -/
def ewOf (c : Word) : Nat := fld c 13 3
/-- FMT of a VCFG value (R26). -/
def fmtOf (c : Word) : Nat := fld c 16 3
/-- SCOPE of a VCFG value (R26). -/
def scopeOf (c : Word) : Nat := fld c 19 2
/-- BLK of a VCFG value (R26). -/
def blkOf (c : Word) : Nat := fld c 21 2

/-- The executing hart's instruction has retired: the next word follows (R142). The activity of R457 counts 8 for a
scalar instruction. -/
def State.advance (s : State) : State :=
  s.modHart (fun h => { h with
    pc := h.pc + 4, activity := h.activity + 8, dbg := { h.dbg with retired := true } })

/-- As `advance`, with the next word at an address. -/
def State.advanceTo (s : State) (a : Word) : State :=
  s.modHart (fun h => { h with
    pc := a, activity := h.activity + 8, dbg := { h.dbg with retired := true } })

/-- A fresh number for a free value. -/
def State.takeFresh (s : State) : Nat × State := (s.fresh, { s with fresh := s.fresh + 1 })

/-- A fresh order stamp. -/
def State.takeStamp (s : State) : Nat × State := (s.stamp, { s with stamp := s.stamp + 1 })

/-! ### Memory -/

/-- The byte at a location. -/
def Memory.read : List Host.Cell → Nat → Byte
  | [], _ => Config.unwritten
  | (a, b) :: m, n => if a = n then b else Memory.read m n

/-- A byte written, in canonical form: a location that holds the unwritten byte is not listed. -/
def Memory.write : List Host.Cell → Nat → Byte → List Host.Cell
  | [], n, x => if x = Config.unwritten then [] else [(n, x)]
  | (a, b) :: m, n, x =>
    if n < a then (if x = Config.unwritten then (a, b) :: m else (n, x) :: (a, b) :: m)
    else if n = a then (if x = Config.unwritten then m else (a, x) :: m)
    else (a, b) :: Memory.write m n x

/-- Bytes at consecutive locations. -/
def Memory.reads (m : List Host.Cell) (n : Nat) : Nat → List Byte
  | 0 => []
  | k + 1 => Memory.read m n :: Memory.reads m (n + 1) k

/-- Bytes written at consecutive locations. -/
def Memory.writes (m : List Host.Cell) (n : Nat) : List Byte → List Host.Cell
  | [] => m
  | b :: bs => Memory.writes (Memory.write m n b) (n + 1) bs

/-- Is a location in device memory (R332)? -/
def inDev (loc : Nat) : Bool := loc < Config.devBytes

/-- Is a location in the device memory that programs may use, below the firmware region (R466)? -/
def inUsableDev (loc : Nat) : Bool := loc < Config.fwBase

/-- Is a location in host memory (R332)? -/
def inHost (loc : Nat) : Bool := Config.hostBase ≤ loc && loc < Config.physEnd

/-- Bytes of the granule of a location: 32 in device memory, 8 in a scratchpad or scalar data memory; host memory is
not the device's own (R424, R425). -/
def granule (loc : Nat) : Nat := if inDev loc then 32 else if Config.spadLoc ≤ loc then 8 else 0

/-- First location of a granule. -/
def granuleBase (loc : Nat) : Nat := if granule loc = 0 then loc else loc - loc % granule loc

/-- Is a location in a poisoned granule (R426)? -/
def State.poisonedAt (s : State) (loc : Nat) : Bool := s.poison.contains (granuleBase loc)

/-- Does the next read of a location come damaged in transit, whose granule is 32 bytes (R424)? -/
def State.transitAt (s : State) (loc : Nat) : Bool := s.transit.contains (loc - loc % 32)

/-- Would a read of a location find uncorrectable data: a poisoned granule, or damage in transit (R424)? -/
def State.damagedAt (s : State) (loc : Nat) : Bool := s.poisonedAt loc || s.transitAt loc

/-- A granule marked poisoned (R426); UEADDR names the latest one in device memory (R425). -/
def State.markPoison (s : State) (loc : Nat) : State :=
  if granule loc = 0 || s.poisonedAt loc then s
  else
    { s with
      poison := granuleBase loc :: s.poison
      ueaddr := if inDev loc then 0x8000000000000000 ||| BitVec.ofNat 64 (granuleBase loc) else s.ueaddr }

/-- Every context of a hart: those on the harts and those saved with a gang. -/
def State.mapContexts (s : State) (f : Hart → Hart) : State :=
  { s with
    harts := s.harts.map f
    launches := s.launches.map (fun l => { l with gangs := l.gangs.map (fun g =>
      { g with ranks := g.ranks.map (fun r => match r with | .saved c => .saved (f c) | r => r) }) }) }

/-- All contexts. -/
def State.contexts (s : State) : List Hart :=
  s.harts.toList ++ s.launches.flatMap (fun l => l.gangs.flatMap (fun g =>
    g.ranks.filterMap (fun r => match r with | .saved c => some c | _ => none)))

/-- Do two ranges of locations meet? -/
def meets (a n b m : Nat) : Bool := a < b + m && b < a + n

/-- A write to bytes of records with parked BARWAITs ends them all with status BROKEN (R282). -/
def State.breakBars (s : State) (loc n : Nat) : State :=
  if s.bars.any (fun b => meets b 16 loc n) then
    { s.mapContexts (fun h => match h.wait with
        | some (.bar b d) => if meets b 16 loc n then { h with wait := some (.done (some d) 2) } else h
        | _ => h) with bars := s.bars.filter (fun b => !meets b 16 loc n) }
  else s

/-- Bytes put at a location: a granule wholly covered loses its poison mark (R426). -/
def State.putMem (s : State) (loc : Nat) (bs : List Byte) : State :=
  { s with
    mem := Memory.writes s.mem loc bs
    poison := s.poison.filter (fun g => !(loc ≤ g && g + granule g ≤ loc + bs.length)) }

/-- Bytes written at a location: parked BARWAITs on the bytes break (R282). -/
def State.writeMem (s : State) (loc : Nat) (bs : List Byte) : State := (s.breakBars loc bs.length).putMem loc bs

/-- Bytes of memory. -/
def State.readMem (s : State) (loc n : Nat) : List Byte := Memory.reads s.mem loc n

/-- Uncorrectable errors of SRAM, registers and transit counted (R425). -/
def State.countSram (s : State) (k : Nat) : State :=
  { s with uecount := setFld s.uecount 32 32 (fld s.uecount 32 32 + k) }

/-- Damage in transit met by a read is used up: the data came damaged once (R424). It is counted, but for the poison
indication of a read of host memory (R425). -/
def State.spendTransit (s : State) (loc n : Nat) : State :=
  let met := s.transit.filter (fun t => meets t 32 loc n)
  if met.isEmpty then s
  else
    { s with transit := s.transit.filter (fun t => !meets t 32 loc n) }.countSram (met.countP (fun t => !inHost t))

/-- As `spendTransit` for a list of locations of one byte each. -/
def State.spendAt (s : State) (locs : List Nat) : State := locs.foldl (fun s x => s.spendTransit x 1) s

/-! ### Bytes moved -/

/-- Bytes moved at a location counted (R458): scratchpads and scalar data memories are no part of the table. -/
def Moved.add (m : Moved) (loc n : Nat) : Moved :=
  if inDev loc then { m with dev := m.dev + n } else if inHost loc then { m with host := m.host + n } else m

/-- Two counts together. -/
def Moved.plus (a b : Moved) : Moved :=
  { dev := a.dev + b.dev, host := a.host + b.host, kite := a.kite + b.kite, eth := a.eth + b.eth }

/-- Bytes sent out of a port counted (R458). -/
def Moved.send (m : Moved) (port n : Nat) : Moved :=
  if port < 18 then { m with kite := m.kite + n } else if port < 20 then { m with eth := m.eth + n } else m

/-- What was counted since an earlier count. -/
def Moved.since (a b : Moved) : Moved :=
  { dev := a.dev - b.dev, host := a.host - b.host, kite := a.kite - b.kite, eth := a.eth - b.eth }

/-- Bytes that an access or an engine operation of hart h moved at a location (R458). -/
def State.moves (s : State) (h loc n : Nat) : State :=
  if inDev loc || inHost loc then s.modHartAt h (fun x => { x with moved := x.moved.add loc n }) else s

/-! ### Launches and address spaces -/

/-- The live launch with a serial. -/
def State.launchOf (s : State) (serial : BitVec 32) : Option Launch :=
  s.launches.find? (fun l => l.serial = serial && l.state ≠ .complete)

/-- The machine with a live launch changed. -/
def State.modLaunch (s : State) (serial : BitVec 32) (f : Launch → Launch) : State :=
  { s with launches := s.launches.map (fun l => if l.serial = serial && l.state ≠ .complete then f l else l) }

/-- The launch a hart is placed for. -/
def State.launchOfHart (s : State) (h : Hart) : Option Launch := h.place.bind (fun p => s.launchOf p.serial)

/-- The translation root of a hart's launch (R333); 0 where none is placed. -/
def State.rootOf (s : State) (h : Hart) : Nat := ((s.launchOfHart h).map (·.root)).getD 0

/-- The gang a hart is placed for. -/
def State.gangOf (s : State) (h : Hart) : Option Gang :=
  h.place.bind (fun p => (s.launchOf p.serial).bind (fun l => l.gangs.find? (fun g => g.index = p.gang)))

/-- The machine with one gang changed. -/
def State.modGang (s : State) (serial : BitVec 32) (gang : Nat) (f : Gang → Gang) : State :=
  s.modLaunch serial (fun l => { l with gangs := l.gangs.map (fun g => if g.index = gang then f g else g) })

/-- The machine with the gang of the executing hart changed. -/
def State.modMyGang (s : State) (f : Gang → Gang) : State :=
  match s.hart.place with
  | some p => s.modGang p.serial p.gang f
  | none => s

/-! ### Translation -/

/-- What an access wants of its page (R337). -/
inductive Acc where
  | load
  | store
  | fetch
  deriving DecidableEq, Repr

/-- Who makes an access: a scalar unit, a vector sequencer, a copy or stream engine, or a kite engine (R330, R220,
R337). -/
inductive Who where
  | scalar
  | vector
  | engine
  | kite
  deriving DecidableEq, Repr

/-- Is it an engine? -/
def Who.isEngine (w : Who) : Bool := w = .engine || w = .kite

/-- The end of a translation: a location with whether its page is of device memory type; a trap cause (R311); or a table
entry that cannot be read (R467). -/
inductive Xlate where
  | at (loc : Nat) (devType : Bool)
  | fault (cause : Nat)
  | damaged
  deriving DecidableEq, Repr

/-- PAGE_LOAD, PAGE_STORE or PAGE_FETCH. -/
def pageCause : Acc → Nat
  | .load => 6
  | .store => 7
  | .fetch => 5

/-- The ACCESS cause. -/
def causeAccess : Nat := 8
/-- The ALIGN_DATA cause. -/
def causeAlign : Nat := 4

/-- A leaf found by a walk, with the bits of its entry and the log of its size. -/
structure Leaf where
  entry : Word
  shift : Nat
  deriving DecidableEq, Repr

/-- The end of a walk. -/
inductive Walked where
  | leaf (e : Leaf)
  | invalid
  | damaged
  deriving DecidableEq, Repr

/-- Is an entry invalid (R335)? `lvl` is its level, `shift` the log of the size it would map. -/
def entryInvalid (e : Word) (lvl shift : Nat) : Bool :=
  let leaf := bit e 1
  !bit e 0 || fld e 52 12 ≠ 0 || fld e 9 3 ≠ 0 || (leaf && lvl = 0) || (!leaf && lvl = 3)
    || (leaf && (fld e 7 2 = 3 || (bit e 3 && !bit e 2) || (fld e 12 40 <<< 12) % 2 ^ shift ≠ 0))
    || (!leaf && (fld e 2 7 ≠ 0 || !inDev (fld e 12 40 <<< 12)))

/-- The walk of R334 over the levels still to read, as pairs of level and lowest index bit. -/
def State.walk (s : State) (table va : Nat) : List (Nat × Nat) → Walked
  | [] => .invalid
  | (lvl, shift) :: rest =>
    let at' := table + 8 * ((va >>> shift) % (if lvl = 0 then 256 else 512))
    if (List.range 8).any (fun i => s.damagedAt (at' + i)) then .damaged
    else
      let e : Word := BitVec.ofNat 64 (leNat (s.readMem at' 8))
      if entryInvalid e lvl shift then .invalid
      else if bit e 1 then .leaf { entry := e, shift := shift }
      else s.walk (fld e 12 40 <<< 12) va rest

/-- The four levels of R334. -/
def levels : List (Nat × Nat) := [(0, 39), (1, 30), (2, 21), (3, 12)]

/-- Does a leaf permit the access (R337)? -/
def leafPermits (e : Word) (sup : Bool) (who : Who) (acc : Acc) : Bool :=
  (bit e 5 || (sup && !who.isEngine)) &&
  (match acc with
   | .load => bit e 2
   | .store => bit e 3
   | .fetch => bit e 4)

/-- The scratchpad location of byte n of a core. -/
def spad (core n : Nat) : Nat := Config.spadLoc + core * 0x200000 + n

/-- Translation of one address (R330 to R337, R466): window or walk, then permission, then the physical map. -/
def State.translate (s : State) (core root : Nat) (sup : Bool) (who : Who) (acc : Acc) (va : Word) : Xlate :=
  let a := va.toNat
  if a ≥ 0x1000000000000 then .fault (pageCause acc)
  else if a < 0x800000000000 then
    match s.walk root a levels with
    | .invalid => .fault (pageCause acc)
    | .damaged => .damaged
    | .leaf l =>
      if !leafPermits l.entry sup who acc then .fault causeAccess
      else
        let pa := (fld l.entry 12 40 <<< 12) + a % 2 ^ l.shift
        if inUsableDev pa || inHost pa then .at pa (bit l.entry 6) else .fault causeAccess
  else if 0xC00000000000 ≤ a && a < 0xC00000200000 then
    if acc = .fetch then .fault causeAccess else .at (spad core (a - 0xC00000000000)) false
  else if 0xC10000000000 ≤ a && a < 0xC10010000000 then
    let off := a - 0xC10000000000
    if acc = .fetch || who = .kite || (s.core (off / 0x200000)).retired then .fault causeAccess
    else .at (Config.spadLoc + off) false
  else if 0xC20000000000 ≤ a && a < 0xC20000010000 then
    if acc = .fetch || who ≠ .scalar then .fault causeAccess
    else .at (Config.sdmLoc + core * 0x10000 + (a - 0xC20000000000)) false
  else if 0xC30000000000 ≤ a && a < 0xC30000001000 then .fault causeAccess
  else .fault (pageCause acc)

/-- The locations of the entries that a walk reads, as far as it comes (R334). -/
def State.walkReads (s : State) (table va : Nat) : List (Nat × Nat) → List Nat
  | [] => []
  | (lvl, shift) :: rest =>
    let at' := table + 8 * ((va >>> shift) % (if lvl = 0 then 256 else 512))
    let e : Word := BitVec.ofNat 64 (leNat (s.readMem at' 8))
    at' :: (if s.damagedAt at' || entryInvalid e lvl shift || bit e 1 then []
      else s.walkReads (fld e 12 40 <<< 12) va rest)

/-- Damage in transit that a walk under a root met is used up (R467). -/
def State.spendWalk (s : State) (root : Nat) (va : Word) : State :=
  if !s.transit.isEmpty && va.toNat < 0x800000000000 then s.spendAt (s.walkReads root va.toNat levels) else s

/-- Damage in transit that an access of hart h at an address met, in the walk or at the byte, is used up. -/
def State.spendAccess (s : State) (h : Nat) (va : Word) : State :=
  if s.transit.isEmpty then s
  else
    let root := s.rootOf (s.hartAt h)
    let s := s.spendWalk root va
    match s.translate (coreOf h) root true .scalar .load va with
    | .at loc _ => s.spendTransit loc 1
    | _ => s

/-- Is a location in a scratchpad? -/
def inSpad (loc : Nat) : Bool := Config.spadLoc ≤ loc && loc < Config.sdmLoc

/-- Translation for the executing hart in its own address space. -/
def State.xlate (s : State) (who : Who) (acc : Acc) (va : Word) : Xlate :=
  let h := s.hart
  s.translate (coreOf s.cur) (s.rootOf h) h.sup who acc va

/-- The checks of a scalar access of n bytes in the order of R151: alignment, page, permission. -/
def State.checkScalar (s : State) (acc : Acc) (va : Word) (n : Nat) : Xlate :=
  if va.toNat % n ≠ 0 then .fault causeAlign else s.xlate .scalar acc va

/-! ### Trace -/

/-- The ring of a source (R449). -/
def ringOf (src : Nat) : Nat :=
  if src < 0x200 then hearthOf src
  else if src < 0x280 then (src - 0x200) / 4
  else if src < 0x2A0 then src - 0x280
  else if src < 0x2C0 then src - 0x2A0
  else if src < 0x2E0 then src - 0x2C0
  else 32

/-- A trace ring. -/
def State.ring (s : State) (r : Nat) : Ring := (s.rings[r]?).getD .reset

/-- The machine with a trace ring changed. -/
def State.modRing (s : State) (r : Nat) (f : Ring → Ring) : State :=
  { s with rings := s.rings.setIfInBounds r (f (s.ring r)) }

/-- A source emits a record (R451); a full flue loses it (R453). -/
def State.emit (s : State) (src ty : Nat) (payload : List Byte) : State :=
  let r := ringOf src
  let ring := s.ring r
  if ring.trsize = 0 || !bit ring.trmask ty then s
  else
    let rec' : TraceRec := { time := s.tsc, src := src, ty := ty, payload := payload }
    if r = 32 then { s with devFlue := s.devFlue ++ [rec'] }
    else
      let k := s.hearth r
      if k.flue.length < Config.flueCap then s.modHearth r (fun k => { k with flue := k.flue ++ [rec'] })
      else
        (s.modHearth r (fun k =>
          { k with lost := k.lost + 1, firstLost := if k.lost = 0 then s.tsc else k.firstLost })).modRing r
          (fun g => { g with trlost := g.trlost + 1 })

/-! ### Timelines -/

/-- A timeline (R259). -/
def State.timeline (s : State) (t : Nat) : Timeline := ((s.timelines.find? (fun e => e.1 = t)).map (·.2)).getD .reset

/-- An association list in rising order of its keys, with one entry replaced or added. -/
def putSorted {α : Type} (k : Nat) (x : α) : List (Nat × α) → List (Nat × α)
  | [] => [(k, x)]
  | (a, y) :: r => if k < a then (k, x) :: (a, y) :: r else if k = a then (k, x) :: r else (a, y) :: putSorted k x r

/-- The machine with a timeline changed. -/
def State.modTimeline (s : State) (t : Nat) (f : Timeline → Timeline) : State :=
  { s with timelines := putSorted t (f (s.timeline t)) s.timelines }

/-- No timeline (R259). -/
def noTl : Nat := 0xFFFF

/-- An operation issued on a timeline takes the next ticket; 0xFFFF takes none (R259). -/
def State.takeTicket (s : State) (t : Nat) : Nat × State :=
  if t = noTl then (0, s)
  else
    let n := (s.timeline t).next + 1
    (n.toNat, s.modTimeline t (fun l => { l with next := n }))

/-- VALUE moves over the finished tickets above it, at most once for each of them. -/
def Timeline.settle : Nat → Timeline → Timeline
  | 0, l => l
  | k + 1, l =>
    let n := l.value + 1
    if l.done.contains n.toNat then Timeline.settle k { l with value := n, done := l.done.filter (· ≠ n.toNat) } else l

/-- The first error of a timeline is recorded: code, kind, ticket and address (R259). -/
def Timeline.flagError (l : Timeline) (ticket c k : Nat) (a : Word) : Timeline :=
  if l.err then l
  else { l with err := true, ecode := BitVec.ofNat 8 c, ekind := BitVec.ofNat 8 k,
                eticket := BitVec.ofNat 64 ticket, eaddr := a }

/-- An operation finishes, with an error (code, kind, address) or without (R259). -/
def State.finishTicket (s : State) (t ticket : Nat) (err : Option (Nat × Nat × Word)) : State :=
  if t = noTl then s
  else s.modTimeline t (fun l =>
    let l := match err with
      | some (c, k, a) => l.flagError ticket c k a
      | none => l
    let l := { l with done := ticket :: l.done }
    l.settle l.done.length)

/-! ### Lane groups -/

/-- How many lane groups of its core a hart holds: LGRANT (R38, R385). -/
def State.lgrant (s : State) (h : Nat) : Nat := (s.core (coreOf h)).groups.toList.countP (fun g => g = .holds h)

/-- A placed hart that waits for its first group comes first, then the longest-waiting requester (R386, R387). -/
def State.nextRequester (s : State) (c : Nat) : Option Nat :=
  ((List.range 4).map (4 * c + ·)).foldl (fun best h =>
    let x := s.hartAt h
    match x.laneSince with
    | none => best
    | some t =>
      if x.laneShort = 0 then best
      else
        let key := (if s.lgrant h = 0 then 0 else 1, t)
        match best with
        | none => some h
        | some b =>
          let kb := (if s.lgrant b = 0 then 0 else 1, ((s.hartAt b).laneSince).getD 0)
          if key.1 < kb.1 || (key.1 = kb.1 && key.2 < kb.2) then some h else best) none

/-- Group i of core c becomes free: it goes to a hart that waits for its first group, is earmarked for the
longest-waiting requester that is still short, or stays free (R385 to R387). -/
def State.freeGroup (s : State) (c i : Nat) : State :=
  match s.nextRequester c with
  | none => s.modCore c (fun k => { k with groups := k.groups.setIfInBounds i .free })
  | some h =>
    let g : Group := if s.lgrant h = 0 then .holds h else .earmarked h
    (s.modCore c (fun k => { k with groups := k.groups.setIfInBounds i g })).modHartAt h
      (fun x => { x with laneShort := x.laneShort - 1, laneSince := if x.laneShort ≤ 1 then none else x.laneSince })

/-- Hart h gives up all its groups, and what is earmarked for it (R385). -/
def State.releaseGroups (s : State) (h : Nat) : State :=
  let c := coreOf h
  let s := s.modHartAt h (fun x => { x with laneSince := none, laneShort := 0 })
  (List.range 4).foldl (fun s i =>
    match ((s.core c).groups[i]?).getD .free with
    | .holds k => if k = h then s.freeGroup c i else s
    | .earmarked k => if k = h then s.freeGroup c i else s
    | .free => s) s

/-! ### The pending-launch pool -/

/-- Entries of the pool that launches hold or WAITSLOT has reserved (R375, R277). -/
def State.poolUsed (s : State) : Nat :=
  s.launches.countP (·.inPool) + s.contexts.countP (·.slotRes)

/-- An entry has freed: the longest-parked WAITSLOT takes it (R277). -/
def State.grantSlot (s : State) : State :=
  if s.poolUsed < Config.poolSize then
    match (s.contexts.filterMap (fun h => if h.wait = some .slot then some h.parkedAt else none)).min? with
    | none => s
    | some t => s.mapContexts (fun h =>
        if h.wait = some .slot && h.parkedAt = t then { h with wait := some (.done none 0), slotRes := true } else h)
  else s

/-! ### Slots of landing zones -/

/-- The number of a slot state (R275). -/
def slotCode : SlotState → Nat
  | .free => 0
  | .reserved => 1
  | .filling => 2
  | .arrived => 3
  | .failed => 4

/-- A zone of a core. -/
def State.zone (s : State) (c z : Nat) : Option Zone := ((s.core c).zones[z]?).getD none

/-- The machine with a zone of a core replaced. -/
def State.setZone (s : State) (c z : Nat) (x : Option Zone) : State :=
  s.modCore c (fun k => { k with zones := k.zones.setIfInBounds z x })

/-- A slot changes its state, with the SLOT record of R450. -/
def State.setSlot (s : State) (c z i : Nat) (f : Slot → Slot) : State :=
  match s.zone c z with
  | none => s
  | some x =>
    match x.slots[i]? with
    | none => s
    | some old =>
      let new := f old
      let x' := { x with
        slots := x.slots.set i new
        arrived := if new.state = .arrived && old.state ≠ .arrived then x.arrived + 1 else x.arrived
        failed := if new.state = .failed && old.state ≠ .failed then x.failed + 1 else x.failed }
      let s := s.setZone c z (some x')
      if new.state = old.state then s
      else s.emit (0x280 + c / 4) 8 (leBytes 1 c ++ leBytes 1 z ++ leBytes 2 i ++ leBytes 1 (slotCode old.state)
        ++ leBytes 1 (slotCode new.state) ++ leBytes 2 new.gen.toNat ++ leBytes 4 new.len)

/-- A slot fails (R269, R413): its LEN becomes 0. -/
def Slot.fail (x : Slot) : Slot := { x with state := .failed, len := 0 }

/-- Free bytes, by the number of the first. -/
def freeBytes (from' n : Nat) : List Byte := (List.range n).map (fun i => Config.freeByte (from' + i))

/-- Bytes become unspecified (R269): each takes a free value. -/
def State.vague (s : State) (loc n : Nat) : State :=
  { s with mem := Memory.writes s.mem loc (freeBytes s.fresh n), fresh := s.fresh + n }

/-- The bytes of a slot become unspecified, as those of a FILLING or FAILED slot are (R269). -/
def State.vagueSlot (s : State) (c z i : Nat) : State :=
  match s.zone c z with
  | none => s
  | some x => s.vague (spad c (x.base + i * x.slotSize)) x.slotSize

/-- A slot of this device fails (R269, R413). -/
def State.failSlot (s : State) (c z i : Nat) : State := (s.setSlot c z i Slot.fail).vagueSlot c z i

/-- Every slot of this device for which a test holds, as core, zone and index. -/
def State.slotsWhere (s : State) (t : Slot → Bool) : List (Nat × Nat × Nat) :=
  (List.range 128).flatMap (fun c => (List.range 8).flatMap (fun z =>
    match s.zone c z with
    | none => []
    | some x => (List.range x.slots.length).filterMap (fun i =>
        match x.slots[i]? with
        | some y => if t y then some (c, z, i) else none
        | none => none)))

/-! ### Ports and paths -/

/-- The internal fabric as a port (R410). -/
def portSelf : Nat := 31
/-- The port of a path that has failed. -/
def portFailed : Nat := 30

/-- A port. -/
def State.portAt (s : State) (p : Nat) : Port := (s.ports[p]?).getD .reset

/-- The machine with a port changed. -/
def State.modPort (s : State) (p : Nat) (f : Port → Port) : State :=
  { s with ports := s.ports.setIfInBounds p (f (s.portAt p)) }

/-- The port of a path, by the path's number: the port itself, or for an Ethernet path the port and 32 times the Ethernet
address of the other end (R411). -/
def portOf (path : Nat) : Nat := path % 32

/-- Is the port of a path one of the two Ethernet ports (R411)? -/
def isEthernet (path : Nat) : Bool := portOf path = 18 || portOf path = 19

/-- A route word: word r of device d (R411). -/
def State.route (s : State) (d r : Nat) : Word := ((s.routes.find? (fun e => e.1 = 4 * d + r)).map (·.2)).getD 0

/-- The key of a path to a device. -/
def pathKey (dev path : Nat) : Nat := 65536 * path + dev

/-- An Ethernet path. -/
def State.ethPath (s : State) (dev path : Nat) : EthPath :=
  ((s.eth.find? (fun e => e.1 = pathKey dev path)).map (·.2)).getD { sent := 0, unacked := [], taken := 0, flits := 0 }

/-- The machine with an Ethernet path changed. -/
def State.modEth (s : State) (dev path : Nat) (f : EthPath → EthPath) : State :=
  { s with eth := putSorted (pathKey dev path) (f (s.ethPath dev path)) s.eth }

/-- KIND of the flits of a message (R408). A rejection comes as a completion does, the end of a launch and an
acknowledgement as control (DESIGN CHOICE, log 58). -/
def KMsg.kind : KMsg → Nat
  | .reserve .. => 1
  | .reply .. => 2
  | .head .. => 3
  | .data .. => 4
  | .last .. => 5
  | .completion .. => 6
  | .rejection .. => 6
  | .ended .. => 0
  | .ack => 0

/-- The header of a flit (R408). -/
def flitHeader (ddev sdev kind seq chk : Nat) : Word :=
  BitVec.ofNat 64 (chk % 2 ^ 16 + seq % 2 ^ 12 * 2 ^ 16 + kind % 16 * 2 ^ 28 + sdev % 2 ^ 16 * 2 ^ 32 + ddev % 2 ^ 16 * 2 ^ 48)

/-- The flit in which a port sends a message to a device (R408). -/
def State.flit (s : State) (port dev : Nat) (m : KMsg) : Flit × State :=
  let (n, s) := s.takeFresh
  ({ header := flitHeader dev s.devnum.toNat m.kind (s.portAt port).seq.toNat (Config.flitCheck n).toNat, msg := m },
   s.modPort port (fun p => { p with seq := p.seq + 1 }))

/-- The VLAN of a port's frames (R415, R419). -/
def Port.tag (p : Port) : Option (BitVec 12) := if bit p.vlan 12 then some (BitVec.ofNat 12 (fld p.vlan 0 12)) else none

/-- The frame of one flit on an Ethernet path, with a number and what the path has taken in (R415, R416). The address of
the port and the frame check sequence are free values, since no rule gives them (log 58). -/
def State.frameOf (s : State) (dev path number : Nat) (f : Flit) : KFrame × State :=
  let (n, s) := s.takeFresh
  let port := portOf path
  ({ mac := BitVec.ofNat 48 (path / 32), src := Config.portMac port, vlan := (s.portAt port).tag
     etype := BitVec.ofNat 16 (fld s.ketype 0 16), number := number, ack := (s.ethPath dev path).taken, flits := [f]
     fcs := Config.frameCheck n }, s)

/-- Something goes out of the port of a path to a device (R413). -/
def State.sendOut (s : State) (dev path : Nat) (p : Packet) : State :=
  { s with sent := s.sent ++ [p], lastSent := putSorted (pathKey dev path) s.tsc s.lastSent }

/-- A message sent towards another part: over the internal fabric, or out of a port to a device (R408, R410), on
Ethernet as the one flit of a frame with the next number of its path (R415, R416). -/
def State.post (s : State) (path dev : Nat) (m : KMsg) : State :=
  if path = portSelf then { s with fabric := s.fabric ++ [m] }
  else
    let port := portOf path
    let (f, s) := s.flit port dev m
    if isEthernet path then
      let (x, s) := s.frameOf dev path ((s.ethPath dev path).sent + 1) f
      (s.modEth dev path (fun e =>
        { e with sent := e.sent + 1, unacked := e.unacked ++ [{ frame := x, since := s.tsc, resent := 0 }] })).sendOut
          dev path (.frame port dev x)
    else s.sendOut dev path (.flit port dev f)

/-- An acknowledgement alone, in a frame without a number that nothing acknowledges (R416; log 58). -/
def State.postAck (s : State) (path dev : Nat) : State :=
  let port := portOf path
  let (f, s) := s.flit port dev .ack
  let (x, s) := s.frameOf dev path 0 f
  s.sendOut dev path (.frame port dev x)

/-- A RESERVED or FILLING slot fails, and a send under way into it is rejected (R269). -/
def State.failWithin (s : State) (c z i : Nat) : State :=
  match (s.zone c z).bind (fun x => x.slots[i]?) with
  | none => s
  | some x =>
    let s := s.failSlot c z i
    match x.state, x.owner with
    | .filling, some o => s.post o.port o.dev (.rejection o.op false)
    | _, _ => s

/-- Every RESERVED or FILLING slot fails that is owned by a launch of a device, this one or another; a send under way
into a FILLING slot is rejected (R269). -/
def State.failOwned (s : State) (dev : Nat) (serial : BitVec 32) : State :=
  let mine := fun (x : Slot) =>
    (x.state = .reserved || x.state = .filling) &&
      (match x.owner with
       | some o => o.launch = serial && (if o.port = portSelf then dev = s.devnum.toNat else o.dev = dev)
       | none => false)
  (s.slotsWhere mine).foldl (fun s (c, z, i) => s.failWithin c z i) s

/-- A launch of this device has ended: the slots that it owns fail, here and, once they are told, at the devices where
it reserved any (R269). -/
def State.endOwner (s : State) (serial : BitVec 32) : State :=
  let far := ((s.paths.filter (fun e => portOf e.2.2 < 20)).map (fun e => (e.1.1, e.2.2))).eraseDups
  far.foldl (fun s (dev, port) => s.post port dev (.ended serial)) (s.failOwned s.devnum.toNat serial)

/-! ### Streams and the end of a hart's part in its launch -/

/-- Bytes written by an engine beside a core at a virtual address, where its translation allows (R337). A record that no
longer has one is not written, and nothing else happens (DESIGN CHOICE, log 84). -/
def State.engineWriteAt (s : State) (core root : Nat) (va : Word) (bs : List Byte) : State :=
  match s.translate core root false .engine .store va with
  | .at loc _ => s.writeMem loc bs
  | .damaged => s.spendWalk root va
  | _ => s

/-- Bytes written by an engine of a hart. -/
def State.engineWrite (s : State) (h : Nat) (va : Word) (bs : List Byte) : State :=
  s.engineWriteAt (coreOf h) (s.rootOf (s.hartAt h)) va bs

/-- STATUS and CAUSE of a stream record written beside a core, and the timeline advances once (R237). -/
def State.endStreamAt (s : State) (core root : Nat) (b : Binding) (status cause : Nat) (err : Option Word) : State :=
  let s := s.engineWriteAt core root (b.record + 0x38) (leBytes 1 status ++ leBytes 1 cause)
  s.finishTicket b.tl b.ticket (err.map (fun a => (8, 2, a)))

/-- The stream of a binding ends with a status and cause (R237). -/
def State.endStream (s : State) (h : Nat) (b : Binding) (status cause : Nat) (err : Option Word) : State :=
  s.endStreamAt (coreOf h) (s.rootOf (s.hartAt h)) b status cause err

/-- A binding ends as VUNBIND ends it: USED is written, and a running stream ends IDLE (R238, R237). -/
def State.unbindAt (s : State) (core root : Nat) (b : Binding) : State :=
  let s := s.engineWriteAt core root (b.record + 0x34) (leBytes 4 b.used)
  if b.status = 1 then s.endStreamAt core root b 0 0 none else s

/-- A binding of a hart ends. -/
def State.unbind (s : State) (h : Nat) (b : Binding) : State :=
  s.unbindAt (coreOf h) (s.rootOf (s.hartAt h)) b

/-- Every binding of a hart ends (R238). -/
def State.unbindAll (s : State) (h : Nat) : State :=
  let s' := (s.hartAt h).binds.foldl (fun s b => s.unbind h b) s
  s'.modHartAt h (fun x => { x with binds := [] })

/-- The residency of a hart in the energy window under way, in nanoseconds (R457). -/
def State.residency (s : State) (h : Nat) : Nat :=
  let x := s.hartAt h
  let start := (s.hearth (hearthOf h)).winStart
  if x.place.isSome then min (s.tsc - x.placedTsc).toNat (s.tsc - start).toNat else 0

/-- What hart h has done in the energy window under way stays with its place when it leaves (R456). -/
def State.keepStay (s : State) (h : Nat) : State :=
  let x := s.hartAt h
  match x.place with
  | none => s
  | some p =>
    (s.modHearth (hearthOf h) (fun k => { k with stays := k.stays ++
        [{ place := p, ns := s.residency h, activity := x.activity, moved := x.moved, paid := false }] })).modHartAt h
      (fun x => { x with activity := 0, moved := { dev := 0, host := 0, kite := 0, eth := 0 } })

/-- A hart is done with its launch: its charge goes to the launch, and it holds no tiles, groups, reservation, queue,
held entries or checkpoint any more (R167, R381); an error in its registers is gone with them. -/
def State.releaseHart (s : State) (h : Nat) : State :=
  let s := (s.unbindAll h).keepStay h
  let x := s.hartAt h
  let s := match x.place with
    | some p => s.modLaunch p.serial (fun l => { l with energy := l.energy + x.charge })
    | none => s
  let had := x.slotRes
  let s := s.modHartAt h (fun x =>
    { x with tiles := [], keptTiles := 0, queue := [], stopped := none, watched := [], held := [], waiting := [],
             ckpt := none, bound := none, wait := none, slotRes := false, place := none, promoted := none,
             readyClocks := 0, tileReady := 0, tilePromoted := none, yielded := false, entering := false,
             stopping := none, charge := 0, regError := false,
             dbg := { x.dbg with halted := false, haltReq := false, armed := false } })
  let s := s.releaseGroups h
  if had then s.grantSlot else s

/-! ### Killing a launch -/

/-- The saved context of a killed launch ends: its bindings as HALT ends them, beside the core it was saved on, and its
charge goes to the launch (R381, R238). HARTID stands in its image (R324). -/
def State.dropSaved (s : State) (l : Launch) (c : Hart) : State :=
  let core := coreOf (leNat ((c.image.drop 0x2C0).take 2))
  (c.binds.foldl (fun s b => s.unbindAt core l.root b) s).modLaunch l.serial
    (fun l => { l with energy := l.energy + c.charge })

/-- A launch is killed (R381): every hart of it stops, its slots fail, its pool entry frees, and it drains. No hart of it
takes a pool entry any more. A launch that is killed already keeps its first reason. -/
def State.killLaunch (s : State) (serial : BitVec 32) (k : Kill) : State :=
  match s.launchOf serial with
  | none => s
  | some l =>
    let hs := l.gangs.flatMap (fun g => g.ranks.filterMap (fun r => match r with | .on h => some h | _ => none))
    let lost := l.gangs.flatMap (fun g => g.ranks.filterMap (fun r =>
      match r with | .saved c => if c.slotRes then some () else none | _ => none))
    let s := s.mapContexts (fun h =>
      if h.wait = some .slot && (h.place.map (·.serial)) = some serial then { h with wait := none } else h)
    let s := hs.foldl (fun s h => s.releaseHart h) s
    let s := l.gangs.foldl (fun s g => g.ranks.foldl (fun s r =>
      match r with
      | .saved c => s.dropSaved l c
      | _ => s) s) s
    let s := s.endOwner serial
    let s := s.modLaunch serial (fun l =>
      { l with
        state := .draining, inPool := false
        kill := if l.kill.isSome then l.kill else some k
        gangs := l.gangs.map (fun g => { g with state := .running, ranks := g.ranks.map (fun _ => .halted) }) })
    let s := { s with blocking := if (s.blocking.map (·.1)) = some serial then none else s.blocking }
    let s := if l.inPool then s.grantSlot else s
    lost.foldl (fun s _ => s.grantSlot) s

/-- The launch of hart h is killed on that hart's account (R381), with no access that reads anything now. -/
def State.killFor (s : State) (h reason : Nat) (fval : Word) : State :=
  match (s.hartAt h).place with
  | none => s
  | some p => s.killLaunch p.serial { reason := reason, fval := fval, fgang := p.gang, frank := p.rank }

/-- The launch of hart h is killed by an access of that hart (R381); with REASON 1 the access has read damaged data at
FVAL. -/
def State.killHart (s : State) (h reason : Nat) (fval : Word) : State :=
  (if reason = 1 && (s.hartAt h).place.isSome then s.spendAccess h fval else s).killFor h reason fval

/-- The launch of the executing hart is killed. -/
def State.killMine (s : State) (reason : Nat) (fval : Word) : State := s.killHart s.cur reason fval

/-! ### Traps -/

/-- The places and values of a trap as R313 tabulates them. -/
structure Trap where
  cause : Nat
  vec : Bool
  pc : Word
  mem : Nat
  elem : Nat
  val : Word
  spc : Word
  deriving DecidableEq, Repr

/-- The trap registers as R44 lays them out, the mode, and the handler's address (R311, R312). -/
def Hart.enter (h : Hart) (t : Trap) : Hart :=
  { h with
    trapcause := BitVec.ofNat 64 (t.cause + 256 * b2n t.vec)
    trappc := t.pc &&& 0xFFFFFFFFFFFF
    trapmem := BitVec.ofNat 64 (t.mem % 4)
    trapelem := BitVec.ofNat 64 (t.elem % 8192)
    trapval := t.val
    trapspc := t.spc &&& 0xFFFFFFFFFFFF
    psup := h.sup
    sup := true
    pc := h.trapvec + BitVec.ofNat 64 (64 * t.cause)
    entering := true }

/-- The TRAP trace record (R450). -/
def trapPayload (cause : Nat) (vec : Bool) (mem : Nat) (dbg : Bool) (elem : Nat) (pc val : Word) : List Byte :=
  leBytes 1 cause ++ leBytes 1 (b2n vec) ++ leBytes 1 mem ++ leBytes 1 (b2n dbg) ++ leBytes 2 elem
    ++ leBytes 6 pc.toNat ++ leBytes 8 val.toNat

/-- A trap of the executing hart: with a handler base of 0 it kills the launch (R50), otherwise the handler is entered
(R312). The base is what TRAPVEC holds now, whether or not a handler has written it (DESIGN CHOICE, log 89). -/
def State.takeTrap (s : State) (t : Trap) : State :=
  if s.hart.trapvec = 0 then s.killMine 6 (t.pc &&& 0xFFFFFFFFFFFF)
  else (s.modHart (fun h => h.enter t)).emit s.cur 4 (trapPayload t.cause t.vec t.mem false t.elem t.pc t.val)

/-- A scalar trap, precise at the word at the hart's pc (R142, R313). -/
def State.trapHere (s : State) (cause : Nat) (val : Word) : State :=
  s.takeTrap { cause := cause, vec := false, pc := s.hart.pc, mem := 0, elem := 0, val := val, spc := s.hart.pc }

/-- ILLEGAL, PRIV, OVERLAP and STREAM at issue: TRAPVAL holds the word (R114, R313). -/
def State.trapWord (s : State) (cause : Nat) (w : IWord) : State := s.trapHere cause (w.setWidth 64)

/-- The ILLEGAL cause. -/
def causeIllegal : Nat := 1
/-- The PRIV cause. -/
def causePriv : Nat := 2
/-- The ALIGN_FETCH cause. -/
def causeAlignFetch : Nat := 3
/-- The VL_RANGE cause. -/
def causeVlRange : Nat := 9
/-- The TILE_OFF cause. -/
def causeTileOff : Nat := 10
/-- The OVERLAP cause. -/
def causeOverlap : Nat := 11
/-- The POISON cause. -/
def causePoison : Nat := 12
/-- The MIRROR cause. -/
def causeMirror : Nat := 13
/-- The STREAM cause. -/
def causeStream : Nat := 14
/-- The BKPT cause. -/
def causeBkpt : Nat := 15
/-- The WATCH cause. -/
def causeWatch : Nat := 16
/-- The TRAPI cause. -/
def causeTrapi : Nat := 17

/-- The registers of a return from a trap to an address (R165, R444): fetch enters its block at its word. -/
def Hart.resume (h : Hart) (a : Word) : Hart := { h with pc := a, entering := false }

/-- A debug halt takes the place of a trap (R442): it writes the debug registers and leaves the trap registers. -/
def State.debugHalt (s : State) (t : Trap) : State :=
  (s.modHart (fun h => { h with dbg := { h.dbg with
      halted := true, haltReq := false, armed := false, retired := false, dcause := t.cause,
      dpc := t.pc &&& 0xFFFFFFFFFFFF, dspc := t.spc &&& 0xFFFFFFFFFFFF,
      dstop := BitVec.ofNat 64 (t.mem % 4 + (t.elem % 8192) * 65536), dval := t.val } })).emit s.cur 4
    (trapPayload t.cause t.vec t.mem true t.elem t.pc t.val)

/-- A stop goes to the debugger when it is BKPT or WATCH and OWN is 1, and to the handler otherwise (R443). -/
def State.takeStop (s : State) (t : Trap) : State :=
  if s.hart.dbg.own && (t.cause = causeBkpt || t.cause = causeWatch) then s.debugHalt t else s.takeTrap t

end Sys2Proof.Machine
end

