-- ==== Sys2Proof/Machine/Operands.lean ====
section
/-! DEFINITION. The operand forms of vector instructions: replicate codes, active elements, the annulment bound, element
loops over registers and predicates, formats and scale pairs; and what an instruction names: kind, sources, chain bits
and destinations (R9, R94, R111, R181, R194, R197). -/

namespace Sys2Proof.Machine

/-- What a member of a convoy executes with (R24, R181, R192): its entry, its member index, the elements [lo, hi) it may
execute, its VL, its annulment bound, its governing predicate, and the elements among them that it leaves out (R323). -/
structure Ctx where
  q : QEntry
  j : Nat
  lo : Nat
  hi : Nat
  vl : Nat
  u : Nat
  gov : PReg
  skips : List Nat := []
  /-- no watch entry and no comparison stops this execution -/
  free : Bool := false
  deriving DecidableEq, Repr

/-- The captured EW. -/
def Ctx.ew (c : Ctx) : Nat := ewOf c.q.cap.vcfg
/-- The captured element width in bits. -/
def Ctx.bits (c : Ctx) : Nat := ewBits c.ew
/-- The captured FMT. -/
def Ctx.fmt (c : Ctx) : Nat := fmtOf c.q.cap.vcfg
/-- The captured ZERO. -/
def Ctx.zero (c : Ctx) : Bool := bit c.q.cap.vcfg 23
/-- The captured SAT. -/
def Ctx.sat (c : Ctx) : Bool := bit c.q.cap.vcfg 24
/-- The captured block size B (R26, R122). -/
def Ctx.block (c : Ctx) : Nat := 16 <<< blkOf c.q.cap.vcfg
/-- The captured rounding mode. -/
def Ctx.rm (c : Ctx) : Rm := rmOf c.q.cap.fpmode
/-- active(i) (R7). -/
def Ctx.active (c : Ctx) (i : Nat) : Bool := i < c.vl && c.gov.getLsbD i
/-- Element i is written: active and below the annulment bound (R197). -/
def Ctx.on (c : Ctx) (i : Nat) : Bool := c.active i && i < c.u
/-- Does this execution leave element i out? -/
def Ctx.skipped (c : Ctx) (i : Nat) : Bool := c.skips.contains i
/-- The elements this execution covers, rising. -/
def Ctx.elems (c : Ctx) : List Nat :=
  let es := List.range' c.lo (min c.hi c.vl - c.lo)
  if c.skips.isEmpty then es else es.filter (fun i => !c.skipped i)
/-- The execution reaches VL. -/
def Ctx.ends (c : Ctx) : Bool := c.vl ≤ c.hi

/-- The element of vb that stands for element i under a replicate code (R94). -/
def repIndex (r : BitVec 3) (i : Nat) : Nat :=
  match r.toNat with
  | 4 => 0
  | 5 => i % 8
  | 6 => i % 32
  | 7 => i % 128
  | _ => i

/-- The format that EW and FMT name (R27). -/
def fmtFor (ew fmt : Nat) : Fmt :=
  match ew, fmt with
  | 0, _ => e2m1
  | 1, 0 => e4m3
  | 1, 1 => e5m2
  | 1, _ => fmtM8
  | 2, 0 => bf16
  | 2, 1 => fp16
  | 2, _ => fmtM16
  | 3, _ => fp32
  | _, _ => fp64

/-- A loop over the covered elements of a register: written elements take f's value and give its flags, the others keep
their bytes or become zero under ZERO (R197). -/
def Ctx.mapElems (c : Ctx) (old : VReg) (bits : Nat) (f : Nat → Nat × Nat) : VReg × Nat :=
  c.elems.foldl (fun (r, fl) i =>
    if c.on i then ((setElem r bits i (f i).1), fl ||| (f i).2)
    else if c.zero then (setElem r bits i 0, fl) else (r, fl)) (old, 0)

/-- The bits of a predicate that an instruction writes: covered bits as f says, 0 where annulled or inactive, and the
bits from VL on cleared once the execution reaches VL (R177, R19). -/
def Ctx.mapBits (c : Ctx) (old : PReg) (on : Nat → Bool) (f : Nat → Bool) : PReg :=
  let r := c.elems.foldl (fun (r : PReg) i =>
    let m := BitVec.ofNat 4096 (2 ^ i)
    if on i && f i then r ||| m else r &&& ~~~m) old
  if c.ends then r &&& BitVec.ofNat 4096 (2 ^ c.vl - 1) else r

/-- A stop of a member: element, cause and value, or the kill of R467. `hit` is the element at which a watch matched or
a comparison failed, which for an instruction of kind X is not the element it stops at. -/
structure MStop where
  elem : Nat
  cause : Nat
  val : Word
  kill : Bool
  hit : Nat := elem
  deriving DecidableEq, Repr

/-- What a member leaves: the machine, the stop it met, and whether its launch still runs. -/
structure MRes where
  s : State
  stop : Option MStop
  alive : Bool

/-- A member that met no stop. -/
def MRes.ok (s : State) : MRes := { s := s, stop := none, alive := true }

/-- A member that stopped with a cause at an element. -/
def MRes.at (s : State) (elem cause : Nat) (val : Word) : MRes :=
  { s := s, stop := some { elem := elem, cause := cause, val := val, kill := false }, alive := true }

/-- A member whose access kills the launch with REASON 1 (R467). -/
def MRes.kills (s : State) (elem : Nat) (va : Word) : MRes :=
  { s := s, stop := some { elem := elem, cause := 0, val := va, kill := true }, alive := true }

/-- A member during which the launch was killed. -/
def MRes.dead (s : State) : MRes := { s := s, stop := none, alive := false }

/-- A translation that failed, as the stop of a member; the value given where it did not fail. -/
def MRes.ofFail (s : State) (elem : Nat) (va : Word) : Xlate → MRes
  | .fault cause => .at s elem cause va
  | .damaged => .kills s elem va
  | .at _ _ => .ok s

/-- FPFLAGS accumulates (R37, R199). -/
def State.addFlags (s : State) (fl : Nat) : State :=
  s.modHart (fun h => { h with fpflags := h.fpflags ||| BitVec.ofNat 64 (fl % 32) })

/-- A register and flags written. -/
def State.putV (s : State) (d : Nat) (r : VReg × Nat) : State := (s.modHart (fun h => h.vset d r.1)).addFlags r.2

/-- Element operation of two sources and the old destination: class 8 and 9 and their like. -/
def elemMember (c : Ctx) (s : State) (d a b : BitVec 6) (r : BitVec 3) (bits : Nat)
    (f : Nat → Nat → Nat → Nat × Nat) : MRes :=
  let va := s.hart.vget a.toNat
  let vb := s.hart.vget b.toNat
  let vd := s.hart.vget d.toNat
  .ok (s.putV d.toNat (c.mapElems vd bits (fun i =>
    f (elemOf va bits i) (elemOf vb bits (repIndex r i)) (elemOf vd bits i))))

/-- The scale pair of a block from the register MSCALE.SA or SB names; 0x007F while EN is 0 (R207, R248). -/
def scalePair (h : Hart) (mscale : Word) (sb : Bool) (block : Nat) : Nat :=
  if bit mscale 12 then elemOf (h.vget (fld mscale (if sb then 6 else 0) 6)) 16 block else 0x7F

/-! ### What a vector instruction names -/

/-- Kind, chained and unchained vector sources, the source read through a nonzero rep, destinations, and the g register
written (R111, R194, R239). -/
structure VInfo where
  kindA : Bool
  chained : List Nat
  plain : List Nat
  rep : Option Nat
  writes : List Nat
  greg : Option Nat
  deriving DecidableEq, Repr

/-- A source with its chain bit, as the pair of lists (chained, plain). -/
def src (r : BitVec 6) (x : BitVec 1) : List Nat × List Nat := if x = 1 then ([r.toNat], []) else ([], [r.toNat])

/-- The form vd, va, vb with both chain bits and rep. -/
def infoBin (d a b : BitVec 6) (x y : BitVec 1) (r : BitVec 3) (readsD : Bool) : VInfo :=
  { kindA := true, chained := (src a x).1 ++ (src b y).1,
    plain := (src a x).2 ++ (src b y).2 ++ (if readsD then [d.toNat] else []),
    rep := if r = 0 then none else some b.toNat, writes := [d.toNat], greg := none }

/-- The compare form: a predicate destination. -/
def infoCmp (a b : BitVec 6) (x y : BitVec 1) (r : BitVec 3) : VInfo :=
  { infoBin 0 a b x y r false with writes := [] }

/-- The form vd, va with a chain bit. -/
def infoUn (d a : BitVec 6) (x : BitVec 1) : VInfo :=
  { kindA := true, chained := (src a x).1, plain := (src a x).2, rep := none, writes := [d.toNat], greg := none }

/-- Kind X with these sources and destinations. -/
def infoX (reads writes : List Nat) (g : Option Nat) : VInfo :=
  { kindA := false, chained := [], plain := reads, rep := none, writes := writes, greg := g }

/-- Kind A with no chained source. -/
def infoA (reads writes : List Nat) : VInfo :=
  { kindA := true, chained := [], plain := reads, rep := none, writes := writes, greg := none }

/-- The first k planes of a planed register (R18). -/
def planes (d : BitVec 6) (k : Nat) : List Nat := (List.range k).map (fun p => d.toNat + 16 * p)

/-- What a vector instruction names; none for the instructions of the scalar unit and the events. -/
def vInfo : Instr → Option VInfo
  | .vadd d a b x y r => some (infoBin d a b x y r false)
  | .vsub d a b x y r => some (infoBin d a b x y r false)
  | .vmul d a b x y r => some (infoBin d a b x y r false)
  | .vmulh d a b x y r => some (infoBin d a b x y r false)
  | .vmulhz d a b x y r => some (infoBin d a b x y r false)
  | .vmadd d a b x y r => some (infoBin d a b x y r true)
  | .vmsub d a b x y r => some (infoBin d a b x y r true)
  | .vand d a b x y r => some (infoBin d a b x y r false)
  | .vor d a b x y r => some (infoBin d a b x y r false)
  | .vxor d a b x y r => some (infoBin d a b x y r false)
  | .vsll d a b x y r => some (infoBin d a b x y r false)
  | .vsrl d a b x y r => some (infoBin d a b x y r false)
  | .vsra d a b x y r => some (infoBin d a b x y r false)
  | .vmin d a b x y r => some (infoBin d a b x y r false)
  | .vmax d a b x y r => some (infoBin d a b x y r false)
  | .vminz d a b x y r => some (infoBin d a b x y r false)
  | .vmaxz d a b x y r => some (infoBin d a b x y r false)
  | .vsadd d a b x y r => some (infoBin d a b x y r false)
  | .vssub d a b x y r => some (infoBin d a b x y r false)
  | .vsaddz d a b x y r => some (infoBin d a b x y r false)
  | .vssubz d a b x y r => some (infoBin d a b x y r false)
  | .vabsd d a b x y r => some (infoBin d a b x y r false)
  | .vfadd d a b x y r => some (infoBin d a b x y r false)
  | .vfsub d a b x y r => some (infoBin d a b x y r false)
  | .vfmul d a b x y r => some (infoBin d a b x y r false)
  | .vfma d a b x y r => some (infoBin d a b x y r true)
  | .vfms d a b x y r => some (infoBin d a b x y r true)
  | .vfnma d a b x y r => some (infoBin d a b x y r true)
  | .vfdiv d a b x y r => some (infoBin d a b x y r false)
  | .vfsqrt d a x => some (infoUn d a x)
  | .vfmin d a b x y r => some (infoBin d a b x y r false)
  | .vfmax d a b x y r => some (infoBin d a b x y r false)
  | .vfexp2 d a x => some (infoUn d a x)
  | .vfcvt d a _ _ x => some (infoUn d a x)
  | .vfclass d a x => some (infoUn d a x)
  | .vfsgnj d a b x y r => some (infoBin d a b x y r false)
  | .pand _ _ _ => some (infoA [] [])
  | .por _ _ _ => some (infoA [] [])
  | .pxor _ _ _ => some (infoA [] [])
  | .pandn _ _ _ => some (infoA [] [])
  | .pset _ => some (infoA [] [])
  | .pclr _ => some (infoA [] [])
  | .pmov _ _ => some (infoA [] [])
  | .pexitb _ _ => some (infoX [] [] none)
  | .pexita _ _ => some (infoX [] [] none)
  | .pfirst g _ => some (infoX [] [] (some g.toNat))
  | .pcnt g _ => some (infoX [] [] (some g.toNat))
  | .pidx _ _ => some (infoA [] [])
  | .vcmpEq _ a b x y r => some (infoCmp a b x y r)
  | .vcmpNe _ a b x y r => some (infoCmp a b x y r)
  | .vcmpLt _ a b x y r => some (infoCmp a b x y r)
  | .vcmpLe _ a b x y r => some (infoCmp a b x y r)
  | .vcmpLtz _ a b x y r => some (infoCmp a b x y r)
  | .vcmpLez _ a b x y r => some (infoCmp a b x y r)
  | .vfcmpEq _ a b x y r => some (infoCmp a b x y r)
  | .vfcmpNe _ a b x y r => some (infoCmp a b x y r)
  | .vfcmpLt _ a b x y r => some (infoCmp a b x y r)
  | .vfcmpLe _ a b x y r => some (infoCmp a b x y r)
  | .vfcmpUn _ a b x y r => some (infoCmp a b x y r)
  | .vslup d a _ _ => some (infoX [a.toNat] [d.toNat] none)
  | .vsldn d a _ _ => some (infoX [a.toNat] [d.toNat] none)
  | .vcompress d a _ => some (infoX [a.toNat] [d.toNat] none)
  | .vexpand d a _ => some (infoX [a.toNat] [d.toNat] none)
  | .vperm d a b => some (infoX [a.toNat, b.toNat] [d.toNat] none)
  | .vid d => some (infoA [] [d.toNat])
  | .viota d _ => some (infoX [] [d.toNat] none)
  | .vmerge d a b x y r => some (infoBin d a b x y r false)
  | .vbcast d _ => some (infoA [] [d.toNat])
  | .vextr g a _ => some (infoX [a.toNat] [] (some g.toNat))
  | .vins d _ _ => some (infoX [] [d.toNat] none)
  | .vrsum d a => some (infoX [a.toNat] [d.toNat] none)
  | .vrmax d a => some (infoX [a.toNat] [d.toNat] none)
  | .vrmin d a => some (infoX [a.toNat] [d.toNat] none)
  | .vfrsum d a => some (infoX [a.toNat] [d.toNat] none)
  | .vfrsumo d a => some (infoX [a.toNat] [d.toNat] none)
  | .vfrmax d a => some (infoX [a.toNat] [d.toNat] none)
  | .vfrmin d a => some (infoX [a.toNat] [d.toNat] none)
  | .vrscl d a b => some (infoX [a.toNat, b.toNat] [d.toNat] none)
  | .vargmax d a => some (infoX [a.toNat] [d.toNat] none)
  | .vpsplit d a _ => some (infoX [a.toNat] (planes d 3) none)
  | .vpjoin d a _ => some (infoX (planes a 3) [d.toNat] none)
  | .vpadd d a x =>
    some { kindA := true, chained := (src a x).1, plain := (src a x).2 ++ planes d 3, rep := none,
           writes := planes d 3, greg := none }
  | .vld d _ => some (infoA [] [d.toNat])
  | .vlds d _ => some (infoA [] [d.toNat])
  | .vldx d _ i c _ => some { infoUn d i c with writes := [d.toNat] }
  | .vldf d _ => some (infoA [] [d.toNat])
  | .vst v _ c => some { infoUn 0 v c with writes := [] }
  | .vsts v _ c => some { infoUn 0 v c with writes := [] }
  | .vstx v _ i c _ =>
    some { kindA := true, chained := (src v c).1, plain := (src v c).2 ++ [i.toNat], rep := none, writes := [],
           greg := none }
  | .vscadd v _ i c _ _ =>
    some { kindA := true, chained := (src v c).1, plain := (src v c).2 ++ [i.toNat], rep := none, writes := [],
           greg := none }
  | .vmerget v _ _ => some (infoX [v.toNat] [] none)
  | .vpld d _ i p m => some (infoA [] (planes d (p.toNat + 1) ++ (if m.toNat < 2 then [] else [i.toNat])))
  | .vpst v _ i p m => some (infoA (planes v (p.toNat + 1) ++ (if m = 0 then [] else [i.toNat])) [])
  | .vxpand d _ p => some (infoX [] (planes d (p.toNat + 1)) none)
  | .vbind _ _ => some (infoX [] [] none)
  | .vunbind _ => some (infoX [] [] none)
  | .mattach _ => some (infoX [] [] none)
  | .mdetach => some (infoX [] [] none)
  | .mzero _ => some (infoX [] [] none)
  | .mxacc _ a b x y _ _ =>
    some { kindA := true, chained := (src a x).1 ++ (src b y).1, plain := (src a x).2 ++ (src b y).2, rep := none,
           writes := [], greg := none }
  | .mxsub _ a b x y _ _ =>
    some { kindA := true, chained := (src a x).1 ++ (src b y).1, plain := (src a x).2 ++ (src b y).2, rep := none,
           writes := [], greg := none }
  | .mrowv _ d _ => some (infoX [] [d.toNat] none)
  | .mcolv _ d _ => some (infoX [] [d.toNat] none)
  | .mvrow _ a _ => some (infoX [a.toNat] [] none)
  | .mtst _ _ => some (infoX [] [] none)
  | .mtld _ _ => some (infoX [] [] none)
  | .cpyg d _ v => some (infoX [v.toNat] [] (some d.toNat))
  | .vsample d a b _ => some (infoX [a.toNat, b.toNat] [] (some d.toNat))
  | .vpen d a _ => some (infoX [d.toNat, a.toNat] [d.toNat] none)
  | .gmask _ _ _ => some (infoX [] [] none)
  | .vhlook d a c _ => some (infoX [a.toNat] [d.toNat, c.toNat] none)
  | _ => none

/-- The vb of a tile multiply-accumulate (R111 rule 4). -/
def tileColumn : Instr → Option Nat
  | .mxacc _ _ b _ _ _ _ => some b.toNat
  | .mxsub _ _ b _ _ _ _ => some b.toNat
  | _ => none

/-- Does the next queue entry join the convoy (R111)? -/
def joins (convoy : List QEntry) (e : QEntry) : Bool :=
  match convoy.head?.bind (fun f => vInfo f.instr), vInfo e.instr with
  | some f, some i =>
    let ms := convoy.filterMap (fun m => vInfo m.instr)
    let written := ms.flatMap (·.writes)
    convoy.length < 4 && f.kindA && i.kindA && !e.split && i.chained.any (written.contains ·) &&
      (match tileColumn e.instr with
       | some b => !written.contains b
       | none => true) &&
      i.writes.all (fun w => ms.all (fun m => m.rep ≠ some w))
  | _, _ => false

/-- The convoy at the head of a queue, given the members already taken. -/
def takeConvoy (taken : List QEntry) : List QEntry → List QEntry
  | [] => taken
  | e :: es => if joins taken e then takeConvoy (taken ++ [e]) es else taken

/-- The convoy at the head of a queue (R111). -/
def headConvoy : List QEntry → List QEntry
  | [] => []
  | e :: es => takeConvoy [e] es

/-- Does a queued instruction write a g register (R79)? -/
def QEntry.writesG (e : QEntry) : Bool := ((vInfo e.instr).bind (·.greg)).isSome

/-- Does a queue hold an instruction that writes a g register (R79)? -/
def writesG (q : List QEntry) : Bool := q.any QEntry.writesG

/-- Does an instruction of the queue access memory (R153)? -/
def memoryOp : Instr → Bool
  | .vld .. => true
  | .vlds .. => true
  | .vldx .. => true
  | .vldf .. => true
  | .vst .. => true
  | .vsts .. => true
  | .vstx .. => true
  | .vscadd .. => true
  | .vmerget .. => true
  | .vpld .. => true
  | .vpst .. => true
  | .vxpand .. => true
  | .vbind .. => true
  | .vunbind .. => true
  | .mtst .. => true
  | .mtld .. => true
  | .cpyg .. => true
  | .vsample .. => true
  | .vpen .. => true
  | .gmask .. => true
  | .vhlook .. => true
  | _ => false

/-- Is an instruction a break (R180)? -/
def isBreak : Instr → Bool
  | .pexitb _ _ => true
  | .pexita _ _ => true
  | _ => false

end Sys2Proof.Machine
end

