-- ==== Sys2Proof/Machine/Held.lean ====
section
/-! DEFINITION. The held-effects buffer: entering it (R35, R185), what the hart's own loads see through it (R153), and
performing its entries (R172, R222, R226, R227, R341). -/

namespace Sys2Proof.Machine

/-- Bytes of a size code (R328). -/
def sizeBytes (size : Nat) : Nat :=
  match size with
  | 0 => 1
  | 5 => 384
  | n => 2 ^ (n - 1)

/-- The size code of an element width code (R26, R328). -/
def sizeOfEw (ew : Nat) : Nat := ew

/-- One addition at the memory port (R226, R227). -/
def portAdd (flt : Bool) (ew fmt bytes : Nat) (old add : Nat) : Nat :=
  if flt then
    let f := fmtFor ew fmt
    (roundPair f .rne (addVal .rne (decodeF f old) (decodeF f add))).1
  else (old + add) % 2 ^ (8 * bytes)

/-- The bytes that an entry leaves where it found `old`. -/
def Held.result (e : Held) (old : List Byte) : List Byte :=
  match e.kind with
  | .store =>
    if e.size = 0 then
      let o := leNat old
      let x := leNat e.bytes % 16
      [BitVec.ofNat 8 (if e.high then o % 16 + 16 * x else (o / 16) * 16 + x)]
    else e.bytes
  | .addInt => leBytes old.length (portAdd false e.ew.toNat e.fmt.toNat old.length (leNat old) (leNat e.bytes))
  | .addFlt => leBytes old.length (portAdd true e.ew.toNat e.fmt.toNat old.length (leNat old) (leNat e.bytes))
  | .mergeInt =>
    leBytes old.length (e.addends.foldl (fun acc a => portAdd false e.ew.toNat e.fmt.toNat old.length acc a.toNat)
      (leNat old))
  | .mergeFlt =>
    leBytes old.length (e.addends.foldl (fun acc a => portAdd true e.ew.toNat e.fmt.toNat old.length acc a.toNat)
      (leNat old))

/-- Bytes of a list of pieces. -/
def readPieces (m : List Host.Cell) (ps : List (Nat × Nat)) : List Byte := ps.flatMap (fun p => Memory.reads m p.1 p.2)

/-- Bytes written over a list of pieces. -/
def writePieces (m : List Host.Cell) : List (Nat × Nat) → List Byte → List Host.Cell
  | [], _ => m
  | (a, n) :: ps, bs => writePieces (Memory.writes m a (bs.take n)) ps (bs.drop n)

/-- Every entry of a hart, in buffer order. -/
def Hart.entries (h : Hart) : List Held := h.held ++ h.waiting

/-- A hart with only those held entries whose instructions are older than one (R153, R315). -/
def Hart.upTo (h : Hart) (seq : Nat) : Hart :=
  if h.entries.all (fun e => e.seq < seq) then h
  else { h with held := h.held.filter (fun e => e.seq < seq), waiting := h.waiting.filter (fun e => e.seq < seq) }

/-- Memory as a hart's own loads see it: as if every held entry were performed in buffer order (R153). -/
def State.view (s : State) (h : Hart) : List Host.Cell :=
  h.entries.foldl (fun m e => writePieces m e.locs (e.result (readPieces m e.locs))) s.mem

/-- Does a held store give the bits that a load takes from a location: the byte, or one nibble of it? -/
def Held.gives (e : Held) (loc : Nat) (high : Bool) : Bool :=
  e.kind = .store && (e.size ≠ 0 || e.high = high) && e.locs.any (fun p => p.1 ≤ loc && loc < p.1 + p.2)

/-- Does a load take its bits at a location from held stores (R427)? A byte held as two nibbles counts; `half` is the
nibble that a 4-bit load reads. -/
def Hart.covers (h : Hart) (half : Option Bool) (loc : Nat) : Bool :=
  match half with
  | some high => h.entries.any (fun e => e.gives loc high)
  | none => h.entries.any (fun e => e.gives loc false) && h.entries.any (fun e => e.gives loc true)

/-- Does a read of a location by a hart find damaged data (R427)? -/
def State.readsDamaged (s : State) (h : Hart) (half : Option Bool) (loc : Nat) : Bool :=
  s.damagedAt loc && !h.covers half loc

/-- Bytes that an access of a hart delivers: zero for damaged bytes (R428), with whether any was damaged. -/
def State.deliver (s : State) (h : Hart) (view : List Host.Cell) (loc n : Nat) (half : Option Bool := none) :
    List Byte × Bool :=
  if s.poison.isEmpty && s.transit.isEmpty then (Memory.reads view loc n, false)
  else
    ((List.range n).map (fun i => if s.readsDamaged h half (loc + i) then 0 else Memory.read view (loc + i)),
     (List.range n).any (fun i => s.readsDamaged h half (loc + i)))

/-- Is a place in program order and element order before another? -/
def placeBefore (a b : Nat × Nat) : Bool := a.1 < b.1 || (a.1 = b.1 && a.2 < b.2)

/-- The strip has consumed poison at an address, by the access at a place: PADDR keeps the oldest in program order, then
in element order (R428, R429). -/
def Hart.consume (h : Hart) (at' : Nat × Nat) (va : Word) : Hart :=
  if bit h.paddr 63 && !placeBefore at' h.paddrPlace then { h with poisoned := true }
  else { h with poisoned := true, paddrPlace := at', paddr := 0x8000000000000000 ||| (va &&& 0xFFFFFFFFFFFF) }

/-- The place of an access of a scalar instruction: behind every instruction issued before it. -/
def Hart.scalarPlace (h : Hart) : Nat × Nat := (h.nextSeq, 0)

/-- The effective capacity of the buffer for a HEBLIM value (R35). -/
def hebCapacity (heblim : Word) : Nat :=
  let l := fld heblim 0 16
  if l = 0 || Config.hebCap ≤ l then Config.hebCap else l

/-- An entry takes its place: after the entries that are not younger in program order, then element (R315). -/
def insertHeld (e : Held) : List Held → List Held
  | [] => [e]
  | x :: xs =>
    if e.seq < x.seq || (e.seq = x.seq && e.elem < x.elem) then e :: x :: xs else x :: insertHeld e xs

/-- What the second translation of an entry comes to (R341): its end, the pieces, and the offset it came to. -/
structure Retranslated where
  fin : Xlate
  pieces : List (Nat × Nat)
  off : Nat
  deriving DecidableEq, Repr

/-- The pieces of an entry translated again when it is performed, up to the first that cannot be (R341). -/
def State.retranslate (s : State) (h : Nat) (e : Held) : Retranslated :=
  let x := s.hartAt h
  let who : Who := if e.vector then .vector else .scalar
  e.locs.foldl (fun (r : Retranslated) p =>
    match r.fin with
    | .at _ _ =>
      match s.translate (coreOf h) (s.rootOf x) false who .store (BitVec.ofNat 64 (e.va + r.off)) with
      | .at loc d => { fin := .at loc d, pieces := r.pieces ++ [(loc, p.2)], off := r.off + p.2 }
      | y => { r with fin := y }
    | _ => r) { fin := .at 0 false, pieces := [], off := 0 }

/-- An entry is performed at its pieces, as one step: an add over damaged bytes leaves its granules marked (R426). -/
def State.performAt (s : State) (e : Held) (ps : List (Nat × Nat)) : State :=
  let old := readPieces s.mem ps
  let damaged := e.kind ≠ .store && ps.any (fun p => (List.range p.2).any (fun i => s.damagedAt (p.1 + i)))
  let s' := (ps.foldl (fun (r : State × List Byte) p => (r.1.writeMem p.1 (r.2.take p.2), r.2.drop p.2))
    (s, e.result old)).1
  if damaged then
    ps.foldl (fun s p => (List.range p.2).foldl (fun s i => s.markPoison (p.1 + i)) (s.spendTransit p.1 p.2)) s'
  else s'

/-- The bytes that performing an entry moved (R458): an add reads them too. -/
def State.movedBy (s : State) (h : Nat) (e : Held) (ps : List (Nat × Nat)) : State :=
  ps.foldl (fun s p => s.moves h p.1 (if e.kind = .store then p.2 else 2 * p.2)) s

/-- One entry of hart h is performed, or its launch is killed because its mapping is gone (R341, R381, R467). The flag
says that the hart still runs. -/
def State.perform (s : State) (h : Nat) (e : Held) : State × Bool :=
  let r := s.retranslate h e
  match r.fin with
  | .at _ _ => ((s.performAt e r.pieces).movedBy h e r.pieces, true)
  | .fault _ => (s.killHart h 3 (BitVec.ofNat 64 e.va), false)
  | .damaged => (s.killHart h 1 (BitVec.ofNat 64 (e.va + r.off)), false)

/-- Do two entries touch a common byte? -/
def Held.collides (a b : Held) : Bool := a.locs.any (fun p => b.locs.any (fun q => meets p.1 p.2 q.1 q.2))

/-- The entry that is performed next, with the rest: the first, or, among floating adds of one instruction that collide
with it, any (R141, R226). -/
def State.nextEntry (s : State) (e : Held) (es : List Held) : Held × List Held × State :=
  if e.kind = .addFlt then
    let rivals := es.filter (fun x => x.kind = .addFlt && x.seq = e.seq && x.collides e)
    match rivals with
    | [] => (e, es, s)
    | _ =>
      let (n, s) := s.takeFresh
      let k := Config.freeOrder n % (rivals.length + 1)
      match rivals[k]? with
      | none => (e, es, s)
      | some x => (x, e :: es.erase x, s)
  else (e, es, s)

/-- The entries of a list are performed one by one; stops when the launch is killed. -/
def State.performList : Nat → State → Nat → List Held → State × Bool
  | 0, s, _, _ => (s, true)
  | _, s, _, [] => (s, true)
  | k + 1, s, h, e :: es =>
    let (x, rest, s) := s.nextEntry e es
    match s.perform h x with
    | (s, true) => State.performList k s h rest
    | (s, false) => (s, false)

/-- Every held entry of hart h is performed (R160, R172). The flag says that the hart still runs. -/
def State.performHeld (s : State) (h : Nat) : State × Bool :=
  let es := (s.hartAt h).entries
  let s := s.modHartAt h (fun x => { x with held := [], waiting := [] })
  s.performList es.length h es

/-- Performing the held entries outside a close sets STRIP.DRAINED when there was one (R160). -/
def State.drainHeld (s : State) (h : Nat) : State × Bool :=
  if (s.hartAt h).entries.isEmpty then (s, true)
  else (s.modHartAt h (fun x => { x with drained := true })).performHeld h

/-- The oldest entry drains early (R185). -/
def State.earlyDrain (s : State) (h : Nat) : State × Bool :=
  match (s.hartAt h).held with
  | [] => (s, true)
  | e :: es =>
    let (x, rest, s) := s.nextEntry e es
    (s.modHartAt h (fun y => { y with held := rest, drained := true })).perform h x

/-- Have the breaks older than the instruction of a held entry been resolved (R185)? What is held has been committed. -/
def Hart.settles (h : Hart) (e : Held) : Bool := h.queue.all (fun q => !isBreak q.instr || e.seq < q.seq)

/-- Is the oldest held entry drainable (R185)? -/
def Hart.drainable (h : Hart) : Bool :=
  match h.held with
  | [] => true
  | e :: _ => h.settles e

/-- The oldest entries drain early until a further entry fits the capacity, or the oldest is not drainable (R185);
`resolved` says that the breaks older than the entry to come have been resolved. -/
def State.makeRoom (resolved : Bool) : Nat → State → Nat → Nat → State × Bool
  | 0, s, _, _ => (s, true)
  | k + 1, s, h, capacity =>
    if (s.hartAt h).held.length < capacity || !(resolved || (s.hartAt h).drainable) then (s, true)
    else
      match s.earlyDrain h with
      | (s, true) => State.makeRoom resolved k s h capacity
      | (s, false) => (s, false)

/-- An entry of the sequencer of the executing hart, whose older breaks have been resolved, enters the buffer; at the
capacity the oldest entries drain first (R185). -/
def State.enterHeld (s : State) (e : Held) (capacity : Nat) : State × Bool :=
  match s.makeRoom true s.hart.held.length s.cur capacity with
  | (s, true) => (s.modHart (fun h => { h with held := insertHeld e h.held }), true)
  | (s, false) => (s, false)

/-- Can n further entries of the scalar unit enter the buffer at once: is each entry that must drain for them
drainable (R185)? -/
def Hart.hasRoom (h : Hart) (capacity n : Nat) : Bool :=
  (h.held.take (h.held.length + n - capacity)).all h.settles
    && (n ≤ capacity || h.queue.all (fun q => !isBreak q.instr))

/-- A scalar store's entry enters the buffer; over the capacity, with an oldest entry that is not drainable, it waits,
and the scalar unit with it (R152, R185). -/
def State.enterScalar (s : State) (e : Held) (capacity : Nat) : State × Bool :=
  match s.makeRoom false s.hart.held.length s.cur capacity with
  | (s, false) => (s, false)
  | (s, true) =>
    if s.hart.held.length < capacity then (s.modHart (fun h => { h with held := insertHeld e h.held }), true)
    else (s.modHart (fun h => { h with waiting := h.waiting ++ [{ e with room := capacity }] }), true)

/-- The store whose entry waits has not happened yet when its hart stops: the scalar unit is back at it (R192, R312). -/
def Hart.unstall (h : Hart) : Hart :=
  if h.waiting.isEmpty then h else { h with waiting := [], pc := h.pc - 4 }

/-- RESOLVED says whether the queue still holds a break (R32). -/
def Hart.markResolved (h : Hart) : Hart :=
  { h with vexit := setFld h.vexit 16 1 (b2n (h.queue.all (fun q => !isBreak q.instr))) }

/-- A hart whose queue freezes, at a stop or when its context is saved (R192, R318). -/
def Hart.freeze (h : Hart) : Hart := h.unstall.markResolved

/-- A virtual address as a held entry records it: the local window by its global address (R341, R328). -/
def State.heldVa (s : State) (va : Word) : Nat :=
  let a := va.toNat
  if 0xC00000000000 ≤ a && a < 0xC00000200000 then 0xC10000000000 + coreOf s.cur * 0x200000 + (a - 0xC00000000000)
  else a

/-- Do two ranges of locations touch a common aligned 8-byte word (R355)? -/
def shareWord (a n b m : Nat) : Bool := meets (a / 8 * 8) ((a % 8 + n + 7) / 8 * 8) b m

/-- Does a held entry touch an aligned 8-byte word of a range? -/
def Held.touches (e : Held) (loc n : Nat) : Bool := e.locs.any (fun p => shareWord p.1 p.2 loc n)

/-- Must held entry a, which is older in the buffer, be performed before entry b? They touch a common word (R355), a
FENCES lies between them (R161), or they are planes of one element, or a block's pair and a plane of it (R230, R366). -/
def Held.precedes (fences : List Nat) (a b : Held) : Bool :=
  b.locs.any (fun p => a.touches p.1 p.2)
    || (a.seq = b.seq && (a.elem = b.elem || (a.block ≠ 0 && a.elem / a.block = b.elem / a.block)))
    || fences.any (fun f => a.seq < f && f ≤ b.seq)

/-- The entries of a list that touch a word of a range, with those that must be performed before one of them, and the
rest; both in buffer order. -/
def splitCovering (fences : List Nat) (loc n : Nat) : List Held → List Held × List Held
  | [] => ([], [])
  | e :: es =>
    let r := splitCovering fences loc n es
    if e.touches loc n || r.1.any (fun x => e.precedes fences x) then (e :: r.1, r.2) else (r.1, e :: r.2)

/-- The held entries that touch a word of a range are performed first, for a supervisor store or atomic (R316, R355) and
for KREL (R274), with those that are ordered before them (log 78). The others stay held. -/
def State.performCovering (s : State) (h loc n : Nat) : State × Bool :=
  let (first, rest) := splitCovering (s.hartAt h).fences loc n (s.hartAt h).entries
  if first.isEmpty then (s, true)
  else (s.modHartAt h (fun x => { x with held := rest, waiting := [], drained := true })).performList first.length h first

/-- A FENCES takes its place among the stores of the strip (R161); with nothing held or queued before it, none. -/
def Hart.fence (h : Hart) : Hart :=
  if h.entries.isEmpty && h.queue.isEmpty then { h with fences := [] } else { h with fences := h.nextSeq :: h.fences }

end Sys2Proof.Machine
end

