-- ==== Sys2Proof/Machine/Image.lean ====
section
/-! DEFINITION. What a hart shows of itself: the values of its control registers (R23), and the bytes of its context image
(R324 to R328), which CTXSAVE, a pre-emption and the debug block write. -/

namespace Sys2Proof.Machine

/-! ### The control registers -/

/-- GBAR of a gang (R40). -/
def Gang.gbar (g : Gang) : Word :=
  BitVec.ofNat 64 (g.phase.toNat * 65536 + g.arrived.toNat * 256 + g.ranks.length % 32)

/-- HMODE (R39). -/
def Hart.hmode (h : Hart) : Word := BitVec.ofNat 64 (b2n h.sup + 2 * b2n h.psup + 4 * b2n h.mirror + 8 * b2n h.miract)

/-- STRIP (R41). -/
def Hart.strip (h : Hart) : Word :=
  BitVec.ofNat 64 (h.stripNo.toNat + 2 ^ 48 * b2n h.stripK + 2 ^ 49 * b2n h.drained + 2 ^ 50 * b2n h.poisoned)

/-- GANGID (R42). -/
def Hart.gangid (h : Hart) : Word :=
  match h.place with
  | none => 0
  | some p => BitVec.ofNat 64 (p.rank + p.gang * 256 + p.serial.toNat * 2 ^ 32)

/-- The value of register n of hart k, whose state is h (R23). -/
def State.crValue (s : State) (k : Nat) (h : Hart) (n : Nat) : Word :=
  match n with
  | 0x000 => h.vcfg
  | 0x001 => h.vmsk
  | 0x002 => h.vstr
  | 0x003 => h.vpstr
  | 0x004 => h.vresume
  | 0x005 => h.vexit
  | 0x006 => h.vftrim
  | 0x007 => h.sckm
  | 0x008 => h.heblim
  | 0x009 => BitVec.ofNat 64 Config.hebCap
  | 0x00A => BitVec.ofNat 64 h.tiles.length
  | 0x00B => h.mscale
  | 0x00C => h.fpmode
  | 0x00D => h.fpflags
  | 0x00E => BitVec.ofNat 64 h.vlmaxr
  | 0x00F => h.retiredLanes.setWidth 64
  | 0x010 => BitVec.ofNat 64 (s.lgrant k)
  | 0x011 => h.hmode
  | 0x012 => ((s.gangOf h).map Gang.gbar).getD 0
  | 0x013 => ((s.gangOf h).map (·.ggrant)).getD 0
  | 0x014 => h.strip
  | 0x015 => h.paddr
  | 0x016 => if h.ckpt.isSome then h.kvcfg else 0
  | 0x018 => BitVec.ofNat 64 k
  | 0x019 => h.gangid
  | 0x01A => s.tsc
  | 0x020 => h.lcuse
  | 0x021 => h.lcmask
  | 0x022 => h.lctail
  | 0x023 => h.lcstart
  | 0x024 => h.lcstall
  | 0x025 => BitVec.ofNat 64 (h.charge / 1000)
  | 0x040 => h.trapcause
  | 0x041 => h.trappc
  | 0x042 => h.trapmem
  | 0x043 => h.trapelem
  | 0x044 => h.trapval
  | 0x045 => h.trapspc
  | 0x046 => h.trapvec
  | 0x047 => h.sscratch
  | _ => 0

/-! ### Writing an image -/

/-- Bytes extended with zeros to a length. -/
def padTo (n : Nat) (bs : List Byte) : List Byte := bs ++ List.replicate (n - bs.length) 0

/-- A word as eight bytes. -/
def dword (w : Word) : List Byte := leBytes 8 w.toNat

/-- The watch table (R326). -/
def watchBytes (w : Vector Watch 4) : List Byte :=
  w.toList.flatMap (fun e => padTo 16 (dword (setFld (e.addr &&& 0xFFFFFFFFFFFC) 0 1 (b2n e.en)) ++ leBytes 2 e.elem))

/-- The stream bindings (R326). -/
def bindBytes (bs : List Binding) : List Byte :=
  padTo 64 ((bs.take 4).flatMap (fun b => padTo 16 (dword b.record ++ leBytes 1 b.reg)))

/-- The control register region (R324). -/
def State.crBytes (s : State) (k : Nat) (h : Hart) : List Byte :=
  (List.range 0x48).flatMap (fun n => dword (s.crValue k h n))

/-- The checkpoint record (R326). -/
def ckptBytes : Option Checkpoint → List Byte
  | none => List.replicate 128 0
  | some c => padTo 128 (dword c.resume ++ dword c.sckm ++ padTo 16 ((c.used.take 4).flatMap (leBytes 4))
      ++ padTo 64 ((c.gs.take 8).flatMap dword))

/-- The checkpointed vector registers (R324). -/
def ckptVectors : Option Checkpoint → List Byte
  | none => List.replicate 4096 0
  | some c => leBytes 2048 c.va.toNat ++ leBytes 2048 c.vb.toNat

/-- Captured values (R327). -/
def capBytes (c : Captured) : List Byte :=
  dword c.vcfg ++ dword c.vmsk ++ dword c.vstr ++ dword c.vpstr ++ dword c.fpmode ++ dword c.mscale ++ dword c.sckm
    ++ dword c.heblim ++ leBytes 8 (b2n c.mirror)

/-- A queue entry (R327). -/
def queueBytes (e : QEntry) : List Byte :=
  padTo 128 (leBytes 4 (wordOf e.instr).toNat ++ leBytes 4 (b2n e.consumed) ++ dword e.addr ++ dword e.opa
    ++ dword e.opb ++ capBytes e.cap)

/-- The code of a kind of held entry (R328). -/
def kindCode : HeldKind → Nat
  | .store => 0
  | .addInt => 1
  | .addFlt => 2
  | .mergeInt => 3
  | .mergeFlt => 4

/-- The extended data of a held entry (R328). -/
def Held.ext (e : Held) : List Byte :=
  match e.kind with
  | .mergeInt => leBytes 8 e.addends.length ++ e.addends.flatMap dword
  | .mergeFlt => leBytes 8 e.addends.length ++ e.addends.flatMap dword
  | _ => if e.size = 5 then e.bytes else []

/-- Is a kind a floating one? -/
def HeldKind.floating : HeldKind → Bool
  | .addFlt => true
  | .mergeFlt => true
  | _ => false

/-- A held entry, with the offset of its extended data (R328). -/
def Held.image (e : Held) (off : Nat) : List Byte :=
  let f := e.kind.floating
  let tag := e.va % 2 ^ 48 + e.size * 2 ^ 48 + b2n (e.size = 0 && e.high) * 2 ^ 52 + kindCode e.kind * 2 ^ 53
    + (if f then e.ew.toNat * 2 ^ 56 + e.fmt.toNat * 2 ^ 59 else 0) + e.scope.toNat * 2 ^ 61
  leBytes 8 tag ++ (if e.ext.isEmpty then padTo 8 (e.bytes.take 8) else leBytes 8 off)

/-- The held-effects buffer and its extended data. -/
def heldBytes : List Held → Nat → List Byte × List Byte
  | [], _ => ([], [])
  | e :: es, off =>
    let r := heldBytes es (off + e.ext.length)
    (e.image off ++ r.1, e.ext ++ r.2)

/-- A tile in row-major order (R254, R324). -/
def tileBytes (t : Tile) : List Byte := leBytes 49152 t.toNat

/-- SIZE of an image (R324). -/
def imageSize (ntiles nktiles xlen : Nat) : Nat :=
  if 0 < xlen then 0x8F000 + xlen
  else if 0 < nktiles then 0x5F000 + 49152 * nktiles
  else 0x2F000 + 49152 * ntiles

/-- The header (R325). -/
def headerBytes (h : Hart) (nk size xlen : Nat) (magic : Bool) : List Byte :=
  padTo 64 ((if magic then leBytes 4 0x58435842 else leBytes 4 0) ++ leBytes 2 1 ++ leBytes 2 (b2n h.ckpt.isSome)
    ++ leBytes 4 size ++ leBytes 1 h.tiles.length ++ leBytes 1 nk ++ leBytes 1 h.queue.length ++ [0]
    ++ leBytes 2 h.entries.length ++ [0, 0] ++ leBytes 4 xlen ++ dword h.gangid)

/-- A pre-emption as a stop record has it: KIND 2 at the commit front or 3 at a strip boundary, and the address at which
the scalar unit goes on (R326, R389). -/
structure Preempted where
  kind : Nat
  resume : Word
  deriving DecidableEq, Repr

/-- The stop record of a hart that a trap, a debug halt or nothing stopped, or that is pre-empted (R326). -/
def stopBytes (h : Hart) (by' : Option Preempted) : List Byte :=
  let place := match h.stopped with
    | none => leBytes 3 0
    | some x => leBytes 1 x.member ++ leBytes 2 x.front
  match by' with
  | some p => padTo 64 (padTo 8 (leBytes 1 p.kind ++ place) ++ dword p.resume)
  | none => padTo 64 (leBytes 1 (b2n h.stopped.isSome) ++ place)

/-- The context image of hart k, whose state is h (R324); the magic number is written last. -/
def State.image (s : State) (k : Nat) (h : Hart) (magic : Bool) (by' : Option Preempted := none) : List Byte :=
  let (held, ext) := heldBytes h.entries 0
  let kt := (h.ckpt.map (·.tiles)).getD []
  let size := imageSize h.tiles.length kt.length ext.length
  let low := headerBytes h kt.length size ext.length magic ++ stopBytes h by' ++ bindBytes h.binds ++ watchBytes h.watch
    ++ ((List.range 32).flatMap (fun i => dword (h.gget i))) ++ s.crBytes k h ++ ckptBytes h.ckpt
  let mid := padTo 4096 ((h.queue.take 32).flatMap queueBytes)
    ++ ((List.range 32).flatMap (fun i => leBytes 512 (h.pget i).toNat))
    ++ ((List.range 48).flatMap (fun i => leBytes 2048 (h.vget i).toNat))
    ++ ckptVectors h.ckpt
    ++ padTo 65536 held
  let img := padTo 0x2F000 (padTo 0x1000 low ++ mid) ++ h.tiles.flatMap tileBytes
  let img := if 0x5F000 < size then padTo 0x5F000 img ++ kt.flatMap tileBytes else img
  if 0x8F000 < size then padTo 0x8F000 img ++ ext else img

/-- The scalar resumption address of an image's stop record (R326). -/
def resumeOf (image : List Byte) : Word := BitVec.ofNat 64 (leNat ((image.drop 0x48).take 8))

end Sys2Proof.Machine
end

