-- ==== Sys2Proof/Machine/Fetch.lean ====
section
/-! DEFINITION. Fetching the word at an address (R78, R158, R337, R426, R467). -/

namespace Sys2Proof.Machine

/-- What a fetch finds: a word, a trap cause, a poisoned granule, or a table entry that cannot be read. -/
inductive Fetch where
  | word (w : IWord)
  | fault (cause : Nat)
  | poisoned
  | damaged
  deriving DecidableEq, Repr

/-- The word whose four bytes lie at a location, least significant first (R5). -/
def State.wordAt (s : State) (loc : Nat) : IWord := BitVec.ofNat 32 (leNat (s.readMem loc 4))

/-- The fetch of the word at an address by the executing hart. -/
def State.fetch (s : State) (va : Word) : Fetch :=
  match s.xlate .scalar .fetch va with
  | .at loc _ => if (List.range 4).any (fun i => s.damagedAt (loc + i)) then .poisoned else .word (s.wordAt loc)
  | .fault c => .fault c
  | .damaged => .damaged

/-- The instruction at an address; none where the fetch fails or the word is ILLEGAL. -/
def State.peek (s : State) (va : Word) : Option Instr :=
  match s.fetch va with
  | .word w => decode w
  | _ => none

end Sys2Proof.Machine
end

