-- ==== Sys2Proof/Machine/Predicates.lean ====
section
/-! DEFINITION. Class 10 as members of a convoy: predicate logic, breaks, counts, compares (R177 to R181). -/

namespace Sys2Proof.Machine

/-- Bit i of a predicate. -/
def pbit (p : PReg) (i : Nat) : Bool := p.getLsbD i

/-- An ungoverned predicate operation: bit i of pd for each covered bit below the bound (R177, R178). -/
def predMember (c : Ctx) (s : State) (d a b : BitVec 5) (f : Nat → Bool → Bool → Bool) : MRes :=
  let h := s.hart
  let pa := h.pget a.toNat
  let pb := h.pget b.toNat
  .ok (s.modHart (fun h => h.pset d.toNat (c.mapBits (h.pget d.toNat) (fun i => i < c.u)
    (fun i => f i (pbit pa i) (pbit pb i)))))

/-- PAND. -/
def pandMember (c : Ctx) (s : State) (d a b : BitVec 5) : MRes := predMember c s d a b (fun _ x y => x && y)

/-- POR. -/
def porMember (c : Ctx) (s : State) (d a b : BitVec 5) : MRes := predMember c s d a b (fun _ x y => x || y)

/-- PXOR. -/
def pxorMember (c : Ctx) (s : State) (d a b : BitVec 5) : MRes := predMember c s d a b (fun _ x y => x != y)

/-- PANDN. -/
def pandnMember (c : Ctx) (s : State) (d a b : BitVec 5) : MRes := predMember c s d a b (fun _ x y => x && !y)

/-- PSET. -/
def psetMember (c : Ctx) (s : State) (d : BitVec 5) : MRes := predMember c s d 0 0 (fun _ _ _ => true)

/-- PCLR. -/
def pclrMember (c : Ctx) (s : State) (d : BitVec 5) : MRes := predMember c s d 0 0 (fun _ _ _ => false)

/-- PMOV. -/
def pmovMember (c : Ctx) (s : State) (d a : BitVec 5) : MRes := predMember c s d a 0 (fun _ x _ => x)

/-- PIDX: 1 for i < ga. -/
def pidxMember (c : Ctx) (s : State) (d : BitVec 5) : MRes :=
  predMember c s d 0 0 (fun i _ _ => i < c.q.opa.toNat)

/-- Elements below VL, active and not annulled, where a predicate holds 1, rising. -/
def Ctx.selected (c : Ctx) (p : PReg) : List Nat := (List.range c.vl).filter (fun i => c.on i && pbit p i)

/-- The break at place `seq` is resolved: the last one of the queue sets RESOLVED (R32). -/
def Hart.breakDone (h : Hart) (seq : Nat) : Hart :=
  if h.queue.all (fun q => !isBreak q.instr || q.seq = seq) then { h with vexit := setFld h.vexit 16 1 1 } else h

/-- A break with its exit index: PEXITB exits before the first true element, PEXITA after it (R180, R181). -/
def breakMember (c : Ctx) (s : State) (d a : BitVec 5) (past : Nat) : MRes :=
  let first := (c.selected (s.hart.pget a.toNat)).head?
  let x := match first with
    | some f => f + past
    | none => c.u
  .ok (s.modHart (fun h =>
    let h := h.pset d.toNat (BitVec.ofNat 4096 (2 ^ min x c.vl - 1))
    let h := { h with bound := some (match h.bound with
      | some b => min b x
      | none => x) }
    let h := match first with
      | some _ => { h with vexit := setFld (setFld h.vexit 0 13 (min (fld h.vexit 0 13) x)) 17 1 1 }
      | none => h
    h.breakDone c.q.seq))

/-- PEXITB (R180). -/
def pexitbMember (c : Ctx) (s : State) (d a : BitVec 5) : MRes := breakMember c s d a 0

/-- PEXITA (R180). -/
def pexitaMember (c : Ctx) (s : State) (d a : BitVec 5) : MRes := breakMember c s d a 1

/-- PFIRST (R178). -/
def pfirstMember (c : Ctx) (s : State) (g a : BitVec 5) : MRes :=
  .ok (s.gset g.toNat (BitVec.ofNat 64 (((c.selected (s.hart.pget a.toNat)).head?).getD c.u)))

/-- PCNT (R178). -/
def pcntMember (c : Ctx) (s : State) (g a : BitVec 5) : MRes :=
  .ok (s.gset g.toNat (BitVec.ofNat 64 (c.selected (s.hart.pget a.toNat)).length))

/-- A compare: bit i of pd, with flags for the written elements (R179). -/
def cmpMember (c : Ctx) (s : State) (d : BitVec 5) (a b : BitVec 6) (r : BitVec 3) (f : Nat → Nat → Bool)
    (fl : Nat → Nat → Nat) : MRes :=
  let h := s.hart
  let va := h.vget a.toNat
  let vb := h.vget b.toNat
  let x := fun i => elemOf va c.bits i
  let y := fun i => elemOf vb c.bits (repIndex r i)
  let s := s.modHart (fun h => h.pset d.toNat (c.mapBits (h.pget d.toNat) c.on (fun i => f (x i) (y i))))
  .ok (s.addFlags (c.elems.foldl (fun acc i => if c.on i then acc ||| fl (x i) (y i) else acc) 0))

/-- An integer compare. -/
def icmpMember (c : Ctx) (s : State) (d : BitVec 5) (a b : BitVec 6) (r : BitVec 3) (f : Nat → Nat → Bool) : MRes :=
  cmpMember c s d a b r f (fun _ _ => 0)

/-- vcmp.eq. -/
def vcmpEqMember (c : Ctx) (s : State) (d : BitVec 5) (a b : BitVec 6) (r : BitVec 3) : MRes :=
  icmpMember c s d a b r (fun x y => x == y)

/-- vcmp.ne. -/
def vcmpNeMember (c : Ctx) (s : State) (d : BitVec 5) (a b : BitVec 6) (r : BitVec 3) : MRes :=
  icmpMember c s d a b r (fun x y => x != y)

/-- vcmp.lt, signed. -/
def vcmpLtMember (c : Ctx) (s : State) (d : BitVec 5) (a b : BitVec 6) (r : BitVec 3) : MRes :=
  icmpMember c s d a b r (fun x y => toSigned c.bits x < toSigned c.bits y)

/-- vcmp.le, signed. -/
def vcmpLeMember (c : Ctx) (s : State) (d : BitVec 5) (a b : BitVec 6) (r : BitVec 3) : MRes :=
  icmpMember c s d a b r (fun x y => toSigned c.bits x ≤ toSigned c.bits y)

/-- vcmp.ltz, unsigned. -/
def vcmpLtzMember (c : Ctx) (s : State) (d : BitVec 5) (a b : BitVec 6) (r : BitVec 3) : MRes :=
  icmpMember c s d a b r (fun x y => x < y)

/-- vcmp.lez, unsigned. -/
def vcmpLezMember (c : Ctx) (s : State) (d : BitVec 5) (a b : BitVec 6) (r : BitVec 3) : MRes :=
  icmpMember c s d a b r (fun x y => x ≤ y)

/-- A floating compare on decoded values; `signals` is NV for a NaN operand (R179). -/
def fcmpMember (c : Ctx) (s : State) (d : BitVec 5) (a b : BitVec 6) (r : BitVec 3) (f : Val → Val → Bool)
    (signals : Bool) : MRes :=
  let v := fun x => decodeF (fmtFor c.ew c.fmt) x
  cmpMember c s d a b r (fun x y => f (v x) (v y))
    (fun x y => if signals && (isNan (v x) || isNan (v y)) then flagNV else 0)

/-- vfcmp.eq. -/
def vfcmpEqMember (c : Ctx) (s : State) (d : BitVec 5) (a b : BitVec 6) (r : BitVec 3) : MRes :=
  fcmpMember c s d a b r eqVal false

/-- vfcmp.ne. -/
def vfcmpNeMember (c : Ctx) (s : State) (d : BitVec 5) (a b : BitVec 6) (r : BitVec 3) : MRes :=
  fcmpMember c s d a b r (fun x y => !eqVal x y) false

/-- vfcmp.lt. -/
def vfcmpLtMember (c : Ctx) (s : State) (d : BitVec 5) (a b : BitVec 6) (r : BitVec 3) : MRes :=
  fcmpMember c s d a b r ltVal true

/-- vfcmp.le. -/
def vfcmpLeMember (c : Ctx) (s : State) (d : BitVec 5) (a b : BitVec 6) (r : BitVec 3) : MRes :=
  fcmpMember c s d a b r (fun x y => ltVal x y || eqVal x y) true

/-- vfcmp.un. -/
def vfcmpUnMember (c : Ctx) (s : State) (d : BitVec 5) (a b : BitVec 6) (r : BitVec 3) : MRes :=
  fcmpMember c s d a b r (fun x y => isNan x || isNan y) false

end Sys2Proof.Machine
end

