-- ==== Sys2Proof/Machine/VecArith.lean ====
section
/-! DEFINITION. Classes 8 and 9 as members of a convoy: vector integer and vector floating arithmetic, and the
conversions (R195 to R208). -/

namespace Sys2Proof.Machine

/-! ### Integer operations on w-bit elements (R200) -/

/-- The shift count of R200: the log2(w) low bits of b. -/
def shCount (w b : Nat) : Nat := b % w

/-- The high half of a product of two integers (R200). -/
def highHalf (w : Nat) (x : Int) : Nat := wrapInt w (x / (2 ^ w : Nat))

/-- The lesser of two integers as w bits. -/
def minInt (w : Nat) (x y : Int) : Nat := wrapInt w (if y < x then y else x)

/-- The greater of two integers as w bits. -/
def maxInt (w : Nat) (x y : Int) : Nat := wrapInt w (if x < y then y else x)

/-- Element operation of class 8: no flag, at EW (R196, R200). -/
def intMember (c : Ctx) (s : State) (d a b : BitVec 6) (r : BitVec 3) (f : Nat → Nat → Nat → Nat) : MRes :=
  elemMember c s d a b r c.bits (fun x y z => (f x y z, 0))

/-- VADD. -/
def vaddMember (c : Ctx) (s : State) (d a b : BitVec 6) (r : BitVec 3) : MRes :=
  intMember c s d a b r (fun x y _ => (x + y) % 2 ^ c.bits)

/-- VSUB. -/
def vsubMember (c : Ctx) (s : State) (d a b : BitVec 6) (r : BitVec 3) : MRes :=
  intMember c s d a b r (fun x y _ => (x + 2 ^ c.bits - y) % 2 ^ c.bits)

/-- VMUL. -/
def vmulMember (c : Ctx) (s : State) (d a b : BitVec 6) (r : BitVec 3) : MRes :=
  intMember c s d a b r (fun x y _ => (x * y) % 2 ^ c.bits)

/-- VMULH. -/
def vmulhMember (c : Ctx) (s : State) (d a b : BitVec 6) (r : BitVec 3) : MRes :=
  intMember c s d a b r (fun x y _ => highHalf c.bits (toSigned c.bits x * toSigned c.bits y))

/-- VMULHZ. -/
def vmulhzMember (c : Ctx) (s : State) (d a b : BitVec 6) (r : BitVec 3) : MRes :=
  intMember c s d a b r (fun x y _ => (x * y) / 2 ^ c.bits)

/-- VMADD. -/
def vmaddMember (c : Ctx) (s : State) (d a b : BitVec 6) (r : BitVec 3) : MRes :=
  intMember c s d a b r (fun x y z => (z + x * y) % 2 ^ c.bits)

/-- VMSUB. -/
def vmsubMember (c : Ctx) (s : State) (d a b : BitVec 6) (r : BitVec 3) : MRes :=
  intMember c s d a b r (fun x y z => wrapInt c.bits ((z : Int) - x * y))

/-- VAND. -/
def vandMember (c : Ctx) (s : State) (d a b : BitVec 6) (r : BitVec 3) : MRes :=
  intMember c s d a b r (fun x y _ => x &&& y)

/-- VOR. -/
def vorMember (c : Ctx) (s : State) (d a b : BitVec 6) (r : BitVec 3) : MRes :=
  intMember c s d a b r (fun x y _ => x ||| y)

/-- VXOR. -/
def vxorMember (c : Ctx) (s : State) (d a b : BitVec 6) (r : BitVec 3) : MRes :=
  intMember c s d a b r (fun x y _ => x ^^^ y)

/-- VSLL. -/
def vsllMember (c : Ctx) (s : State) (d a b : BitVec 6) (r : BitVec 3) : MRes :=
  intMember c s d a b r (fun x y _ => (x <<< shCount c.bits y) % 2 ^ c.bits)

/-- VSRL. -/
def vsrlMember (c : Ctx) (s : State) (d a b : BitVec 6) (r : BitVec 3) : MRes :=
  intMember c s d a b r (fun x y _ => x >>> shCount c.bits y)

/-- VSRA. -/
def vsraMember (c : Ctx) (s : State) (d a b : BitVec 6) (r : BitVec 3) : MRes :=
  intMember c s d a b r (fun x y _ => wrapInt c.bits (toSigned c.bits x / (2 ^ shCount c.bits y : Nat)))

/-- VMIN. -/
def vminMember (c : Ctx) (s : State) (d a b : BitVec 6) (r : BitVec 3) : MRes :=
  intMember c s d a b r (fun x y _ => minInt c.bits (toSigned c.bits x) (toSigned c.bits y))

/-- VMAX. -/
def vmaxMember (c : Ctx) (s : State) (d a b : BitVec 6) (r : BitVec 3) : MRes :=
  intMember c s d a b r (fun x y _ => maxInt c.bits (toSigned c.bits x) (toSigned c.bits y))

/-- VMINZ. -/
def vminzMember (c : Ctx) (s : State) (d a b : BitVec 6) (r : BitVec 3) : MRes :=
  intMember c s d a b r (fun x y _ => minInt c.bits x y)

/-- VMAXZ. -/
def vmaxzMember (c : Ctx) (s : State) (d a b : BitVec 6) (r : BitVec 3) : MRes :=
  intMember c s d a b r (fun x y _ => maxInt c.bits x y)

/-- VSADD. -/
def vsaddMember (c : Ctx) (s : State) (d a b : BitVec 6) (r : BitVec 3) : MRes :=
  intMember c s d a b r (fun x y _ =>
    wrapInt c.bits (clampInt true c.bits (toSigned c.bits x + toSigned c.bits y)))

/-- VSSUB. -/
def vssubMember (c : Ctx) (s : State) (d a b : BitVec 6) (r : BitVec 3) : MRes :=
  intMember c s d a b r (fun x y _ =>
    wrapInt c.bits (clampInt true c.bits (toSigned c.bits x - toSigned c.bits y)))

/-- VSADDZ. -/
def vsaddzMember (c : Ctx) (s : State) (d a b : BitVec 6) (r : BitVec 3) : MRes :=
  intMember c s d a b r (fun x y _ => wrapInt c.bits (clampInt false c.bits ((x : Int) + y)))

/-- VSSUBZ. -/
def vssubzMember (c : Ctx) (s : State) (d a b : BitVec 6) (r : BitVec 3) : MRes :=
  intMember c s d a b r (fun x y _ => wrapInt c.bits (clampInt false c.bits ((x : Int) - y)))

/-- VABSD. -/
def vabsdMember (c : Ctx) (s : State) (d a b : BitVec 6) (r : BitVec 3) : MRes :=
  intMember c s d a b r (fun x y _ => (toSigned c.bits x - toSigned c.bits y).natAbs)

/-! ### Floating operations (R201 to R205) -/

/-- The format of the captured EW and FMT. -/
def Ctx.float (c : Ctx) : Fmt := fmtFor c.ew c.fmt

/-- Element operation of class 9 on decoded values, rounded once (R201). -/
def fltMember (c : Ctx) (s : State) (d a b : BitVec 6) (r : BitVec 3) (f : Val → Val → Val → Val × Nat) : MRes :=
  elemMember c s d a b r c.bits (fun x y z =>
    roundPair c.float c.rm (f (decodeF c.float x) (decodeF c.float y) (decodeF c.float z)))

/-- VFADD. -/
def vfaddMember (c : Ctx) (s : State) (d a b : BitVec 6) (r : BitVec 3) : MRes :=
  fltMember c s d a b r (fun x y _ => addVal c.rm x y)

/-- VFSUB. -/
def vfsubMember (c : Ctx) (s : State) (d a b : BitVec 6) (r : BitVec 3) : MRes :=
  fltMember c s d a b r (fun x y _ => addVal c.rm x (negVal y))

/-- VFMUL. -/
def vfmulMember (c : Ctx) (s : State) (d a b : BitVec 6) (r : BitVec 3) : MRes :=
  fltMember c s d a b r (fun x y _ => mulVal x y)

/-- VFMA. -/
def vfmaMember (c : Ctx) (s : State) (d a b : BitVec 6) (r : BitVec 3) : MRes :=
  fltMember c s d a b r (fun x y z => fmaVal c.rm x y z)

/-- VFMS. -/
def vfmsMember (c : Ctx) (s : State) (d a b : BitVec 6) (r : BitVec 3) : MRes :=
  fltMember c s d a b r (fun x y z => fmaVal c.rm x y (negVal z))

/-- VFNMA: z − x × y. -/
def vfnmaMember (c : Ctx) (s : State) (d a b : BitVec 6) (r : BitVec 3) : MRes :=
  fltMember c s d a b r (fun x y z => fmaVal c.rm (negVal x) y z)

/-- VFDIV. -/
def vfdivMember (c : Ctx) (s : State) (d a b : BitVec 6) (r : BitVec 3) : MRes :=
  fltMember c s d a b r (fun x y _ => divVal x y)

/-- VFSQRT. -/
def vfsqrtMember (c : Ctx) (s : State) (d a : BitVec 6) : MRes :=
  fltMember c s d a a 0 (fun x _ _ => sqrtVal x)

/-- VFMIN, by R147. -/
def vfminMember (c : Ctx) (s : State) (d a b : BitVec 6) (r : BitVec 3) : MRes :=
  elemMember c s d a b r c.bits (fun x y _ => (pickMinMax c.float false x y, 0))

/-- VFMAX, by R147. -/
def vfmaxMember (c : Ctx) (s : State) (d a b : BitVec 6) (r : BitVec 3) : MRes :=
  elemMember c s d a b r c.bits (fun x y _ => (pickMinMax c.float true x y, 0))

/-- VFEXP2 (R204, R205). -/
def vfexp2Member (c : Ctx) (s : State) (d a : BitVec 6) : MRes :=
  elemMember c s d a a 0 c.bits (fun x _ _ => exp2 c.float (decodeF c.float x))

/-- VFCLASS (R202). -/
def vfclassMember (c : Ctx) (s : State) (d a : BitVec 6) : MRes :=
  elemMember c s d a a 0 c.bits (fun x _ _ => (classOf c.float x, 0))

/-- VFSGNJ on codes (R203). -/
def signInject (f : Fmt) (x y : Nat) : Nat :=
  if isNan (decodeF f x) then nanOf f
  else x % 2 ^ (f.bits - 1) + (y / 2 ^ (f.bits - 1) % 2) * 2 ^ (f.bits - 1)

/-- VFSGNJ (R203). -/
def vfsgnjMember (c : Ctx) (s : State) (d a b : BitVec 6) (r : BitVec 3) : MRes :=
  elemMember c s d a b r c.bits (fun x y _ => (signInject c.float x y, 0))

/-! ### VFCVT (R206 to R208) -/

/-- Is a type code of R97 an integer type? -/
def typeIsInt (t : Nat) : Bool := 16 ≤ t

/-- Is an integer type code signed? -/
def typeSigned (t : Nat) : Bool := t % 2 = 0

/-- Bits of an integer type code. -/
def typeIntBits (t : Nat) : Nat := 8 <<< ((t - 16) / 2)

/-- The floating format of a type code. -/
def typeFmt (t : Nat) : Fmt :=
  match t with
  | 0 => e2m1
  | 1 => e4m3
  | 2 => e5m2
  | 3 => fmtM8
  | 4 => bf16
  | 5 => fp16
  | 6 => fmtM16
  | 7 => fp32
  | _ => fp64

/-- Bits of a type code (R206). -/
def typeBits (t : Nat) : Nat := if typeIsInt t then typeIntBits t else (typeFmt t).bits

/-- Is a type code of ladder M? -/
def typeLadderM (t : Nat) : Bool := t = 0 || t = 3 || t = 6

/-- The largest magnitude of a source type (R125): a ladder-M value reaches 448 × 2^127 through its special code. -/
def typeTop (t : Nat) : Val :=
  if typeIsInt t then .fin false (if typeSigned t then 2 ^ (typeIntBits t - 1) else 2 ^ typeIntBits t - 1) 0
  else if typeLadderM t then .fin false 448 127
  else decodeF (typeFmt t) (largestOf (typeFmt t))

/-- Is a conversion to a floating format narrowing (R125)? -/
def narrowing (src dst : Nat) : Bool := ltVal (decodeF (typeFmt dst) (largestOf (typeFmt dst))) (typeTop src)

/-- One element of VFCVT: code of type `src` to type `dst`, in a block with a scale pair (R207). -/
def convert (src dst : Nat) (rm : Rm) (sat : Bool) (pair x : Nat) : Nat × Nat :=
  if typeIsInt src then
    let v : Int := if typeSigned src then toSigned (typeIntBits src) x else (x : Int)
    if typeIsInt dst then
      (wrapInt (typeIntBits dst) (if sat then clampInt (typeSigned dst) (typeIntBits dst) v else v), 0)
    else if typeLadderM dst then cvtToM (typeFmt dst) rm pair (intVal v)
    else cvtToFlt (typeFmt dst) rm (sat && narrowing src dst) (intVal v)
  else
    let v := if typeLadderM src then decodeM (typeFmt src) x pair else decodeF (typeFmt src) x
    if typeIsInt dst then cvtToInt rm (typeSigned dst) (typeIntBits dst) v
    else if typeLadderM dst then cvtToM (typeFmt dst) rm pair v
    else cvtToFlt (typeFmt dst) rm (sat && narrowing src dst) v

/-- VFCVT (R206, R207). -/
def vfcvtMember (c : Ctx) (s : State) (d a : BitVec 6) (t u : BitVec 5) : MRes :=
  let h := s.hart
  let va := h.vget a.toNat
  .ok (s.putV d.toNat (c.mapElems (h.vget d.toNat) (typeBits u.toNat) (fun i =>
    convert t.toNat u.toNat c.rm c.sat (scalePair h c.q.cap.mscale false (i / c.block))
      (elemOf va (typeBits t.toNat) i))))

end Sys2Proof.Machine
end

