-- ==== Sys2Proof/Machine/VecMem.lean ====
section
/-! DEFINITION. Class 12 as members of a convoy: loads and stores, the fault-trimming load, adds at the memory port,
plane loads and stores, compressed strips (R218 to R232, R345 to R347). -/

namespace Sys2Proof.Machine

/-! ### Suppressed faults and trims -/

/-- A suppressed fault is recorded when it is the first: lowest element, then oldest instruction (R187). -/
def Hart.suppress (h : Hart) (elem cause seq : Nat) : Hart :=
  let old := fld h.vftrim 0 13
  if !bit h.vftrim 24 || elem < old || (elem = old && seq < h.ftrimPlace) then
    { h with vftrim := BitVec.ofNat 64 (elem % 8192 + cause * 65536 + 16777216), ftrimPlace := seq }
  else h

/-- The strip is trimmed at element k: VL for this entry and every younger one, VEXIT.EXIT (R189). -/
def Hart.trim (h : Hart) (k seq : Nat) : Hart :=
  { h with
    vcfg := setFld h.vcfg 0 13 k
    lastVl := k
    vexit := setFld h.vexit 0 13 (min (fld h.vexit 0 13) k)
    queue := h.queue.map (fun e =>
      if seq ≤ e.seq then { e with cap := { e.cap with vcfg := setFld e.cap.vcfg 0 13 k } } else e) }

/-- A trim's record replaces any with a higher element (R189, R236). -/
def Hart.trimRecord (h : Hart) (k cause seq : Nat) : Hart :=
  if !bit h.vftrim 24 || k < fld h.vftrim 0 13 then
    { h with vftrim := BitVec.ofNat 64 (k % 8192 + cause * 65536 + 16777216), ftrimPlace := seq }
  else h

/-! ### Element accesses -/

/-- Where an element lies: address, bytes, and for a 4-bit element its nibble. -/
structure Place4 where
  va : Word
  bytes : Nat
  nibble : Option Bool
  deriving DecidableEq, Repr

/-- Element i of width code ew at base + i × w; at 4 bits, nibble i (R224). -/
def unitPlace (base : Word) (ew i : Nat) : Place4 :=
  if ew = 0 then { va := base + BitVec.ofNat 64 (i / 2), bytes := 1, nibble := some (i % 2 = 1) }
  else { va := base + BitVec.ofNat 64 (i * 2 ^ (ew - 1)), bytes := 2 ^ (ew - 1), nibble := none }

/-- The checks of R219 and R220 for one element access. -/
def State.checkElem (s : State) (acc : Acc) (port : Bool) (p : Place4) : Xlate :=
  if p.va.toNat % p.bytes ≠ 0 then .fault causeAlign
  else
    match s.xlate .vector acc p.va with
    | .at loc d => if port && inHost loc then .fault causeAccess else .at loc d
    | x => x

/-- Does an address lie on a page of device memory type (R335)? -/
def State.onDevicePage (s : State) (va : Word) : Bool :=
  if va.toNat < 0x800000000000 then
    match s.walk (s.rootOf s.hart) va.toNat levels with
    | .leaf l => bit l.entry 6
    | _ => false
  else false

/-- What the translation of an annulled element's access leaves: its fault is suppressed and recorded, unless device
space gates the element (R187). -/
def State.suppressFault (s : State) (elem seq : Nat) (va : Word) : Xlate → State
  | .fault cause => if s.onDevicePage va then s else s.modHart (fun h => h.suppress elem cause seq)
  | _ => s

/-- The value of an element access at a location, as a hart `h` sees it: zero bytes where damaged (R428). -/
def State.loadAt (s : State) (h : Hart) (view : List Host.Cell) (p : Place4) (loc : Nat) : Nat × Bool :=
  let (bs, bad) := s.deliver h view loc p.bytes p.nibble
  let x := leNat bs
  (match p.nibble with
   | none => x
   | some true => x / 16
   | some false => x % 16, bad)

/-- A load by the executing hart has committed, at its place in program and element order: poison is consumed, and
damage in transit met once (R427, R428). -/
def State.commitLoad (s : State) (at' : Nat × Nat) (p : Place4) (loc : Nat) (bad : Bool) : State :=
  let s := s.moves s.cur loc p.bytes
  if bad then (s.modHart (fun h => h.consume at' p.va)).spendTransit loc p.bytes else s

/-- The executing hart with the held entries that a member's loads see: those of older instructions (R153). -/
def Ctx.behind (c : Ctx) (s : State) : Hart := s.hart.upTo c.q.seq

/-- The load loop of R224: `place` gives each element's access and `bits` its width in the register; `old` is the hart
with the held entries that the loads see, and `view` the memory behind them. -/
def loadLoop (c : Ctx) (old : Hart) (view : List Host.Cell) (place : Nat → Place4) (bits d : Nat) :
    List Nat → State → VReg → MRes
  | [], s, r => .ok (s.modHart (fun h => h.vset d r))
  | i :: is, s, r =>
    if c.on i then
      let p := place i
      match s.checkElem .load false p with
      | .at loc _ =>
        let (x, bad) := s.loadAt old view p loc
        loadLoop c old view place bits d is (s.commitLoad (c.q.seq, i) p loc bad) (setElem r bits i x)
      | x => .ofFail (s.modHart (fun h => h.vset d r)) i p.va x
    else
      let s := if c.active i then s.suppressFault i c.q.seq (place i).va (s.checkElem .load false (place i)) else s
      loadLoop c old view place bits d is s (if c.zero then setElem r bits i 0 else r)

/-- A load at EW through a place function. -/
def loadMember (c : Ctx) (s : State) (d : BitVec 6) (place : Nat → Place4) : MRes :=
  let old := c.behind s
  loadLoop c old (s.view old) place c.bits d.toNat c.elems s (s.hart.vget d.toNat)

/-- VLD (R224). -/
def vldMember (c : Ctx) (s : State) (d : BitVec 6) : MRes := loadMember c s d (unitPlace c.q.opa c.ew)

/-- Element i at ga + i × VSTR (R224). -/
def stridePlace (base str : Word) (ew i : Nat) : Place4 :=
  { va := base + BitVec.ofNat 64 i * str, bytes := 2 ^ (ew - 1), nibble := none }

/-- VLDS (R224). -/
def vldsMember (c : Ctx) (s : State) (d : BitVec 6) : MRes :=
  loadMember c s d (stridePlace c.q.opa c.q.cap.vstr c.ew)

/-- The address of an indexed element (R104). -/
def indexPlace (h : Hart) (base : Word) (vi : BitVec 6) (k : BitVec 2) (ew i : Nat) : Place4 :=
  let v := h.vget vi.toNat
  let w := 2 ^ (ew - 1)
  let off : Word := match k.toNat with
    | 0 => BitVec.ofNat 64 (w * elemOf v (ewBits ew) i)
    | 1 => BitVec.ofNat 64 (elemOf v (ewBits ew) i)
    | 2 => BitVec.ofNat 64 (w * elemOf v 32 i)
    | _ => BitVec.ofNat 64 (elemOf v 64 i)
  { va := base + off, bytes := w, nibble := none }

/-- VLDX (R224). The index register may be the data register, and element i reads index i only. -/
def vldxMember (c : Ctx) (s : State) (d i : BitVec 6) (k : BitVec 2) : MRes :=
  loadMember c s d (indexPlace s.hart c.q.opa i k c.ew)

/-- VLDF (R189, R225): a fault above the lowest active element trims the strip there. -/
def vldfMember (c : Ctx) (s : State) (d : BitVec 6) : MRes :=
  let r := vldMember c s d
  match r.stop with
  | none => r
  | some x =>
    if x.kill || !(List.range x.elem).any (fun i => c.on i) then r
    else .ok (r.s.modHart (fun h => (h.trim x.elem c.q.seq).trimRecord x.elem x.cause c.q.seq))

/-! ### Stores and adds -/

/-- The held entry of one element of a vector instruction. -/
def heldElem (c : Ctx) (s : State) (kind : HeldKind) (i : Nat) (p : Place4) (loc : Nat) (x : Nat) (size : Nat) : Held :=
  { seq := c.q.seq, elem := i, vector := true, kind := kind, size := size, high := p.nibble = some true,
    scope := BitVec.ofNat 2 (scopeOf c.q.cap.vcfg), ew := BitVec.ofNat 3 c.ew, fmt := BitVec.ofNat 3 c.fmt,
    va := s.heldVa p.va, locs := [(loc, p.bytes)], bytes := leBytes p.bytes x, addends := [] }

/-- The store loop of R224: each written element takes one held entry (R222). -/
def storeLoop (c : Ctx) (kind : HeldKind) (place : Nat → Place4) (data : Nat → Nat) (size : Nat) :
    List Nat → State → MRes
  | [], s => .ok s
  | i :: is, s =>
    if c.on i then
      let p := place i
      match s.checkElem .store (kind ≠ .store) p with
      | .at loc _ =>
        match s.enterHeld (heldElem c s kind i p loc (data i) size) (hebCapacity c.q.cap.heblim) with
        | (s, true) => storeLoop c kind place data size is s
        | (s, false) => .dead s
      | x => .ofFail s i p.va x
    else storeLoop c kind place data size is s

/-- A store at EW through a place function. -/
def storeMember (c : Ctx) (s : State) (kind : HeldKind) (v : BitVec 6) (place : Nat → Place4) : MRes :=
  let r := s.hart.vget v.toNat
  storeLoop c kind place (fun i => elemOf r c.bits i) (sizeOfEw c.ew) c.elems s

/-- VST (R224). -/
def vstMember (c : Ctx) (s : State) (v : BitVec 6) : MRes := storeMember c s .store v (unitPlace c.q.opa c.ew)

/-- VSTS (R224). -/
def vstsMember (c : Ctx) (s : State) (v : BitVec 6) : MRes :=
  storeMember c s .store v (stridePlace c.q.opa c.q.cap.vstr c.ew)

/-- VSTX (R224). -/
def vstxMember (c : Ctx) (s : State) (v i : BitVec 6) (k : BitVec 2) : MRes :=
  storeMember c s .store v (indexPlace s.hart c.q.opa i k c.ew)

/-- VSCADD (R226). -/
def vscaddMember (c : Ctx) (s : State) (v i : BitVec 6) (k : BitVec 2) (f : BitVec 1) : MRes :=
  storeMember c s (if f = 1 then .addFlt else .addInt) v (indexPlace s.hart c.q.opa i k c.ew)

/-- The merge entries of VMERGET (R227), entry j rising. -/
def mergeLoop (c : Ctx) (kind : HeldKind) (data : Nat → Nat) (t : Nat) : List Nat → State → MRes
  | [], s => .ok s
  | j :: js, s =>
    let segs := (List.range ((c.vl + t - 1) / t)).filter (fun k => k * t + j < c.vl && c.on (k * t + j))
    if segs.isEmpty then mergeLoop c kind data t js s
    else
      let p := unitPlace c.q.opa c.ew j
      match s.checkElem .store true p with
      | .at loc _ =>
        let e := { heldElem c s kind j p loc 0 (sizeOfEw c.ew) with
          bytes := [], addends := segs.map (fun k => BitVec.ofNat 64 (data (k * t + j))) }
        match s.enterHeld e (hebCapacity c.q.cap.heblim) with
        | (s, true) => mergeLoop c kind data t js s
        | (s, false) => .dead s
      | x => .ofFail s 0 p.va x

/-- VMERGET (R227). -/
def vmergetMember (c : Ctx) (s : State) (v : BitVec 6) (f : BitVec 1) : MRes :=
  if c.q.opa.toNat % 64 ≠ 0 then .at s 0 causeAlign c.q.opa
  else
    let r := s.hart.vget v.toNat
    let t := 64 / 2 ^ (c.ew - 1)
    mergeLoop c (if f = 1 then .mergeFlt else .mergeInt) (fun i => elemOf r c.bits i) t (List.range t) s

/-! ### Plane loads and stores -/

/-- Width in bits of plane p of a ladder (R129, R130). -/
def planeBits (ladderM : Bool) (p : Nat) : Nat :=
  if ladderM then (if p = 2 then 8 else 4) else if p = 0 then 16 else 8

/-- Where plane p of element i lies (R133). -/
def planePlace (ladderM : Bool) (base pstr : Word) (p i : Nat) : Place4 :=
  let b := base + BitVec.ofNat 64 p * pstr
  if planeBits ladderM p = 16 then unitPlace b 2 i
  else if planeBits ladderM p = 8 then unitPlace b 1 i
  else unitPlace b 0 i

/-- The planes that a read of k planes returns (R134): `q` is plane k+1 where NEXT reads it. -/
def prefixRead (ladderM sat : Bool) (ps : List Nat) (q : Option Nat) : List Nat :=
  let k := ps.length
  let x := (List.range k).foldl (fun acc p => acc * 2 ^ planeBits ladderM p + ps.getD p 0) 0
  let n := (List.range k).foldl (fun acc p => acc + planeBits ladderM p) 0
  let neg := x / 2 ^ (n - 1)
  let m := x % 2 ^ (n - 1)
  let split := fun (y : Nat) => (List.range k).map (fun p =>
    let low := ((List.range k).drop (p + 1)).foldl (fun acc r => acc + planeBits ladderM r) 0
    (y / 2 ^ low) % 2 ^ planeBits ladderM p)
  let special := ladderM && ps.getD 0 0 = 8
  let expOnes := !ladderM && m / 2 ^ (n - 9) = 255
  if special then (List.range k).map (fun p => if p = 0 then 8 else 0)
  else
    match q with
    | none => ps
    | some q =>
      let half := 2 ^ (planeBits ladderM k - 1)
      if expOnes then
        if m % 2 ^ (n - 9) = 0 then ps else split (255 * 2 ^ (n - 9) + 2 ^ (n - 10))
      else if half < q || (q = half && m % 2 = 1) then
        let m' := m + 1
        if !ladderM && m' / 2 ^ (n - 9) = 255 then
          split (neg * 2 ^ (n - 1) + (if sat then 255 * 2 ^ (n - 9) - 1 else 255 * 2 ^ (n - 9)))
        else if ladderM && 2 ^ (n - 1) ≤ m' then split (neg * 2 ^ (n - 1) + (2 ^ (n - 1) - 1))
        else split (neg * 2 ^ (n - 1) + m')
      else ps

/-- Reads a list of places of one element, from the leading plane down (R229). -/
def readPlaces (at' : Nat × Nat) (old : Hart) (view : List Host.Cell) (s : State) (acc : List Nat) :
    List Place4 → State × List Nat × Option (Word × Xlate)
  | [] => (s, acc, none)
  | p :: ps =>
    match s.checkElem .load false p with
    | .at loc _ =>
      let (x, bad) := s.loadAt old view p loc
      readPlaces at' old view (s.commitLoad at' p loc bad) (acc ++ [x]) ps
    | f => (s, acc, some (p.va, f))

/-- The lowest written element of the block of element i is i itself (R229, R230). -/
def Ctx.leads (c : Ctx) (i : Nat) : Bool :=
  let b := (i / c.block) * c.block
  c.on i && !(List.range' b (i - b)).any (fun j => c.on j)

/-- Element i of several plane registers written, or zeroed. -/
def putPlanes (h : Hart) (ladderM : Bool) (d i : Nat) (ps : List Nat) : Hart :=
  (List.range ps.length).foldl (fun h p =>
    h.vset (d + 16 * p) (setElem (h.vget (d + 16 * p)) (planeBits ladderM p) i (ps.getD p 0))) h

/-- The loop of VPLD (R229). -/
def vpldLoop (c : Ctx) (old : Hart) (view : List Host.Cell) (ladderM next : Bool) (k d vi : Nat) : List Nat → State → MRes
  | [], s => .ok s
  | i :: is, s =>
    let extra := next && k < 3
    let places := (List.range (if extra then k + 1 else k)).map (fun p => planePlace ladderM c.q.opa c.q.cap.vpstr p i)
    let pair := if ladderM && c.leads i then
        [unitPlace (c.q.opa + 3 * c.q.cap.vpstr) 2 (i / c.block)] else []
    if c.on i then
      match readPlaces (c.q.seq, i) old view s [] (places ++ pair) with
      | (_, _, some (va, f)) => .ofFail s i va f
      | (s, xs, none) =>
        let ps := prefixRead ladderM c.sat (xs.take k) (if extra then xs[k]? else none)
        let s := s.modHart (fun h => putPlanes h ladderM d i ps)
        let s := match pair, xs.getLast? with
          | _ :: _, some y => s.modHart (fun h => h.vset vi (setElem (h.vget vi) 16 (i / c.block) y))
          | _, _ => s
        vpldLoop c old view ladderM next k d vi is s
    else
      let s := if c.active i then
          (match readPlaces (c.q.seq, i) old view s [] places with
           | (_, _, some (va, f)) => s.suppressFault i c.q.seq va f
           | _ => s)
        else s
      let s := if c.zero then s.modHart (fun h => putPlanes h ladderM d i (List.replicate k 0)) else s
      vpldLoop c old view ladderM next k d vi is s

/-- VPLD (R228, R229). -/
def vpldMember (c : Ctx) (s : State) (d i : BitVec 6) (p m : BitVec 2) : MRes :=
  let old := c.behind s
  vpldLoop c old (s.view old) (2 ≤ m.toNat) (m.toNat % 2 = 1) (p.toNat + 1) d.toNat i.toNat c.elems s

/-- The held entries of one element of VPST, each place with its data, checked in the order they enter. -/
def checkPlaces (s : State) : List (Place4 × Nat) → Except (Word × Xlate) (List (Place4 × Nat × Nat))
  | [] => .ok []
  | (p, x) :: ps =>
    match s.checkElem .store false p with
    | .at loc _ => (checkPlaces s ps).map (fun r => (p, loc, x) :: r)
    | f => .error (p.va, f)

/-- Entries enter one after the other. -/
def enterAll (s : State) (capacity : Nat) : List Held → State × Bool
  | [] => (s, true)
  | e :: es =>
    match s.enterHeld e capacity with
    | (s, true) => enterAll s capacity es
    | (s, false) => (s, false)

/-- The loop of VPST (R230): the pair before the planes of its block, planes from the least significant up. -/
def vpstLoop (c : Ctx) (ladderM : Bool) (k v vi : Nat) : List Nat → State → MRes
  | [], s => .ok s
  | i :: is, s =>
    if c.on i then
      let h := s.hart
      let lead := elemOf (h.vget v) (planeBits ladderM 0) i
      let planes := (List.range k).map (fun p =>
        (planePlace ladderM c.q.opa c.q.cap.vpstr p i,
         if ladderM && lead = 8 && p ≠ 0 then 0 else elemOf (h.vget (v + 16 * p)) (planeBits ladderM p) i))
      let pair := if ladderM && c.leads i then
          [(unitPlace (c.q.opa + 3 * c.q.cap.vpstr) 2 (i / c.block), elemOf (h.vget vi) 16 (i / c.block))] else []
      match checkPlaces s (planes ++ pair).reverse with
      | .error (va, f) => .ofFail s i va f
      | .ok xs =>
        let es := xs.map (fun (p, loc, x) =>
          heldElem c s .store i p loc x (if p.nibble.isSome then 0 else p.bytes))
        let es := if pair.isEmpty then es else es.modifyHead (fun e => { e with block := c.block })
        match enterAll s (hebCapacity c.q.cap.heblim) es with
        | (s, true) => vpstLoop c ladderM k v vi is s
        | (s, false) => .dead s
    else vpstLoop c ladderM k v vi is s

/-- VPST (R228, R230). -/
def vpstMember (c : Ctx) (s : State) (v i : BitVec 6) (p : BitVec 2) (m : BitVec 1) : MRes :=
  vpstLoop c (m = 1) (p.toNat + 1) v.toNat i.toNat c.elems s

/-! ### Compressed lane blocks (R345 to R347) -/

/-- The check word of 64 decoded bytes (R346). -/
def checkWord (bs : List Byte) : Nat :=
  let (s1, s2) := bs.foldl (fun (s : Nat × Nat) b =>
    let s1 := (s.1 + b.toNat) % 255
    (s1, (s.2 + s1) % 255)) (0, 0)
  s2 * 256 + s1

/-- The zero-run decode (R346): tokens until 64 bytes are produced, with nothing left over. -/
def zeroRun : Nat → List Byte → List Byte → Option (List Byte)
  | _, out, [] => if out.length = 64 then some out else none
  | 0, _, _ => none
  | k + 1, out, t :: rest =>
    if 64 ≤ out.length then none
    else
      let n := t.toNat % 64 + 1
      if t.toNat / 64 = 0 then zeroRun k (out ++ List.replicate n 0) rest
      else if t.toNat / 64 = 1 then
        if rest.length < n then none else zeroRun k (out ++ rest.take n) (rest.drop n)
      else none

/-- A block decoded and checked; none where it fails (R346, R347). -/
def decodeBlock (bs : List Byte) : Option (List Byte) :=
  let hd := leNat (bs.take 4)
  let mode := hd % 4
  let dn := (hd / 256) % 16
  let body := bs.drop 4
  if bs.length < 4 || (hd / 4) % 64 ≠ 0 || (hd / 4096) % 16 ≠ 0 || (mode ≠ 1 && dn ≠ 0) then none
  else
    let out : Option (List Byte) := match mode with
      | 0 => if body.length = 64 then some body else none
      | 1 =>
        if body.length ≠ 33 + dn then none
        else
          let dict := body.take (dn + 1)
          (body.drop (dn + 1)).foldl (fun acc b => do
            let r ← acc
            let lo ← dict[b.toNat % 16]?
            let hi ← dict[b.toNat / 16]?
            pure (r ++ [lo, hi])) (some [])
      | 2 => zeroRun 65 [] body
      | _ => none
    match out with
    | some o => if o.length = 64 && checkWord o = hd / 65536 then some o else none
    | none => none

/-- The end of one attempt to get a block: its bytes, a failure (with the block's address where the table gave one), or
a fault on the table or block. -/
inductive Fetched where
  | good (bs : List Byte)
  | failed (at' : Word)
  | fault (va : Word) (x : Xlate)
  deriving DecidableEq, Repr

/-- The locations of bytes that were read, and which of them were damaged. -/
abbrev ReadLog := List (Nat × Bool)

/-- The damaged locations of a read log. -/
def damagedOf (l : ReadLog) : List Nat := (l.filter (·.2)).map (·.1)

/-- A reader of one byte: the byte with what was read, or a failing address. -/
abbrev ByteReader := Word → Except (Word × Xlate) (Byte × ReadLog)

/-- Bytes read one by one, with what was read; the first failing address otherwise. -/
def gather (rd : ByteReader) (va : Word) : Nat → Except (Word × Xlate) (List Byte × ReadLog)
  | 0 => .ok ([], [])
  | k + 1 => do
    let (b, d) ← rd va
    let (bs, d') ← gather rd (va + 1) k
    pure (b :: bs, d ++ d')

/-- One attempt at block x of plane p through a table (R345, R347), with what was read. Where the table
cannot locate the block, for a damaged header or a block past its plane's count, the failing address is the table's
(DESIGN CHOICE, log 80); the reserved bytes of the header are ignored (R6). A table that is not aligned, or lies in host
memory, is read as it stands (DESIGN CHOICE, log 93). -/
def fetchBlock (rd : ByteReader) (table : Word) (p x : Nat) : Fetched × ReadLog :=
  match gather rd table 16 with
  | .error (va, f) => (.fault va f, [])
  | .ok (hdr, dh) =>
    let n := fun k => leNat ((hdr.drop (4 * k)).take 4)
    let idx := (List.range p).foldl (fun acc k => acc + n k) 0 + x
    if n p ≤ x || dh.any (·.2) then (.failed table, dh)
    else
      let ea := table + BitVec.ofNat 64 (16 + 8 * idx)
      match gather rd ea 8 with
      | .error (va, f) => (.fault va f, dh)
      | .ok (eb, de) =>
        let e := leNat eb
        let len := (e / 2 ^ 48) % 256
        let blkAt := table + BitVec.ofNat 64 (e % 2 ^ 40)
        if e / 2 ^ 56 ≠ 0 || (e / 2 ^ 40) % 256 ≠ 0 || len < 4 || 68 < len || de.any (·.2) then (.failed blkAt, dh ++ de)
        else
          match gather rd blkAt len with
          | .error (va, f) => (.fault va f, dh ++ de)
          | .ok (bs, d) =>
            let l := dh ++ de ++ d
            if d.any (·.2) then (.failed blkAt, l)
            else
              match decodeBlock bs with
              | some o => (.good o, l)
              | none => (.failed blkAt, l)

/-- A block with its refetch and its replica (R347). `once` reads the first time, `again` the later times. -/
def getBlock (once again : ByteReader) (table replica : Word) (p x : Nat) : Fetched × ReadLog :=
  match fetchBlock once table p x with
  | (.failed at', d) =>
    match fetchBlock again table p x with
    | (.failed _, d') =>
      if replica = 0 then (.failed at', d ++ d')
      else
        match fetchBlock again replica p x with
        | (.good o, d'') => (.good o, d ++ d' ++ d'')
        | (_, d'') => (.failed at', d ++ d' ++ d'')
    | (r, d') => (r, d ++ d')
  | r => r

/-- Bytes have been read for hart h: they count as moved, and damage in transit is used up (R424, R458). -/
def State.readBytes (s : State) (h : Nat) (l : ReadLog) : State :=
  (l.foldl (fun s e => s.moves h e.1 1) s).spendAt (damagedOf l)

/-- A byte that VXPAND reads (R219, R221); a refetch does not meet damage in transit again. -/
def State.vxRead (s : State) (old : Hart) (view : List Host.Cell) (first : Bool) : ByteReader := fun va =>
  match s.xlate .vector .load va with
  | .at loc _ =>
    .ok (Memory.read view loc,
      [(loc, (s.poisonedAt loc || (first && s.transitAt loc)) && !old.covers none loc)])
  | f => .error (va, f)

/-- Width of plane p under a LADDER field (R232). -/
def xpWidth (ladder ew p : Nat) : Nat :=
  match ladder with
  | 0 => ewBits ew
  | 1 => planeBits false p
  | _ => planeBits true p

/-- The decoded planes of a strip, slice by slice within plane by plane (R232), with what was read. -/
def decodePlanes (once again : ByteReader) (table replica : Word) :
    List (Nat × Nat) → List (Nat × Nat × List Byte) → ReadLog →
      Except Fetched (List (Nat × Nat × List Byte)) × ReadLog
  | [], acc, d => (.ok acc, d)
  | (p, x) :: rest, acc, d =>
    match getBlock once again table replica p x with
    | (.good o, d') => decodePlanes once again table replica rest (acc ++ [(p, x, o)]) (d ++ d')
    | (f, d') => (.error f, d ++ d')

/-- Width of the widest plane that a plane access reads or writes (R228). -/
def widestPlane (ladderM next : Bool) (k : Nat) : Nat :=
  if !ladderM then 16 else if k = 3 || (next && k = 2) then 8 else 4

/-- The decoded bytes of a plane. -/
def decodedPlane (blocks : List (Nat × Nat × List Byte)) (p : Nat) : VReg :=
  blocks.foldl (fun (r : VReg) (b : Nat × Nat × List Byte) =>
    if b.1 = p then r ||| BitVec.ofNat 16384 (leNat b.2.2 <<< (512 * b.2.1)) else r) 0

/-- Element i of plane p as VXPAND writes it: the lower planes of a special element of ladder M are zero (R131). -/
def expandedElem (ladder ew : Nat) (planes : Nat → VReg) (p i : Nat) : Nat :=
  if ladder = 2 && p ≠ 0 && elemOf (planes 0) 4 i = 8 then 0 else elemOf (planes p) (xpWidth ladder ew p) i

/-- Does a VXPAND of k planes take more of a register than the live lanes hold (R228, R232)? -/
def xpandTooLong (h : Hart) (ladder k vl : Nat) : Bool :=
  (ladder = 1 || ladder = 2) && 64 * h.vlmaxr < vl * widestPlane (ladder = 2) false k

/-- VXPAND (R231, R232). A damaged descriptor is no descriptor that R232 accepts: it traps STREAM (DESIGN CHOICE,
log 81). The limit of R228 is met here when the descriptor could not be read at issue, or has changed since. -/
def vxpandMember (c : Ctx) (s : State) (d : BitVec 6) (pc : BitVec 2) : MRes :=
  let ga := c.q.opa
  let k := pc.toNat + 1
  if ga.toNat % 32 ≠ 0 then .at s 0 causeAlign ga
  else
    let old := c.behind s
    let view := s.view old
    match gather (s.vxRead old view true) ga 32 with
    | .error (va, f) => .ofFail s 0 va f
    | .ok (ds, bad) =>
      let f := fun o n => leNat ((ds.drop o).take n)
      let ladder := f 20 1
      if (ds.drop 22).any (· ≠ 0) || 2 < ladder || f 21 1 < 1 || 3 < f 21 1 || f 21 1 < k || (ladder = 0 && 1 < k)
          || f 16 4 < c.vl || bad.any (·.2) then .at s 0 causeStream ga
      else if xpandTooLong s.hart ladder k c.vl then .at s 0 causeVlRange (BitVec.ofNat 64 c.vl)
      else
        let slices := (List.range k).flatMap (fun p =>
          (List.range ((c.vl * xpWidth ladder c.ew p + 511) / 512)).map (fun x => (p, x)))
        match decodePlanes (s.vxRead old view true) (s.vxRead old view false) (BitVec.ofNat 64 (f 0 8))
            (BitVec.ofNat 64 (f 8 8)) slices [] bad with
        | (.error (.failed at'), _) => .at s 0 causeStream at'
        | (.error (.fault va x), _) => .ofFail s 0 va x
        | (.error (.good _), _) => .ok s
        | (.ok blocks, met) =>
          .ok ((List.range k).foldl (fun s p =>
            let dp := d.toNat + 16 * p
            s.modHart (fun h => h.vset dp (c.mapElems (h.vget dp) (xpWidth ladder c.ew p)
              (fun i => (expandedElem ladder c.ew (decodedPlane blocks) p i, 0))).1))
            (s.readBytes s.cur met))

end Sys2Proof.Machine
end

