-- ==== Sys2Proof/Machine/Permute.lean ====
section
/-! DEFINITION. Class 11 as members of a convoy: permutes, reductions in their fixed orders, plane arithmetic (R136 to
R139, R209 to R217). -/

namespace Sys2Proof.Machine

/-! ### Permutes -/

/-- VSLUP (R209): the amount is the first operand, the fill the second. -/
def vslupMember (c : Ctx) (s : State) (d a : BitVec 6) : MRes :=
  let h := s.hart
  let va := h.vget a.toNat
  let n := c.q.opa.toNat
  .ok (s.putV d.toNat (c.mapElems (h.vget d.toNat) c.bits (fun i =>
    (if n ≤ i then elemOf va c.bits (i - n) else c.q.opb.toNat % 2 ^ c.bits, 0))))

/-- VSLDN (R209). -/
def vsldnMember (c : Ctx) (s : State) (d a : BitVec 6) : MRes :=
  let h := s.hart
  let va := h.vget a.toNat
  let n := c.q.opa.toNat
  .ok (s.putV d.toNat (c.mapElems (h.vget d.toNat) c.bits (fun i =>
    (if i + n < c.u then elemOf va c.bits (i + n) else c.q.opb.toNat % 2 ^ c.bits, 0))))

/-- The elements 0 .. of a register written with a list of values, the rest below VL kept or zeroed. -/
def packLow (c : Ctx) (old : VReg) (xs : List Nat) : VReg :=
  (List.range c.vl).foldl (fun r i =>
    match xs[i]? with
    | some x => setElem r c.bits i x
    | none => if c.zero then setElem r c.bits i 0 else r) old

/-- VCOMPRESS (R210). -/
def vcompressMember (c : Ctx) (s : State) (d a p : BitVec 6) : MRes :=
  let h := s.hart
  let va := h.vget a.toNat
  .ok (s.modHart (fun h => h.vset d.toNat (packLow c (h.vget d.toNat)
    ((c.selected (h.pget p.toNat)).map (fun i => elemOf va c.bits i)))))

/-- VEXPAND (R210): the k-th selected element takes element k of va. -/
def vexpandMember (c : Ctx) (s : State) (d a p : BitVec 6) : MRes :=
  let h := s.hart
  let va := h.vget a.toNat
  let pb := h.pget p.toNat
  let r := (List.range c.vl).foldl (fun (r, k) i =>
    if c.on i && pbit pb i then (setElem r c.bits i (elemOf va c.bits k), k + 1)
    else if c.zero then (setElem r c.bits i 0, k) else (r, k)) (h.vget d.toNat, 0)
  .ok (s.modHart (fun h => h.vset d.toNat r.1))

/-- VPERM (R211). -/
def vpermMember (c : Ctx) (s : State) (d a b : BitVec 6) : MRes :=
  let h := s.hart
  let va := h.vget a.toNat
  let vb := h.vget b.toNat
  .ok (s.putV d.toNat (c.mapElems (h.vget d.toNat) c.bits (fun i =>
    let k := elemOf vb c.bits i
    (if k < c.u then elemOf va c.bits k else 0, 0))))

/-- VID (R212). -/
def vidMember (c : Ctx) (s : State) (d : BitVec 6) : MRes :=
  .ok (s.putV d.toNat (c.mapElems (s.hart.vget d.toNat) c.bits (fun i => (i % 2 ^ c.bits, 0))))

/-- VIOTA (R212). -/
def viotaMember (c : Ctx) (s : State) (d p : BitVec 6) : MRes :=
  let h := s.hart
  let sel := c.selected (h.pget p.toNat)
  .ok (s.putV d.toNat (c.mapElems (h.vget d.toNat) c.bits (fun i => (sel.countP (· < i) % 2 ^ c.bits, 0))))

/-- VMERGE (R212): the governing predicate chooses, and every element below VL and the bound is written. -/
def vmergeMember (c : Ctx) (s : State) (d a b : BitVec 6) (r : BitVec 3) : MRes :=
  let h := s.hart
  let va := h.vget a.toNat
  let vb := h.vget b.toNat
  let x := c.elems.foldl (fun x i =>
    if i < c.u then
      setElem x c.bits i (if pbit c.gov i then elemOf va c.bits i else elemOf vb c.bits (repIndex r i))
    else if c.zero then setElem x c.bits i 0 else x) (h.vget d.toNat)
  .ok (s.modHart (fun h => h.vset d.toNat x))

/-- VBCAST (R212). -/
def vbcastMember (c : Ctx) (s : State) (d : BitVec 6) : MRes :=
  .ok (s.putV d.toNat (c.mapElems (s.hart.vget d.toNat) c.bits (fun _ => (c.q.opa.toNat % 2 ^ c.bits, 0))))

/-- VEXTR (R212). -/
def vextrMember (c : Ctx) (s : State) (g a : BitVec 6) : MRes :=
  let k := c.q.opa.toNat
  .ok (s.gset g.toNat (if k < c.u then BitVec.ofNat 64 (elemOf (s.hart.vget a.toNat) c.bits k) else 0))

/-- VINS (R212): the value is the first operand, the index the second. -/
def vinsMember (c : Ctx) (s : State) (d : BitVec 6) : MRes :=
  let k := c.q.opb.toNat
  if k < c.u then
    .ok (s.modHart (fun h => h.vset d.toNat (setElem (h.vget d.toNat) c.bits k (c.q.opa.toNat % 2 ^ c.bits))))
  else .ok s

/-! ### Reductions -/

/-- The terms of a reduction: active elements below the bound, rising (R213). -/
def Ctx.terms (c : Ctx) : List Nat := (List.range c.vl).filter c.on

/-- The partial combiner of R136 on codes of a format, with flags. -/
def combine (f : Fmt) (rm : Rm) (x y : Option Nat) : Option Nat × Nat :=
  match x, y with
  | none, y => (y, 0)
  | x, none => (x, 0)
  | some a, some b =>
    let (r, fl) := roundPair f rm (addVal rm (decodeF f a) (decodeF f b))
    (some r, fl)

/-- One level of the tree of R137. -/
def treeLevel (f : Fmt) (rm : Rm) : List (Option Nat) → List (Option Nat) × Nat
  | x :: y :: r =>
    let (z, fl) := combine f rm x y
    let (zs, fl') := treeLevel f rm r
    (z :: zs, fl ||| fl')
  | [x] => ([x], 0)
  | [] => ([], 0)

/-- The tree of R137, level by level; a list whose length is no power of two stands for one filled up with none. -/
def treeSum (f : Fmt) (rm : Rm) : Nat → List (Option Nat) → Option Nat × Nat
  | 0, xs => (xs.head?.join, 0)
  | k + 1, xs =>
    if xs.length ≤ 1 then (xs.head?.join, 0)
    else
      let (ys, fl) := treeLevel f rm xs
      let (r, fl') := treeSum f rm k ys
      (r, fl ||| fl')

/-- A NaN that a reduction passes through is written as the canonical one (R119). -/
def canonical (f : Fmt) (x : Nat) : Nat := if isNan (decodeF f x) then nanOf f else x

/-- A result with flags in element 0 of vd at a width, when VL is not 0 (R213). -/
def putReduced (c : Ctx) (s : State) (d : BitVec 6) (bits : Nat) (r : Nat × Nat) : MRes :=
  if c.vl = 0 then .ok s
  else .ok (s.putV d.toNat (setElem (s.hart.vget d.toNat) bits 0 r.1, r.2))

/-- VRSUM. -/
def vrsumMember (c : Ctx) (s : State) (d a : BitVec 6) : MRes :=
  let va := s.hart.vget a.toNat
  putReduced c s d c.bits (c.terms.foldl (fun acc i => acc + elemOf va c.bits i) 0 % 2 ^ c.bits, 0)

/-- VRMAX. -/
def vrmaxMember (c : Ctx) (s : State) (d a : BitVec 6) : MRes :=
  let va := s.hart.vget a.toNat
  putReduced c s d c.bits (wrapInt c.bits (c.terms.foldl (fun acc i => max acc (toSigned c.bits (elemOf va c.bits i)))
    (intMin true c.bits)), 0)

/-- VRMIN. -/
def vrminMember (c : Ctx) (s : State) (d a : BitVec 6) : MRes :=
  let va := s.hart.vget a.toNat
  putReduced c s d c.bits (wrapInt c.bits (c.terms.foldl (fun acc i => min acc (toSigned c.bits (elemOf va c.bits i)))
    (intMax true c.bits)), 0)

/-- VFRSUM (R137). -/
def vfrsumMember (c : Ctx) (s : State) (d a : BitVec 6) : MRes :=
  let va := s.hart.vget a.toNat
  let (r, fl) := treeSum c.float c.rm 13
    ((List.range c.vl).map (fun i => if c.on i then some (elemOf va c.bits i) else none))
  putReduced c s d c.bits (canonical c.float (r.getD 0), fl)

/-- VFRSUMO (R139). -/
def vfrsumoMember (c : Ctx) (s : State) (d a : BitVec 6) : MRes :=
  let va := s.hart.vget a.toNat
  let (r, fl) := c.terms.foldl (fun (r, fl) i =>
    let (x, f) := combine c.float c.rm r (some (elemOf va c.bits i))
    (x, fl ||| f)) ((none : Option Nat), 0)
  putReduced c s d c.bits (canonical c.float (r.getD 0), fl)

/-- VFRMAX and VFRMIN: NaN terms are ignored (R213). -/
def extremeMember (c : Ctx) (s : State) (d a : BitVec 6) (greater : Bool) : MRes :=
  let va := s.hart.vget a.toNat
  putReduced c s d c.bits (c.terms.foldl (fun acc i => pickMinMax c.float greater acc (elemOf va c.bits i))
    (nanOf c.float), 0)

/-- VFRMAX. -/
def vfrmaxMember (c : Ctx) (s : State) (d a : BitVec 6) : MRes := extremeMember c s d a true

/-- VFRMIN. -/
def vfrminMember (c : Ctx) (s : State) (d a : BitVec 6) : MRes := extremeMember c s d a false

/-- The scaled sum of block b (R214): its tree in FP32, then its E8M0 scale. -/
def blockSum (c : Ctx) (va vb : VReg) (b : Nat) : Option Nat × Nat :=
  let terms := (List.range c.block).map (fun j =>
    let i := b * c.block + j
    if c.on i then some (roundVal fp32 .rne (decodeF c.float (elemOf va c.bits i))).1 else none)
  let (x, fl) := treeSum fp32 c.rm 6 terms
  let e := elemOf vb 8 b
  if e = 255 then (some (nanOf fp32), fl)
  else
    match x with
    | none => (none, fl)
    | some x =>
      let (r, fl') := roundVal fp32 c.rm (scaleVal ((e : Int) - 127) (decodeF fp32 x))
      (some r, fl ||| fl')

/-- VRSCL (R214). -/
def vrsclMember (c : Ctx) (s : State) (d a b : BitVec 6) : MRes :=
  let h := s.hart
  let sums := (List.range ((c.vl + c.block - 1) / c.block)).map (blockSum c (h.vget a.toNat) (h.vget b.toNat))
  let (r, fl) := treeSum fp32 c.rm 13 (sums.map (·.1))
  putReduced c s d 32 (canonical fp32 (r.getD 0), sums.foldl (fun acc x => acc ||| x.2) fl)

/-- VARGMAX (R215). -/
def vargmaxMember (c : Ctx) (s : State) (d a : BitVec 6) : MRes :=
  let va := s.hart.vget a.toNat
  let v := fun i => decodeF c.float (elemOf va c.bits i)
  let best := c.terms.foldl (fun (best : Option Nat) i =>
    if isNan (v i) then best
    else
      match best with
      | none => some i
      | some j => if ltMin (v j) (v i) then some i else best) none
  putReduced c s d 32 (best.getD 0xFFFFFFFF, 0)

/-! ### Plane arithmetic -/

/-- Plane p of a full-width value (R129, R130): a NaN of ladder F is canonical and a special code of ladder M has zero
lower planes (R131). -/
def planeOf (ladderM : Bool) (p x : Nat) : Nat :=
  if ladderM then
    (match p with
     | 0 => x / 4096 % 16
     | 1 => if x / 4096 % 16 = 8 then 0 else x / 256 % 16
     | _ => if x / 4096 % 16 = 8 then 0 else x % 256)
  else
    let b := canonical fp32 x
    match p with
    | 0 => b / 65536 % 65536
    | 1 => b / 256 % 256
    | _ => b % 256

/-- The full-width value that three planes hold (R216). -/
def joinPlanes (ladderM : Bool) (p0 p1 p2 : Nat) : Nat :=
  if ladderM then (if p0 = 8 then 0x8000 else p0 * 4096 + p1 * 256 + p2) else p0 * 65536 + p1 * 256 + p2

/-- Element i of a planed register joined. -/
def joinedAt (h : Hart) (ladderM : Bool) (n i : Nat) : Nat :=
  joinPlanes ladderM (elemOf (h.vget n) (planeBits ladderM 0) i) (elemOf (h.vget (n + 16)) (planeBits ladderM 1) i)
    (elemOf (h.vget (n + 32)) (planeBits ladderM 2) i)

/-- Three plane registers written from a full-width result for each element, with its flags. -/
def putSplit (c : Ctx) (s : State) (d : Nat) (ladderM : Bool) (f : Nat → Nat × Nat) : State :=
  (List.range 3).foldl (fun s p =>
    s.putV (d + 16 * p) (c.mapElems (s.hart.vget (d + 16 * p)) (planeBits ladderM p) (fun i =>
      (planeOf ladderM p (f i).1, (f i).2)))) s

/-- VPSPLIT (R216). -/
def vpsplitMember (c : Ctx) (s : State) (d a : BitVec 6) (l : BitVec 3) : MRes :=
  let va := s.hart.vget a.toNat
  let m := l = 1
  .ok (putSplit c s d.toNat m (fun i => (elemOf va (if m then 16 else 32) i, 0)))

/-- VPJOIN (R216). -/
def vpjoinMember (c : Ctx) (s : State) (d a : BitVec 6) (l : BitVec 3) : MRes :=
  let h := s.hart
  let m := l = 1
  .ok (s.putV d.toNat (c.mapElems (h.vget d.toNat) (if m then 16 else 32) (fun i => (joinedAt h m a.toNat i, 0))))

/-- VPADD (R217). -/
def vpaddMember (c : Ctx) (s : State) (d a : BitVec 6) : MRes :=
  let h := s.hart
  let va := h.vget a.toNat
  .ok (putSplit c s d.toNat false (fun i =>
    roundPair fp32 .rne (addVal .rne (decodeF fp32 (joinedAt h false d.toNat i)) (decodeF fp32 (elemOf va 32 i)))))

end Sys2Proof.Machine
end

