-- ==== Sys2Proof/Machine/Streams.lean ====
section
/-! DEFINITION. Bound registers and streams (R233 to R238, R348): VBIND and VUNBIND as members of a convoy, the stream
fetch, and the delivery of a strip to the instruction that reads a bound register. -/

namespace Sys2Proof.Machine

/-! ### Bindings -/

/-- A binding of ladder M. -/
def Binding.ladderM (b : Binding) : Bool := b.ladder = 2

/-- The plane registers of a binding, as many as its plane count says (R234): vd + 16 and vd + 32 beyond the count are no
registers of it (DEDUCED, log 85). -/
def Binding.planeRegs (b : Binding) : List Nat := (List.range b.planes).map (fun p => b.reg + 16 * p)

/-- The registers of a binding (R234). -/
def Binding.regs (b : Binding) : List Nat := b.planeRegs ++ (if b.ladderM then [b.sreg] else [])

/-- Width in bits of plane p of a stream. -/
def Binding.width (b : Binding) (p : Nat) : Nat := xpWidth b.ladder b.ew p

/-- The binding of a hart that has a register. -/
def Hart.bindingOf (h : Hart) (r : Nat) : Option Nat := h.binds.findIdx? (fun b => b.regs.contains r)

/-- The machine with binding i of hart h changed. -/
def State.modBinding (s : State) (h i : Nat) (f : Binding → Binding) : State :=
  s.modHartAt h (fun x => { x with binds := x.binds.modify i f })

/-! ### Engine reads -/

/-- A read of n bytes by an engine of hart h: the location, or the trap cause and the address (R337, R467). -/
def State.engineAt (s : State) (h : Nat) (acc : Acc) (va : Word) (n : Nat) : Except (Nat × Word) Nat :=
  if va.toNat % n ≠ 0 then .error (causeAlign, va)
  else
    match s.translate (coreOf h) (s.rootOf (s.hartAt h)) false .engine acc va with
    | .at loc _ => .ok loc
    | .fault c => .error (c, va)
    | .damaged => .error (pageCause acc, va)

/-- A byte that an engine of hart h reads. -/
def State.engineByte (s : State) (h : Nat) (first : Bool) : ByteReader := fun va =>
  match s.translate (coreOf h) (s.rootOf (s.hartAt h)) false .engine .load va with
  | .at loc _ =>
    .ok (Memory.read s.mem loc, [(loc, s.poisonedAt loc || (first && s.transitAt loc))])
  | f => .error (va, f)

/-- The cause a stream's failing access leaves (R237, R467). -/
def fetchCause : Xlate → Nat
  | .fault c => c
  | _ => 6

/-! ### Raw streams -/

/-- Where the planes of element n of a raw stream lie (R233): a 4-bit element without planes is the low nibble of its
byte. -/
def Binding.places (b : Binding) (n : Nat) : List Place4 :=
  if b.ladder = 0 then
    [{ va := b.base + BitVec.ofNat 64 n * b.stride, bytes := if b.ew = 0 then 1 else 2 ^ (b.ew - 1),
       nibble := if b.ew = 0 then some false else none }]
  else (List.range b.planes).map (fun p => planePlace b.ladderM b.base b.pstr p n)

/-- The address at which an element that was damaged is recorded. -/
def Binding.addressOf (b : Binding) (n : Nat) : Word :=
  if b.packed then b.base else ((b.places n).head?.map (·.va)).getD b.base

/-- The planes of one element read, the leading plane first (R229): values, and what was read. -/
def State.readPlanes (s : State) (h : Nat) : List Place4 → Except (Nat × Word) (List Nat × ReadLog)
  | [] => .ok ([], [])
  | p :: ps => do
    let loc ← s.engineAt h .load p.va p.bytes
    let l := (List.range p.bytes).map (fun i => (loc + i, s.damagedAt (loc + i)))
    let x := leNat (l.map (fun e => if e.2 then 0 else Memory.read s.mem e.1))
    let x := match p.nibble with
      | none => x
      | some high => if high then x / 16 else x % 16
    let (xs, l') ← s.readPlanes h ps
    pure (x :: xs, l ++ l')

/-- The place of scale pair k (R129). -/
def Binding.pairPlace (b : Binding) (k : Nat) : Place4 :=
  { va := b.scales + BitVec.ofNat 64 (2 * k), bytes := 2, nibble := none }

/-- The scale pair of the block that element n leads, where it leads one, and what was read. The fetch reads it with
the element (log 35). -/
def State.readPair (s : State) (h : Nat) (b : Binding) (n : Nat) :
    Except (Nat × Word) (List (Nat × Bool) × ReadLog) :=
  if b.ladderM && n % b.block = 0 then
    (s.readPlanes h [b.pairPlace (n / b.block)]).map (fun (xs, d) => ([(xs.getD 0 0, d.any (·.2))], d))
  else .ok ([], [])

/-- What a step of a stream fetch produces: elements, scale pairs, what it read, and the failure that ends the stream
behind them, with its cause and address. -/
structure Produced where
  elems : List StreamElem
  pairs : List (Nat × Bool)
  met : ReadLog
  failure : Option (Nat × Word)
  deriving DecidableEq, Repr

/-- The elements of a raw stream from n on, up to k of them, until one faults. -/
def State.readElems (s : State) (h : Nat) (b : Binding) : Nat → Nat → Produced → Produced
  | 0, _, r => r
  | k + 1, n, r =>
    if b.total ≤ n then r
    else
      match s.readPlanes h (b.places n), s.readPair h b n with
      | .ok (xs, d), .ok (ps, dp) =>
        State.readElems s h b k (n + 1)
          { r with elems := r.elems ++ [{ p0 := xs.getD 0 0, p1 := xs.getD 1 0, p2 := xs.getD 2 0, bad := d.any (·.2) }]
                   pairs := r.pairs ++ ps, met := r.met ++ d ++ dp }
      | .error e, _ => { r with failure := some e }
      | _, .error e => { r with failure := some e }

/-- The scale pairs of the blocks that elements n, n + 1, … lead, k elements in all, with the elements before the first
that cannot be read. -/
def State.readLeads (s : State) (h : Nat) (b : Binding) : Nat → Nat → Produced → Nat × Produced
  | 0, n, r => (n, r)
  | k + 1, n, r =>
    match s.readPair h b n with
    | .ok (ps, d) => s.readLeads h b k (n + 1) { r with pairs := r.pairs ++ ps, met := r.met ++ d }
    | .error e => (n, { r with failure := some e })

/-! ### Compressed streams (R348) -/

/-- Elements that a block of plane p holds. -/
def Binding.perBlock (b : Binding) (p : Nat) : Nat := 512 / b.width p

/-- Elements of the widest block: a group of slices covers so many in every plane. -/
def Binding.groupSize (b : Binding) : Nat :=
  (List.range b.planes).foldl (fun g p => max g (b.perBlock p)) 0

/-- A block put into its place in decode order: rising slice, then rising plane (R348). -/
def insertBlock (e : Nat × Nat) : List (Nat × Nat) → List (Nat × Nat)
  | [] => [e]
  | f :: fs => if e.2 < f.2 || (e.2 = f.2 && e.1 ≤ f.1) then e :: f :: fs else f :: insertBlock e fs

/-- The blocks (plane, slice) whose first element lies from a up to but not including z, in decode order. -/
def Binding.blocksIn (b : Binding) (a z : Nat) : List (Nat × Nat) :=
  ((List.range b.planes).flatMap (fun p =>
    let per := b.perBlock p
    let x0 := (a + per - 1) / per
    (List.range' x0 ((z + per - 1) / per - x0)).map (fun x => (p, x)))).foldr insertBlock []

/-- What the decoding of a group has found: blocks, the least first element of a failed block, and the first failure:
its place in decode order, cause and address. -/
structure Decoded where
  blocks : List (Nat × Nat × List Byte)
  limit : Option Nat
  failure : Option (Nat × Nat × Nat × Word)
  met : ReadLog
  deriving DecidableEq, Repr

/-- One block of a stream fetched and decoded. -/
def State.streamBlock (s : State) (h : Nat) (b : Binding) (p x : Nat) : Fetched × ReadLog :=
  getBlock (s.engineByte h true) (s.engineByte h false) b.base b.replica p x

/-- The blocks of a group decoded in order; a block beyond a failure is not needed. -/
def State.decodeGroup (s : State) (h : Nat) (b : Binding) : List (Nat × Nat) → Decoded → Decoded
  | [], d => d
  | (p, x) :: rest, d =>
    let first := x * b.perBlock p
    let skip := match d.limit with
      | some l => decide (l ≤ first)
      | none => false
    if skip then s.decodeGroup h b rest d
    else
      let note := fun (cause : Nat) (va : Word) (met : ReadLog) =>
        { d with limit := some first, met := d.met ++ met,
                 failure := if d.failure.isSome then d.failure else some (p, x, cause, va) }
      match s.streamBlock h b p x with
      | (.good o, met) => s.decodeGroup h b rest { d with blocks := d.blocks ++ [(p, x, o)], met := d.met ++ met }
      | (.failed at', met) => s.decodeGroup h b rest (note 0 at' met)
      | (.fault va f, met) => s.decodeGroup h b rest (note (fetchCause f) va met)

/-- The first failed block in decode order: one of a later group may come before the one that was found. -/
def State.firstFailure (s : State) (h : Nat) (b : Binding) (z : Nat) (p x cause : Nat) (va : Word) : Nat × Word :=
  let last := (x + 1) * b.groupSize
  let earlier := (b.blocksIn z (min last b.total)).filter (fun (p', x') => x' < x || (x' = x && p' < p))
  (earlier.findSome? (fun (p', x') =>
    match s.streamBlock h b p' x' with
    | (.good _, _) => none
    | (.failed at', _) => some (0, at')
    | (.fault a f, _) => some (fetchCause f, a))).getD (cause, va)

/-- Element n of a plane from decoded blocks. -/
def Decoded.elem (d : Decoded) (b : Binding) (p n : Nat) : Nat :=
  match d.blocks.find? (fun e => e.1 = p && e.2.1 = n / b.perBlock p) with
  | some (_, _, o) => (leNat o >>> (b.width p * (n % b.perBlock p))) % 2 ^ b.width p
  | none => 0

/-- The next group of elements of a compressed stream. -/
def State.nextGroup (s : State) (h : Nat) (b : Binding) : Produced :=
  let a := b.data.length
  let z := min (a + b.groupSize) b.total
  let d := s.decodeGroup h b (b.blocksIn a z) { blocks := [], limit := none, failure := none, met := [] }
  let upto := min z (d.limit.getD z)
  let (n, r) := s.readLeads h b (upto - a) a
    { elems := [], pairs := [], met := d.met
      failure := d.failure.map (fun (p, x, c, va) => s.firstFailure h b z p x c va) }
  { r with elems := (List.range' a (n - a)).map (fun n =>
      ({ p0 := d.elem b 0 n, p1 := d.elem b 1 n, p2 := d.elem b 2 n, bad := false } : StreamElem)) }

/-! ### The stream fetch -/

/-- The stream fetch of binding i of hart h produces up to n further elements (at least one group of a compressed
stream) and writes AVAIL; at the end it writes STATUS and CAUSE and advances the timeline (R233, R237). -/
def State.streamStep (s : State) (h i n : Nat) : State :=
  match (s.hartAt h).binds[i]? with
  | none => s
  | some b =>
    if b.status ≠ 1 then s
    else
      let r := if b.packed then s.nextGroup h b
        else s.readElems h b n b.data.length { elems := [], pairs := [], met := [], failure := none }
      let b' := { b with data := b.data ++ r.elems, pairs := b.pairs ++ r.pairs }
      let s := (s.readBytes h r.met).modBinding h i (fun _ => b')
      let s := s.engineWrite h (b.record + 0x30) (leBytes 4 b'.data.length)
      match r.failure with
      | some (cause, va) =>
        ((s.spendWalk (s.rootOf (s.hartAt h)) va).modBinding h i
          (fun b => { b with status := 3, cause := cause })).endStream h b' 3 cause (some va)
      | none =>
        if b.total ≤ b'.data.length then
          (s.modBinding h i (fun b => { b with status := 2 })).endStream h b' 2 0 none
        else s

/-- The stream fetch runs until a strip of `need` elements is there or the stream has ended. -/
def State.streamUntil : Nat → State → Nat → Nat → Nat → State
  | 0, s, _, _, _ => s
  | k + 1, s, h, i, need =>
    match (s.hartAt h).binds[i]? with
    | none => s
    | some b =>
      if b.status ≠ 1 || need ≤ b.data.length - b.used then s
      else State.streamUntil k (s.streamStep h i (need + b.used - b.data.length)) h i need

/-! ### Delivery (R236) -/

/-- Scale pairs k, k + 1, … of a binding, as many as asked for: those that were produced with their blocks. A reader
whose blocks are smaller than those of VBIND reads those beyond now, and one that cannot be read has a free value
(log 35). The log is of what is read now. -/
def State.pairsFrom (s : State) (h : Nat) (b : Binding) : Nat → Nat → State × List (Nat × Bool) × ReadLog
  | _, 0 => (s, [], [])
  | k, n + 1 =>
    match b.pairs[k]? with
    | some x =>
      let (s, xs, d) := s.pairsFrom h b (k + 1) n
      (s, x :: xs, d)
    | none =>
      match s.readPlanes h [b.pairPlace k] with
      | .ok (xs, d) =>
        let (s, r, d') := s.pairsFrom h b (k + 1) n
        (s, (xs.getD 0 0, d.any (·.2)) :: r, d ++ d')
      | .error _ =>
        let (f, s) := s.takeFresh
        let (s, r, d) := s.pairsFrom h b (k + 1) n
        (s, (Config.freePair f % 65536, false) :: r, d)

/-- The registers of a binding with elements 0 to n−1 delivered, their planes as the stream produced them (R236; DEDUCED,
log 37). -/
def deliverRegs (h : Hart) (b : Binding) (elems : List StreamElem) : Hart :=
  (List.range b.planes).foldl (fun h p =>
    let r := (List.range elems.length).foldl (fun r j =>
      match elems[j]? with
      | none => r
      | some e => setElem r (b.width p) j (match p with
        | 0 => e.p0
        | 1 => e.p1
        | _ => e.p2)) (h.vget (b.reg + 16 * p))
    h.vset (b.reg + 16 * p) r) h

/-- Elements that binding i of the executing hart has produced and not delivered: AVAIL − USED (R236). -/
def State.stripLeft (s : State) (i : Nat) : Nat :=
  ((s.hart.binds[i]?).map (fun b => b.data.length - b.used)).getD 0

/-- The stream of binding i of the executing hart gets ready for a strip of vl elements: as many as it can produce. -/
def State.fetchStrip (s : State) (i vl : Nat) : State := s.streamUntil (vl + 2) s.cur i vl

/-- USED of binding i of the executing hart where the reader of a strip stops with STREAM (R236): n is 0, as it is with
VL = 0, or the strip would begin inside a block. -/
def State.stripStop (s : State) (i vl block : Nat) : Option Nat :=
  match s.hart.binds[i]? with
  | none => none
  | some b =>
    if min vl (b.data.length - b.used) = 0 || (b.ladderM && b.used % block ≠ 0) then some b.used else none

/-- Delivery consumes the poison of damaged elements and pairs, at the places of the elements they belong to (R427,
R428). -/
def Hart.consumeStrip (h : Hart) (b : Binding) (seq block : Nat) (elems : List StreamElem)
    (pairs : List (Nat × Bool)) : Hart :=
  let bad := (List.range elems.length).find? (fun j => ((elems[j]?).map (·.bad)).getD false)
  let badPair := (List.range pairs.length).find? (fun j => ((pairs[j]?).map (·.2)).getD false)
  let h := match bad with
    | some j => h.consume (seq, j) (b.addressOf (b.used + j))
    | none => h
  match badPair with
  | some k => h.consume (seq, k * block) (b.scales + BitVec.ofNat 64 (2 * (b.used / block + k)))
  | none => h

/-- The executing hart's instruction `seq` takes its strip from binding i, which has it ready (R236): the registers are
written, the lower planes of special elements as they were produced (DEDUCED, log 37), and VL is trimmed where the stream ends. -/
def State.takeStrip (s : State) (i vl block seq : Nat) : State :=
  match s.hart.binds[i]? with
  | none => s
  | some b =>
    let n := min vl (b.data.length - b.used)
    let (s, pairs, met) := if b.ladderM then s.pairsFrom s.cur b (b.used / block) ((n + block - 1) / block) else (s, [], [])
    let elems := (b.data.drop b.used).take n
    let s := s.modHart (fun h =>
      let h := deliverRegs h b elems
      let h := if b.ladderM then
          h.vset b.sreg ((List.range pairs.length).foldl (fun r j =>
            setElem r 16 j ((pairs[j]?.map (·.1)).getD 0)) (h.vget b.sreg))
        else h
      let h := h.consumeStrip b seq block elems pairs
      let h := { h with
        binds := h.binds.modify i (fun b => { b with used := b.used + n })
        queue := h.queue.map (fun e => if e.seq = seq then { e with consumed := true } else e) }
      if n < vl then
        let h := h.trim n seq
        if b.status = 3 then h.trimRecord n causeStream seq else h
      else h)
    s.readBytes s.cur met

/-! ### VBIND and VUNBIND -/

/-- The held entries of instructions older than `seq` are performed: the release of R234 and R257. -/
def State.drainOlder (s : State) (h seq : Nat) : State × Bool :=
  let old := (s.hartAt h).entries.filter (fun e => e.seq < seq)
  (s.modHartAt h (fun x =>
    { x with held := x.held.filter (fun e => !(e.seq < seq)), waiting := x.waiting.filter (fun e => !(e.seq < seq)) })
    ).performList old.length h old

/-- The fields of a record as a binding (R233), whose blocks of ladder M have `block` elements (log 35); none where R234
rejects them. -/
def bindingOfRecord (ga : Word) (vd block : Nat) (bound : List Nat) (nbinds : Nat) (bs : List Byte) : Option Binding :=
  let f := fun o n => leNat ((bs.drop o).take n)
  let form := f 0x2C 1
  let ew := form % 8
  let ladder := form / 8 % 4
  let planes := form / 32 % 4 + 1
  let packed := form / 128 = 1
  let b : Binding :=
    { record := ga, reg := vd, base := BitVec.ofNat 64 (f 0 8), stride := BitVec.ofNat 64 (f 8 8),
      pstr := BitVec.ofNat 64 (f 0x10 8), scales := BitVec.ofNat 64 (f 0x18 8), replica := BitVec.ofNat 64 (f 0x20 8),
      total := f 0x28 4, ew := ew, ladder := ladder, planes := planes, packed := packed, sreg := f 0x2D 1 % 64,
      tl := f 0x3A 2, ticket := 0, data := [], block := block, pairs := [], used := 0, status := 1, cause := 0 }
  if f 0x2D 1 / 64 ≠ 0 || f 0x2E 2 ≠ 0 || f 0x3C 4 ≠ 0 || 4 < ew || ladder = 3 || planes = 4
      || (b.stride ≠ 0 && (packed || ladder ≠ 0)) || (b.replica ≠ 0 && !packed) || (ladder = 0 && planes ≠ 1)
      || (15 < vd && (planes ≠ 1 || ladder ≠ 0)) || 47 < b.sreg || b.planeRegs.contains b.sreg
      || b.regs.any (bound.contains ·) || 4 ≤ nbinds
  then none
  else some b

/-- VBIND (R234). A damaged record delivers zero for its damaged bytes and consumes poison, as the access of a committed
vector instruction (DEDUCED, log 86). -/
def vbindMember (c : Ctx) (s : State) (d : BitVec 6) : MRes :=
  let ga := c.q.opa
  if ga.toNat % 64 ≠ 0 then .at s 0 causeAlign ga
  else
    match s.xlate .vector .load ga, s.xlate .vector .store ga with
    | .at loc _, .at _ _ =>
      if !(inDev loc || inSpad loc) then .at s 0 causeAccess ga
      else
        let h := s.hart
        let old := c.behind s
        let (bs, bad) := s.deliver old (s.view old) loc 64
        match bindingOfRecord ga d.toNat (16 <<< blkOf c.q.cap.vcfg) (h.binds.flatMap (·.regs)) h.binds.length bs with
        | none => .at s 0 causeStream ga
        | some b =>
          if b.tl ≠ noTl && 4095 < b.tl then .at s 0 causeAccess ga
          else
            let s := s.commitLoad (c.q.seq, 0) { va := ga, bytes := 64, nibble := none } loc bad
            match s.drainOlder s.cur c.q.seq with
            | (s, false) => .dead s
            | (s, true) =>
              let (t, s) := s.takeTicket b.tl
              let b := { b with ticket := t }
              let s := s.modHart (fun h => { h with binds := h.binds ++ [b], drained := true })
              let s := (s.writeMem (loc + 0x30) (leBytes 4 0)).moves s.cur (loc + 0x30) 4
              let s := (s.writeMem (loc + 0x38) (leBytes 1 1)).moves s.cur (loc + 0x38) 1
              .ok (if b.total = 0 then s.streamStep s.cur (s.hart.binds.length - 1) 0 else s)
    | .at _ _, f => .ofFail s 0 ga f
    | f, _ => .ofFail s 0 ga f

/-- VUNBIND (R238): only the leading register of a binding names it. -/
def vunbindMember (_c : Ctx) (s : State) (d : BitVec 6) : MRes :=
  match s.hart.binds.find? (fun b => b.reg = d.toNat) with
  | none => .ok s
  | some b =>
    .ok ((s.unbind s.cur b).modHart (fun h =>
      { h with binds := h.binds.filter (fun x => x.reg ≠ d.toNat), drained := true }))

end Sys2Proof.Machine
end

