-- ==== Sys2Proof/Machine/Engines.lean ====
section
/-! DEFINITION. The copy engine (R264 to R267): its operations, the descriptor, CPYG as a member of a convoy, and the
performance of an operation as one step. -/

namespace Sys2Proof.Machine

/-- The translation root of a launch that is not complete; 0 otherwise (R333). -/
def State.rootOfSerial (s : State) (serial : BitVec 32) : Nat := ((s.launchOf serial).map (·.root)).getD 0

/-! ### Descriptors (R265) -/

/-- A copy descriptor as read. -/
structure Desc where
  dst : Word
  dstride : Word
  src : Word
  sstride : Word
  idx : Nat
  count : Nat
  rowBytes : Nat
  tl : Nat
  idxw : Nat
  bad : Bool
  deriving DecidableEq, Repr

/-- A descriptor's bytes as fields, and whether any breaks its limits; `listed` is CPYX. -/
def descOf (listed : Bool) (bs : List Byte) : Desc :=
  let f := fun o n => leNat ((bs.drop o).take n)
  let idx := f 0x20 8
  let count := f 0x28 4
  let rb := f 0x2C 4
  let tl := f 0x30 2
  let w := f 0x32 1
  { dst := BitVec.ofNat 64 (f 0 8), dstride := BitVec.ofNat 64 (f 8 8), src := BitVec.ofNat 64 (f 0x10 8),
    sstride := BitVec.ofNat 64 (f 0x18 8), idx := idx, count := count, rowBytes := rb, tl := tl, idxw := w,
    bad := f 0x33 1 ≠ 0 || f 0x3C 4 ≠ 0 || rb = 0 || 1048576 < rb || (4095 < tl && tl ≠ noTl)
      || (if listed then 2 ^ 24 < count || 1 < w || idx % (if w = 0 then 4 else 8) ≠ 0
          else idx ≠ 0 || count ≠ 0 || w ≠ 0) }

/-- The timeline of a descriptor: none where its number is out of limits. -/
def Desc.timeline (d : Desc) : Nat := if 4095 < d.tl then noTl else d.tl

/-- A copy operation of the executing hart is issued: its ticket. -/
def State.issueCopy (s : State) (tl : Nat) (kind : CopyKind) : Nat × State :=
  let (t, s) := s.takeTicket tl
  let serial := (s.hart.place.map (·.serial)).getD 0
  (t, s.modCore (coreOf s.cur) (fun c =>
    { c with copies := c.copies ++
        [{ hart := s.cur, place := s.hart.place, serial := serial, tl := tl, ticket := t, kind := kind }] }))

/-! ### Performing an operation -/

/-- A read or write of an engine that runs beside core `core` in a launch's address space: the location, or the engine
error code (R260, R467). -/
def State.engineLoc (s : State) (core root : Nat) (acc : Acc) (va : Nat) (who : Who := .engine) : Except Nat Nat :=
  match s.translate core root false who acc (BitVec.ofNat 64 va) with
  | .at loc _ => .ok loc
  | .fault c => .error (if c = causeAccess then 2 else 1)
  | .damaged => .error 1

/-- Bytes written by an engine for a hart, or the error (code, address) with which its operation ends (R260). -/
def State.engineStore (s : State) (hart root : Nat) (va : Nat) (bs : List Byte) (who : Who := .engine) :
    State × Option (Nat × Nat) :=
  match s.engineLoc (coreOf hart) root .store va who with
  | .ok loc => ((s.writeMem loc bs).moves hart loc bs.length, none)
  | .error c => (s.spendWalk root (BitVec.ofNat 64 va), some (c, va))

/-- Damage in transit in the walks of failing accesses is used up (R467). -/
def State.spendFaults (s : State) (root : Nat) (fs : List (Nat × Nat)) : State :=
  fs.foldl (fun s f => s.spendWalk root (BitVec.ofNat 64 f.1)) s

/-- Pieces of a copy of n bytes that stay within one page at both ends: source, destination, length. -/
def copyPieces : Nat → Nat → Nat → Nat → List (Nat × Nat × Nat)
  | 0, _, _, _ => []
  | k + 1, src, dst, n =>
    if n = 0 then []
    else
      let m := min n (min (4096 - src % 4096) (4096 - dst % 4096))
      (src, dst, m) :: copyPieces k ((src + m) % 2 ^ 64) ((dst + m) % 2 ^ 64) (n - m)

/-- The pieces of a copy: a new one at each page boundary that either end crosses. -/
def piecesOf (src dst n : Nat) : List (Nat × Nat × Nat) := copyPieces (2 * (n / 4096 + 2)) src dst n

/-- The faults of a piece: address and code. -/
def State.pieceFaults (s : State) (hart root : Nat) (p : Nat × Nat × Nat) : List (Nat × Nat) :=
  (match s.engineLoc (coreOf hart) root .load p.1 with
   | .error c => [(p.1, c)]
   | .ok _ => []) ++
  (match s.engineLoc (coreOf hart) root .store p.2.1 with
   | .error c => [(p.2.1, c)]
   | .ok _ => [])

/-- The fault with the lowest address. -/
def lowestFault : List (Nat × Nat) → Option (Nat × Nat)
  | [] => none
  | f :: fs =>
    match lowestFault fs with
    | none => some f
    | some g => if g.1 < f.1 then some g else some f

/-- Bytes copied from one location to another; damaged source bytes mark the granules that receive them (R426). -/
def State.copyBytes (s : State) (src dst n : Nat) : State :=
  let bad := (List.range n).filter (fun i => s.damagedAt (src + i))
  let s' := (s.writeMem dst (s.readMem src n)).spendTransit src n
  bad.foldl (fun s i => s.markPoison (dst + i)) s'

/-- A piece copied. -/
def State.copyPiece (s : State) (hart root : Nat) (p : Nat × Nat × Nat) : State :=
  match s.engineLoc (coreOf hart) root .load p.1, s.engineLoc (coreOf hart) root .store p.2.1 with
  | .ok a, .ok b => ((s.copyBytes a b p.2.2).moves hart a p.2.2).moves hart b p.2.2
  | _, _ => s

/-- A piece of a copy that met a fault: each byte keeps its old value or takes its source byte (R264, R267). -/
def State.copyFree (s : State) (hart root : Nat) (p : Nat × Nat × Nat) : State :=
  match s.engineLoc (coreOf hart) root .load p.1, s.engineLoc (coreOf hart) root .store p.2.1 with
  | .ok a, .ok b =>
    (List.range p.2.2).foldl (fun s i =>
      let (n, s) := s.takeFresh
      if Config.freeBool n then ((s.copyBytes (a + i) (b + i) 1).moves hart (a + i) 1).moves hart (b + i) 1 else s) s
  | _, _ => s

/-- A plain copy performed: the machine, with the error (code, address) it ends with. -/
def State.copyPlain (s : State) (hart root dst src len : Nat) : State × Option (Nat × Nat) :=
  if len = 0 then (s, none)
  else if meets src len dst len then (s, some (3, 0))
  else
    let ps := piecesOf src dst len
    let fs := ps.flatMap (s.pieceFaults hart root)
    match lowestFault fs with
    | none => (ps.foldl (fun s p => s.copyPiece hart root p) s, none)
    | some (a, c) => (ps.foldl (fun s p => s.copyFree hart root p) (s.spendFaults root fs), some (c, a))

/-- The pieces of position j with row number r. -/
def rowCopy (dst dstride src sstride : Word) (rb : Nat) (r : Nat × Word) : List (Nat × Nat × Nat) :=
  piecesOf (src + r.2 * sstride).toNat (dst + BitVec.ofNat 64 r.1 * dstride).toNat rb

/-- The bounding range of some rows, as first address and length. -/
def bounds (rb : Nat) : List Nat → Nat × Nat
  | [] => (0, 0)
  | a :: as =>
    let lo := as.foldl min a
    let hi := as.foldl max a
    (lo, hi + rb - lo)

/-- Rows copied (R265, R267): STATUS, FAILPOS and the error. -/
def State.copyRows (s : State) (hart root : Nat) (dst dstride src sstride : Word) (rb : Nat) (rows : List (Nat × Word)) :
    State × Nat × Nat × Option (Nat × Nat) :=
  let ds := bounds rb (rows.map (fun r => (dst + BitVec.ofNat 64 r.1 * dstride).toNat))
  let ss := bounds rb (rows.map (fun r => (src + r.2 * sstride).toNat))
  if !rows.isEmpty && meets ds.1 ds.2 ss.1 ss.2 then (s, 4, 0, some (3, 0))
  else
    let faults := fun (r : Nat × Word) => (rowCopy dst dstride src sstride rb r).flatMap (s.pieceFaults hart root)
    match rows.find? (fun r => !(faults r).isEmpty) with
    | none =>
      (rows.foldl (fun s r => (rowCopy dst dstride src sstride rb r).foldl (fun s p => s.copyPiece hart root p) s) s,
       0, 0, none)
    | some f =>
      (rows.foldl (fun s r => (rowCopy dst dstride src sstride rb r).foldl (fun s p =>
          if r.1 < f.1 then s.copyPiece hart root p else s.copyFree hart root p) s) (s.spendFaults root (faults f)),
       3, f.1, (lowestFault (faults f)).map (fun (a, c) => (c, a)))

/-- The index list of CPYX: row numbers, or the first fault (R267). Damaged bytes count as they stand (DESIGN CHOICE,
log 94). -/
def State.readIndices (s : State) (hart root : Nat) (signed : Bool) (idx : Nat) : Nat → Nat →
    Except (Nat × Nat) (List (Nat × Word))
  | 0, _ => .ok []
  | k + 1, j =>
    let w := if signed then 8 else 4
    let va := (idx + w * j) % 2 ^ 64
    match s.engineLoc (coreOf hart) root .load va with
    | .error c => .error (c, va)
    | .ok loc => (s.readIndices hart root signed idx k (j + 1)).map (fun r =>
        (j, BitVec.ofNat 64 (leNat (s.readMem loc w))) :: r)

/-- STATUS and FAILPOS written to a descriptor at the end of an operation; a store that fails is the operation's error
where it has none yet (R260). -/
def State.putStatus (s : State) (hart root desc status failpos : Nat) (e : Option (Nat × Nat)) :
    State × Option (Nat × Nat) :=
  let (s, e') := s.engineStore hart root (desc + 0x34) (leBytes 4 status ++ leBytes 4 failpos)
  (s, e <|> e')

/-- The index list of CPYX has been read up to its first fault: its bytes were moved (R458), and damage in transit among
them is used up (R424). -/
def State.movedIndices (s : State) (hart root : Nat) (signed : Bool) (idx : Nat) : Nat → Nat → State
  | 0, _ => s
  | k + 1, j =>
    let w := if signed then 8 else 4
    match s.engineLoc (coreOf hart) root .load ((idx + w * j) % 2 ^ 64) with
    | .ok loc => ((s.spendTransit loc w).moves hart loc w).movedIndices hart root signed idx k (j + 1)
    | .error _ => s

/-- A copy operation performed: the machine with its effects and STATUS, and the error (code, address) it ends with. -/
def State.performCopy (s : State) (op : CopyOp) : State × Option (Nat × Nat) :=
  let hart := op.hart
  let root := s.rootOfSerial op.serial
  match op.kind with
  | .bytes dst src len => s.copyPlain hart root dst src len
  | .bad desc => s.putStatus hart root desc 1 0 (some (4, desc))
  | .rows desc dst dstride src sstride rb rows =>
    let (s, st, fp, e) := s.copyRows hart root dst dstride src sstride rb rows
    s.putStatus hart root desc st fp e
  | .listed desc dst dstride src sstride rb idx count signed =>
    match s.readIndices hart root signed idx count 0 with
    | .error (c, a) =>
      ((s.movedIndices hart root signed idx count 0).spendFaults root [(a, c)]).putStatus hart root desc 2 0 (some (c, a))
    | .ok rows =>
      let (s, st, fp, e) := (s.movedIndices hart root signed idx count 0).copyRows hart root dst dstride src sstride rb rows
      s.putStatus hart root desc st fp e

/-- A copy operation is performed and finishes: an error names it with kind 0 (R259, R264). -/
def State.endCopy (s : State) (op : CopyOp) : State :=
  let (s, e) := s.performCopy op
  s.finishTicket op.tl op.ticket (e.map (fun (code, a) => (code, 0, BitVec.ofNat 64 a)))

/-- Bytes moved for the rank at a place that is on hart h no more (R458): they count with its context, or with what its
stay on the hearth leaves to be charged, or in the launch's next charge. -/
def State.creditMoved (s : State) (h : Nat) (p : Option Place) (m : Moved) : State :=
  match p with
  | none => s
  | some p =>
    if s.contexts.any (fun x => x.place = some p) then
      s.mapContexts (fun x => if x.place = some p then { x with moved := x.moved.plus m } else x)
    else
      s.modHearth (hearthOf h) (fun k => { k with stays := k.stays ++
        [{ place := p, ns := 0, activity := 0, moved := m, paid := false }] })

/-- An operation of an engine that was issued on hart h by the rank at a place: the bytes it moves are that rank's,
wherever it is now (R458). -/
def State.forPlace (s : State) (h : Nat) (p : Option Place) (f : State → State) : State :=
  let x := s.hartAt h
  let t := f s
  if x.place = p then t
  else
    let m := (t.hartAt h).moved.since x.moved
    (t.modHartAt h (fun y => { y with moved := x.moved })).creditMoved h p m

/-- Operation k of the copy engine of core c is performed and finishes (R264). -/
def State.finishCopy (s : State) (c k : Nat) : State :=
  match ((s.core c).copies)[k]? with
  | none => s
  | some op =>
    (s.modCore c (fun x => { x with copies := x.copies.eraseIdx k })).forPlace op.hart op.place (fun s => s.endCopy op)

/-- A copy operation of the executing hart that finishes at once: its ticket. -/
def State.copyAtOnce (s : State) (tl : Nat) (kind : CopyKind) : Nat × State :=
  let (t, s) := s.takeTicket tl
  (t, s.endCopy { hart := s.cur, place := s.hart.place, serial := (s.hart.place.map (·.serial)).getD 0, tl := tl, ticket := t, kind := kind })

/-- CPYG (R266): positions are the written elements, row numbers the elements of vc; with none the operation
finishes at once. The operand is ga. -/
def cpygMember (c : Ctx) (s : State) (g : BitVec 5) (v : BitVec 6) : MRes :=
  let ga := c.q.opa
  if ga.toNat % 64 ≠ 0 then .at s 0 causeAlign ga
  else
    match s.xlate .vector .load ga with
    | .at loc _ =>
      if !(inDev loc || inSpad loc) then .at s 0 causeAccess ga
      else
        let h := s.hart
        let old := c.behind s
        let (bs, bad) := s.deliver old (s.view old) loc 64
        let d := descOf false bs
        let vc := h.vget v.toNat
        let s := s.commitLoad (c.q.seq, 0) { va := ga, bytes := 64, nibble := none } loc bad
        match s.drainOlder s.cur c.q.seq with
        | (s, false) => .dead s
        | (s, true) =>
          let rows := ((List.range c.vl).filter c.on).map (fun i => (i, BitVec.ofNat 64 (elemOf vc c.bits i)))
          let kind : CopyKind :=
            if d.bad then .bad ga.toNat else .rows ga.toNat d.dst d.dstride d.src d.sstride d.rowBytes rows
          let (t, s) := if !d.bad && rows.isEmpty then s.copyAtOnce d.timeline kind else s.issueCopy d.timeline kind
          .ok ((s.gset g.toNat (BitVec.ofNat 64 t)).modHart (fun h => { h with drained := true }))
    | f => .ofFail s 0 ga f

end Sys2Proof.Machine
end

