-- ==== Sys2Proof/Machine/Tile.lean ====
section
/-! DEFINITION. Class 13 as members of a convoy: tile grants, clears, outer products, slice moves and tiles in memory
(R239 to R255, R140). -/

namespace Sys2Proof.Machine

/-! ### Tiles as data -/

/-- Field i of w bits of a number. -/
def bitsOf (x w i : Nat) : Nat := (x >>> (w * i)) % 2 ^ w

/-- A number with field i of w bits replaced. -/
def putBits (x w i v : Nat) : Nat := x - (bitsOf x w i <<< (w * i)) + ((v % 2 ^ w) <<< (w * i))

/-- Row i of a tile: 96 words of 32 bits. -/
def tileRow (t : Tile) (i : Nat) : Nat := bitsOf t.toNat 3072 i

/-- A tile with row i replaced. -/
def setTileRow (t : Tile) (i row : Nat) : Tile := BitVec.ofNat 393216 (putBits t.toNat 3072 i row)

/-- T(i, j) (R20). -/
def tileAt (t : Tile) (i j : Nat) : Nat := bitsOf (tileRow t i) 32 j

/-- Tile tj of a hart. -/
def Hart.tile (h : Hart) (j : Nat) : Tile := (h.tiles[j]?).getD 0

/-- A hart with tile tj replaced. -/
def Hart.setTile (h : Hart) (j : Nat) (t : Tile) : Hart := { h with tiles := h.tiles.set j t }

/-- Tiles of a core that no hart holds (R241, R242). -/
def State.freeTiles (s : State) (core : Nat) : Nat :=
  4 - (List.range 4).foldl (fun n i =>
    let h := s.hartAt (4 * core + i)
    n + h.tiles.length + h.keptTiles) 0

/-- The check of R243: the highest tile named must be granted, or the instruction stops at element 0, whatever element a
replay starts from. An older member's stop at element 0 comes first (R191). -/
def withTiles (c : Ctx) (s : State) (top : Nat) (k : MRes) : MRes :=
  if s.hart.tiles.length ≤ top && 0 < c.hi then .at s 0 causeTileOff (BitVec.ofNat 64 top) else k

/-- The rows of a tile that an instruction without governing predicate acts on: those with U ≤ i < VL are annulled
(R239). -/
def Ctx.rows (c : Ctx) : List Nat := (List.range 128).filter (fun i => !(c.u ≤ i && i < c.vl))

/-! ### Grants -/

/-- MATTACH (R241). -/
def mattachMember (_c : Ctx) (s : State) (n : BitVec 3) : MRes :=
  let k := s.hart.tiles.length
  .ok (s.modHart (fun h =>
    { h with tiles := h.tiles ++ List.replicate (min (n.toNat - k) (s.freeTiles (coreOf s.cur))) 0 }))

/-- MDETACH (R242): within a rewindable strip the released tiles are kept from other harts until it closes. -/
def mdetachMember (_c : Ctx) (s : State) : MRes :=
  .ok (s.modHart (fun h =>
    { h with tiles := [], keptTiles := if h.stripK && !h.drained then h.keptTiles + h.tiles.length else h.keptTiles }))

/-- MZERO (R245). -/
def mzeroMember (c : Ctx) (s : State) (t : BitVec 2) : MRes :=
  withTiles c s t.toNat (.ok (s.modHart (fun h =>
    h.setTile t.toNat (c.rows.foldl (fun x i => setTileRow x i 0) (h.tile t.toNat)))))

/-! ### Outer products -/

/-- Width and depth of the operands of a format (R246). -/
def mxShape (f : Nat) : Nat × Nat :=
  match f with
  | 0 => (32, 1)
  | 1 => (64, 1)
  | 2 => (16, 1)
  | 3 => (16, 1)
  | 8 => (16, 4)
  | _ => (16, 2)

/-- The value format of a row or column operand (R108, R246). -/
def mxFmt (f : Nat) (column : Bool) : Fmt :=
  match f with
  | 0 => fp32
  | 1 => fp64
  | 2 => bf16
  | 3 => fp16
  | 4 => e4m3
  | 5 => e5m2
  | 6 => if column then e5m2 else e4m3
  | 7 => if column then e4m3 else e5m2
  | _ => e2m1

/-- Value q of an operand element times its block's scale (R246, R248). -/
def mxValue (f : Nat) (column : Bool) (pair elem q : Nat) : Val :=
  let fm := mxFmt f column
  let code := bitsOf elem fm.bits q
  if f = 8 then decodeM e2m1 code pair
  else if scaleOf pair = 255 then .nan
  else scaleVal ((scaleOf pair : Int) - 127) (decodeF fm code)

/-- Is a value this infinity? -/
def isInfOf (neg : Bool) : Val → Bool
  | .inf a => a == neg
  | _ => false

/-- The exact dot product of R247, its terms negated for MXSUB; infinities of opposite sign among the terms are
invalid. -/
def mxDot (sub : Bool) (xs ys : List Val) : Val × Nat :=
  let terms := (xs.zip ys).map (fun (x, y) => mulVal (if sub then negVal x else x) y)
  let flags := terms.foldl (fun acc t => acc ||| t.2) 0
  let clash := terms.any (fun t => isInfOf true t.1) && terms.any (fun t => isInfOf false t.1)
  let sum := match terms with
    | [] => Val.fin false 0 0
    | t :: ts => ts.foldl (fun acc t => (addVal .rne acc t.1).1) t.1
  (sum, if clash then flags ||| flagNV else flags)

/-- One accumulator element updated (R140, R247). -/
def mxUpdate (fm : Fmt) (old : Nat) (d : Val × Nat) : Nat × Nat :=
  let (r, fl) := roundPair fm .rne (addVal .rne (decodeF fm old) d.1)
  (r, fl ||| d.2)

/-- One row of the update of R247: `old` holds the row's elements, one after the other. -/
def mxRow (fm : Fmt) (ncol : Nat) (on : Nat → Bool) (d : Nat → Val × Nat) (old : Nat) : Nat × Nat :=
  (List.range ncol).foldl (fun (row, fl) j =>
    if on j then
      let (x, f) := mxUpdate fm (bitsOf row fm.bits j) (d j)
      (putBits row fm.bits j x, fl ||| f)
    else (row, fl)) (old, 0)

/-- The accumulator row i: of td, or of td and td+1 side by side for FP64 (R249). -/
def accRow (h : Hart) (t : Nat) (wide : Bool) (i : Nat) : Nat :=
  if wide then tileRow (h.tile t) i + (tileRow (h.tile (t + 1)) i <<< 3072) else tileRow (h.tile t) i

/-- An accumulator row written. -/
def setAccRow (h : Hart) (t : Nat) (wide : Bool) (i row : Nat) : Hart :=
  let h := h.setTile t (setTileRow (h.tile t) i (row % 2 ^ 3072))
  if wide then h.setTile (t + 1) (setTileRow (h.tile (t + 1)) i (row >>> 3072)) else h

/-- MXACC and MXSUB (R247 to R251). -/
def mxMember (c : Ctx) (s : State) (t : BitVec 2) (a b : BitVec 6) (f : BitVec 4) (scaled : BitVec 1) (sub : Bool) :
    MRes :=
  let wide := f = 1
  let top := t.toNat + b2n wide
  let (ow, k) := mxShape f.toNat
  let fm := if wide then fp64 else fp32
  let h := s.hart
  let ms := c.q.cap.mscale
  let cp := h.pget (fld ms 24 5)
  let va := h.vget a.toNat
  let vb := h.vget b.toNat
  let pair := fun (sb : Bool) i => if scaled = 1 then scalePair h ms sb (i / c.block) else 0x7F
  let ncol := fld ms 16 7
  let values := fun (column : Bool) (v : VReg) i =>
    (List.range k).map (fun q => mxValue f.toNat column (pair column i) (elemOf v ow i) q)
  let columns := (List.range ncol).map (values true vb)
  withTiles c s top (.ok (c.elems.foldl (fun s i =>
    if c.on i then
      let row := values false va i
      let (x, fl) := mxRow fm ncol (fun j => !bit ms 29 || cp.getLsbD j)
        (fun j => mxDot sub row ((columns[j]?).getD [])) (accRow s.hart t.toNat wide i)
      (s.modHart (fun h => setAccRow h t.toNat wide i x)).addFlags fl
    else s) s))

/-- MXACC. -/
def mxaccMember (c : Ctx) (s : State) (t : BitVec 2) (a b : BitVec 6) (f : BitVec 4) (scaled : BitVec 1) : MRes :=
  mxMember c s t a b f scaled false

/-- MXSUB. -/
def mxsubMember (c : Ctx) (s : State) (t : BitVec 2) (a b : BitVec 6) (f : BitVec 4) (scaled : BitVec 1) : MRes :=
  mxMember c s t a b f scaled true

/-! ### Slices -/

/-- MROWV (R253): the row index is the operand. -/
def mrowvMember (c : Ctx) (s : State) (t : BitVec 2) (d : BitVec 6) : MRes :=
  withTiles c s t.toNat (.ok (s.putV d.toNat (c.mapElems (s.hart.vget d.toNat) 32 (fun i =>
    (tileAt (s.hart.tile t.toNat) c.q.opa.toNat i, 0)))))

/-- MCOLV (R253): the column index is the operand. -/
def mcolvMember (c : Ctx) (s : State) (t : BitVec 2) (d : BitVec 6) : MRes :=
  withTiles c s t.toNat (.ok (s.putV d.toNat (c.mapElems (s.hart.vget d.toNat) 32 (fun i =>
    (tileAt (s.hart.tile t.toNat) i c.q.opa.toNat, 0)))))

/-- MVROW (R253). -/
def mvrowMember (c : Ctx) (s : State) (t : BitVec 2) (a : BitVec 6) : MRes :=
  let va := s.hart.vget a.toNat
  let x := c.q.opa.toNat
  withTiles c s t.toNat (.ok (s.modHart (fun h =>
    h.setTile t.toNat (setTileRow (h.tile t.toNat) x (c.elems.foldl (fun row i =>
      if c.on i then putBits row 32 i (elemOf va 32 i) else row) (tileRow (h.tile t.toNat) x))))))

/-! ### Tiles in memory (R254) -/

/-- The pieces of a 384-byte row: one, or two where it spans two pages. -/
def rowPieces (va : Word) : List (Word × Nat) :=
  let room := 4096 - va.toNat % 4096
  if 384 ≤ room then [(va, 384)] else [(va, room), (va + BitVec.ofNat 64 room, 384 - room)]

/-- The pieces of a row checked in rising address order: locations, or the first failing address. -/
def State.checkRow (s : State) (acc : Acc) : List (Word × Nat) → Except (Word × Xlate) (List (Nat × Nat))
  | [] => .ok []
  | (va, n) :: ps =>
    match s.xlate .vector acc va with
    | .at loc _ => (s.checkRow acc ps).map (fun r => (loc, n) :: r)
    | f => .error (va, f)

/-- All rows of an instruction checked, rising. -/
def State.checkRows (s : State) (acc : Acc) (base : Word) : List Nat →
    Except (Word × Xlate) (List (Nat × List (Nat × Nat)))
  | [] => .ok []
  | i :: is => do
    let ps ← s.checkRow acc (rowPieces (base + BitVec.ofNat 64 (384 * i)))
    let rest ← s.checkRows acc base is
    pure ((i, ps) :: rest)

/-- MTST (R254): one held entry for each row. -/
def mtstMember (c : Ctx) (s : State) (t : BitVec 2) : MRes :=
  let a := c.q.opa
  withTiles c s t.toNat (
    if a.toNat % 64 ≠ 0 then .at s 0 causeAlign a
    else
      match s.checkRows .store a c.rows with
      | .error (va, f) => .ofFail s 0 va f
      | .ok rows =>
        let tile := s.hart.tile t.toNat
        let r := enterAll s (hebCapacity c.q.cap.heblim) (rows.map (fun (i, ps) =>
          { seq := c.q.seq, elem := i, vector := true, kind := .store, size := 5, high := false,
            scope := BitVec.ofNat 2 (scopeOf c.q.cap.vcfg), ew := 0, fmt := 0,
            va := s.heldVa (a + BitVec.ofNat 64 (384 * i)), locs := ps, bytes := leBytes 384 (tileRow tile i),
            addends := [] }))
        if r.2 then .ok r.1 else .dead r.1)

/-- The words of a row that are damaged consume poison, rising (R428). -/
def State.consumeRow (s : State) (old : Hart) (at' : Nat × Nat) (va : Word) (ps : List (Nat × Nat)) : State :=
  (ps.foldl (fun (r : State × Nat) p =>
    ((List.range (p.2 / 4)).foldl (fun s w =>
      let bad := (List.range 4).any (fun i => s.readsDamaged old none (p.1 + 4 * w + i))
      if bad then (s.modHart (fun h => h.consume at' (va + BitVec.ofNat 64 (r.2 + 4 * w)))).spendTransit (p.1 + 4 * w) 4
      else s) r.1,
     r.2 + p.2)) (s, 0)).1

/-- The annulled rows of an instruction without governing predicate (R239). -/
def Ctx.annulledRows (c : Ctx) : List Nat := (List.range 128).filter (fun i => c.u ≤ i && i < c.vl)

/-- The annulled rows of an MTLD that would have faulted are recorded (R187). -/
def Ctx.suppressRows (c : Ctx) (s : State) (a : Word) : State :=
  c.annulledRows.foldl (fun s i =>
    match s.checkRow .load (rowPieces (a + BitVec.ofNat 64 (384 * i))) with
    | .error (va, f) => s.suppressFault i c.q.seq va f
    | .ok _ => s) s

/-- MTLD (R254). -/
def mtldMember (c : Ctx) (s : State) (t : BitVec 2) : MRes :=
  let a := c.q.opa
  withTiles c s t.toNat (
    if a.toNat % 64 ≠ 0 then .at s 0 causeAlign a
    else
      match s.checkRows .load a c.rows with
      | .error (va, f) => .ofFail s 0 va f
      | .ok rows =>
        let old := c.behind s
        let view := s.view old
        let tile := rows.foldl (fun x (i, ps) =>
          setTileRow x i (leNat (ps.flatMap (fun p => (s.deliver old view p.1 p.2).1)))) (s.hart.tile t.toNat)
        let s := (c.suppressRows s a).modHart (fun h => h.setTile t.toNat tile)
        let s := rows.foldl (fun s (_, ps) => ps.foldl (fun s p => s.moves s.cur p.1 p.2) s) s
        .ok (if s.poison.isEmpty && s.transit.isEmpty then s
          else rows.foldl (fun s (i, ps) => s.consumeRow old (c.q.seq, i) (a + BitVec.ofNat 64 (384 * i)) ps) s))

end Sys2Proof.Machine
end

