-- ==== Sys2Proof/Machine/Token.lean ====
section
/-! DEFINITION. Class 15: the mixer, the records and images its instructions read, and VSAMPLE, VPEN, GMASK and VHLOOK
as members of a convoy (R283 to R302, R395 to R401). -/

namespace Sys2Proof.Machine

/-! ### Reading records -/

/-- Why an instruction that reads records stops before any effect: a trap, or a table entry that cannot be read. -/
inductive TErr where
  | fault (cause : Nat) (val : Word)
  | damaged (va : Word)
  deriving DecidableEq, Repr

/-- What the reads of an instruction see: the machine, who reads, the hart with the held entries they see, and memory
behind those (R153). -/
structure Src where
  s : State
  who : Who
  old : Hart
  view : List Host.Cell

/-- An access that read n bytes at an address and location, and whether it found damaged data. -/
structure TRead where
  va : Word
  loc : Nat
  n : Nat
  bad : Bool
  deriving DecidableEq, Repr

/-- A computation that reads memory: it stops, or gives a value with the accesses it made, latest first. -/
abbrev TM (α : Type) := StateT (List TRead) (Except TErr) α

/-- A stop. -/
def tfail {α : Type} (e : TErr) : TM α := fun _ => .error e

/-- The ACCESS stop of a field outside its limits: the address of the structure that holds it (R283, R285). -/
def tbad {α : Type} (at' : Word) : TM α := tfail (.fault causeAccess at')

/-- A structure that must be aligned (R283, R285). -/
def taligned (va : Word) (n : Nat) : TM Unit := if va.toNat % n = 0 then pure () else tfail (.fault causeAlign va)

/-- The location of an access of n bytes after its checks (R151, R219). -/
def tcheck (x : Src) (acc : Acc) (va : Word) (n : Nat) : TM Nat :=
  if va.toNat % n ≠ 0 then tfail (.fault causeAlign va)
  else
    match x.s.xlate x.who acc va with
    | .at loc _ => pure loc
    | .fault c => tfail (.fault c va)
    | .damaged => tfail (.damaged va)

/-- One load of n bytes as a number. -/
def tread (x : Src) (va : Word) (n : Nat) : TM Nat := do
  let loc ← tcheck x .load va n
  let (bs, bad) := x.s.deliver x.old x.view loc n
  modify (fun l => { va := va, loc := loc, n := n, bad := bad } :: l)
  pure (leNat bs)

/-- Loads of n bytes at consecutive addresses. -/
def treads (x : Src) (va : Word) (n : Nat) : Nat → TM (List Nat)
  | 0 => pure []
  | k + 1 => do
    let v ← tread x va n
    let vs ← treads x (va + BitVec.ofNat 64 n) n k
    pure (v :: vs)

/-- The accesses of an instruction at a place in program order have committed (R427, R428, R458). -/
def State.commitAll (s : State) (at' : Nat × Nat) (l : List TRead) : State :=
  l.foldr (fun x s => s.commitLoad at' { va := x.va, bytes := x.n, nibble := none } x.loc x.bad) s

/-- A V instruction of class 15: it stops at element 0 before any effect, or commits all its effects (R283). -/
def tokenMember {α : Type} (c : Ctx) (s : State) (m : Src → TM α) (k : State → α → State) : MRes :=
  let old := c.behind s
  match m { s := s, who := .vector, old := old, view := s.view old } [] with
  | .error (.fault cause va) => .at s 0 cause va
  | .error (.damaged va) => .kills s 0 va
  | .ok (a, l) => .ok (k (s.commitAll (c.q.seq, 0) l) a)

/-! ### The mixer (R286) -/

/-- ROTL(k, n). -/
def rotl64 (k : Nat) (n : Nat) : Nat := (k <<< n) % 2 ^ 64 + (k % 2 ^ 64) >>> (64 - n)

/-- MIX(k, x) (R286). -/
def mix (k x : Nat) : Nat :=
  let w := 2 ^ 64
  let z := (x ^^^ k) % w
  let z := (z * 0xA3C59AC28E1B7D53) % w
  let z := z ^^^ (z >>> 32)
  let z := (z + rotl64 k 23) % w
  let z := (z * 0x8F2B54D1C3A6E96B) % w
  let z := z ^^^ (z >>> 29)
  let z := (z * 0xE7F35A19B64D0C2B) % w
  z ^^^ (z >>> 32)

/-! ### VSAMPLE (R287 to R289) -/

/-- e^(−1/16) × 2^128. -/
def expM16 : Nat := 0xf07d5fde38151e72f18ff03049ac5d7f

/-- T[j] of R288: the nearest integer to 2^31 × e^(−j/16). -/
def sampleWeight (j : Nat) : Nat := (2 ^ 31 * expM16 ^ j + 2 ^ (128 * j) / 2) / 2 ^ (128 * j)

/-- The weight W of a logit x against the greatest m (R289). -/
def logitWeight (m invt x : Val) : Nat :=
  let same := eqVal x m
  let z := if same then Val.fin false 0 0 else decodeF fp32 (roundPair fp32 .rne (addVal .rne x (negVal m))).1
  let y := if same || eqVal z (.fin false 0 0) || eqVal invt (.fin false 0 0) then Val.fin false 0 0
    else decodeF fp32 (roundPair fp32 .rne (mulVal z invt)).1
  let y := if ltVal y (.fin true 64 0) then Val.fin true 64 0 else y
  match y with
  | .fin _ a e =>
    let q := (roundAt .rne false a (e + 16) 0).1
    let j := q / 4096
    let f := q / 64 % 64
    sampleWeight j - (sampleWeight j - sampleWeight (j + 1)) * f / 64
  | _ => 0

/-- Running sums. -/
def runningSums (acc : Nat) : List Nat → List Nat
  | [] => []
  | x :: xs => (acc + x) :: runningSums (acc + x) xs

/-- The draw of R289: STATUS, INDEX and TOKEN. -/
def sampleDraw (c : Ctx) (va vb : VReg) (r : List Nat) : Nat × Nat × Nat :=
  let w := fun k => r.getD k 0
  let invtBits := w 3 % 2 ^ 32
  let topp := w 3 / 2 ^ 32
  let udir := w 4 % 2 ^ 32
  let flags := w 4 / 2 ^ 32
  let invt := decodeF fp32 invtBits
  let badInvt := isNan invt || ltVal invt (.fin false 0 0)
  if 1 < flags || (r.drop 5).any (· ≠ 0) || badInvt then (2, 0x1FFF, 0xFFFFFFFF)
  else
    let x := fun i => decodeF fp32 (elemOf va 32 i)
    let is := (List.range c.vl).filter (fun i => c.on i && !isNan (x i) && x i ≠ .inf true)
    match is with
    | [] => (1, 0x1FFF, 0xFFFFFFFF)
    | i0 :: rest =>
      let m := rest.foldl (fun m i => if ltVal m (x i) then x i else m) (x i0)
      let sums := runningSums 0 (is.map (fun i => logitWeight m invt (x i)))
      let total := sums.getLastD 0
      let k := if topp = 0 then is.length
        else sums.findIdx (fun a => (total * topp + 2 ^ 32 - 1) / 2 ^ 32 ≤ a) + 1
      let u := if flags = 1 then udir else mix (mix (w 0) (w 1)) (w 2) / 2 ^ 32
      let t := sums.getD (k - 1) 0 * u / 2 ^ 32
      let chosen := is.getD (sums.findIdx (fun a => t < a)) 0
      (0, chosen, elemOf vb 32 chosen)

/-- VSAMPLE (R287, R289): the operand is gs. -/
def vsampleMember (c : Ctx) (s : State) (g a b : BitVec 6) : MRes :=
  let gs := c.q.opa
  tokenMember c s (fun x => do
      taligned gs 64
      treads x gs 8 8)
    (fun s r =>
      let (st, i, t) := sampleDraw c (s.hart.vget a.toNat) (s.hart.vget b.toNat) r
      s.gset g.toNat (BitVec.ofNat 64 (st * 2 ^ 48 + i * 2 ^ 32 + t)))

/-! ### VPEN (R290, R291) -/

/-- The penalised logit of one element with its flags: format, its code, whether the token repeats, its count, and the
three penalties. -/
def penalise (f : Fmt) (x : Nat) (repeats : Bool) (n : Nat) (rep freq pres : Val) : Nat × Nat :=
  let x0 := if isNan (decodeF f x) then nanOf f else x
  let step := fun (a : Nat × Nat) (g : Val → Val × Nat) =>
    let (r, fl) := roundPair f .rne (g (decodeF f a.1))
    (r, a.2 ||| fl)
  let a := if repeats then step (x0, 0) (fun v => if ltVal (.fin false 0 0) v then divVal v rep else mulVal v rep)
    else (x0, 0)
  if n = 0 then a
  else
    let cf := mulVal (intVal n) freq
    let a := step a (fun v =>
      let (r, fl) := addVal .rne v (negVal cf.1)
      (r, fl ||| cf.2))
    step a (fun v => addVal .rne v (negVal pres))

/-- The elements of VPEN: the reads each makes, and its new logit. A COUNTS or PATH that is not aligned shows at the
access of an element, as ALIGN_DATA (DESIGN CHOICE, log 83). -/
def penLoop (x : Src) (c : Ctx) (f : Fmt) (va : VReg) (r : List Nat) :
    List Nat → VReg × Nat → TM (VReg × Nat)
  | [], acc => pure acc
  | i :: is, (d, fl) => do
    let w := fun k => r.getD k 0
    let n := w 3 % 2 ^ 32
    let vocab := w 3 / 2 ^ 32
    let t := elemOf va 32 i
    if !c.on i then penLoop x c f va r is (if c.zero then setElem d c.bits i 0 else d, fl)
    else if vocab ≤ t then penLoop x c f va r is (d, fl)
    else
      let path ← treads x (BitVec.ofNat 64 (w 2)) 4 n
      let np := path.countP (· = t)
      let b ← tread x (BitVec.ofNat 64 (w 0 + t / 8)) 1
      let k ← tread x (BitVec.ofNat 64 (w 1 + 2 * t)) 2
      let fp := fun y => decodeF fp32 y
      let (y, fl') := penalise f (elemOf d c.bits i) (b / 2 ^ (t % 8) % 2 = 1 || 0 < np) (k + np)
        (fp (w 4 % 2 ^ 32)) (fp (w 4 / 2 ^ 32)) (fp (w 5 % 2 ^ 32))
      penLoop x c f va r is (setElem d c.bits i y, fl ||| fl')

/-- VPEN (R290, R291). -/
def vpenMember (c : Ctx) (s : State) (d a : BitVec 6) : MRes :=
  let gs := c.q.opa
  tokenMember c s (fun x => do
      taligned gs 64
      let r ← treads x gs 8 8
      let w := fun k => r.getD k 0
      let n := w 3 % 2 ^ 32
      let vocab := w 3 / 2 ^ 32
      if 16 < n || vocab = 0 || 2 ^ 31 < vocab || (n = 0 && w 2 ≠ 0) || w 5 / 2 ^ 32 ≠ 0 || (r.drop 6).any (· ≠ 0)
      then tbad gs
      else penLoop x c (fmtFor c.ew c.fmt) (s.hart.vget a.toNat) r (List.range c.vl) (s.hart.vget d.toNat, 0))
    (fun s r => s.putV d.toNat r)

/-! ### Detokenisation tables and grammar images (R395 to R400) -/

/-- The bytes of token t in a table; `holder` is the structure that holds the pointer (R400, R285). A nonzero reserved
byte of the header stops GMASK with ACCESS too, as R285 has it for the S instructions (DEDUCED, log 82). -/
def tokenBytes (x : Src) (holder table : Word) (t : Nat) : TM (List Nat) := do
  if table.toNat % 64 ≠ 0 then tbad holder
  let h0 ← tread x table 8
  let h1 ← tread x (table + 8) 8
  let n := h0 % 2 ^ 32
  if n = 0 || 2 ^ 24 < n || h0 / 2 ^ 32 ≠ 0 || h1 ≠ 0 || n ≤ t then tbad table
  let ea := table + BitVec.ofNat 64 (16 + 8 * t)
  let e ← tread x ea 8
  let len := e / 2 ^ 32 % 2 ^ 16
  if e / 2 ^ 48 ≠ 0 || 1024 < len then tbad ea
  treads x (table + BitVec.ofNat 64 (e % 2 ^ 32)) 1 len

/-- A grammar image by its header (R395). -/
structure Image where
  at' : Word
  maxRise : Nat
  nstates : Nat
  vocab : Nat
  endTok : Nat
  rowBytes : Nat
  states : Nat
  rows : Nat
  trans : Nat
  toktab : Word
  deriving DecidableEq, Repr

/-- A configuration: a state and its stack, top first (R293). -/
structure Conf where
  q : Nat
  stack : List Nat
  deriving DecidableEq, Repr

/-- The header of an image read and checked: a failure puts the record outside its limits (R294, R395). -/
def readImage (x : Src) (record image : Word) : TM Image := do
  if image.toNat % 64 ≠ 0 then tbad record
  let r ← treads x image 8 8
  let w := fun k => r.getD k 0
  let vocab := w 1 / 2 ^ 32
  let i : Image :=
    { at' := image, maxRise := w 0 / 2 ^ 48, nstates := w 1 % 2 ^ 32, vocab := vocab, endTok := w 2 % 2 ^ 32,
      rowBytes := w 2 / 2 ^ 32, states := w 3, rows := w 4, trans := w 5, toktab := BitVec.ofNat 64 (w 6) }
  if w 0 % 2 ^ 48 ≠ 0x147524D31 || 256 < i.maxRise || i.nstates = 0 || 65536 < i.nstates || vocab = 0
      || 2 ^ 24 < vocab || vocab ≤ i.endTok || i.rowBytes ≠ ((vocab + 7) / 8 + 63) / 64 * 64 || i.states % 64 ≠ 0
      || i.rows % 64 ≠ 0 || i.trans % 8 ≠ 0 || i.toktab.toNat % 64 ≠ 0 || w 7 ≠ 0
  then tbad record
  else pure i

/-- A grammar-state record read and checked (R294): the symbols of its stack run to 0xFFFD (R397). A nonzero reserved
byte stops GMASK with ACCESS too, as R285 has it for the S instructions (DEDUCED, log 82). -/
def readGrammar (x : Src) (gs : Word) : TM (Image × Conf) := do
  taligned gs 64
  let r ← treads x gs 8 8
  let w := fun k => r.getD k 0
  let depth := w 1 / 2 ^ 32 % 2 ^ 16
  if w 1 / 2 ^ 56 ≠ 0 || (r.drop 2).any (· ≠ 0) || 256 < depth then tbad gs
  let i ← readImage x gs (BitVec.ofNat 64 (w 0))
  let q := w 1 % 2 ^ 32
  if i.nstates ≤ q then tbad gs
  let st ← treads x (gs + 0x40) 2 depth
  if st.any (0xFFFD < ·) then tbad gs
  pure (i, { q := q, stack := st.reverse })

/-- A state's entry (R396): ACCEPT, NDEP, DEPOFF, TROFF, NTR. -/
structure QState where
  accept : Bool
  ndep : Nat
  depoff : Nat
  troff : Nat
  ntr : Nat
  deriving DecidableEq, Repr

/-- The entry of state q read and checked (R396, R398). -/
def readState (x : Src) (i : Image) (q : Nat) : TM QState := do
  let a := i.at' + BitVec.ofNat 64 (i.states + 32 * q)
  let r ← treads x a 8 4
  let w := fun k => r.getD k 0
  if 1 < w 0 % 2 ^ 32 || i.vocab < w 0 / 2 ^ 32 || w 2 % 8 ≠ 0 || 2 ^ 20 < w 3 % 2 ^ 32 || w 3 / 2 ^ 32 ≠ 0
  then tbad a
  else pure { accept := w 0 % 2 = 1, ndep := w 0 / 2 ^ 32, depoff := w 1, troff := w 2, ntr := w 3 % 2 ^ 32 }

/-- Is a token on a stack-dependent list? The list is checked as it is read (R398). -/
def onList (x : Src) (i : Image) (t : Nat) (va : Word) : Nat → Option Nat → TM Bool
  | 0, _ => pure false
  | k + 1, prev => do
    let y ← tread x va 4
    let falls := match prev with
      | some p => y ≤ p
      | none => false
    if falls || i.vocab ≤ y || y = i.endTok then tbad va
    let rest ← onList x i t (va + 4) k (some y)
    pure (y = t || rest)

/-- δ: the first matching transition of a state (R397); none is REJECT. -/
def findTransition (x : Src) (i : Image) (b : Nat) (top : Option Nat) (va : Word) : Nat → TM (Option (Nat × Nat × Nat))
  | 0 => pure none
  | k + 1 => do
    let w ← tread x va 8
    let sym := w / 2 ^ 8 % 2 ^ 16
    let hit := w % 256 = b && (sym = 0xFFFF || (match top with
      | none => sym = 0xFFFE
      | some y => sym < 0xFFFE && sym = y))
    if hit then
      let arg := w / 2 ^ 32 % 2 ^ 16
      let act := w / 2 ^ 24 % 4
      if w / 2 ^ 26 % 64 ≠ 0 || i.nstates ≤ w / 2 ^ 48 || 0xFFFD < arg || (act % 2 = 0 && arg ≠ 0) then tbad va
      else pure (some (w / 2 ^ 48, act, arg))
    else findTransition x i b top (va + 8) k

/-- A configuration after one byte; none where δ rejects (R293). -/
def stepByte (x : Src) (i : Image) (c : Conf) (b : Nat) : TM (Option Conf) := do
  let st ← readState x i c.q
  let r ← findTransition x i b c.stack.head? (i.at' + BitVec.ofNat 64 (i.trans + st.troff)) st.ntr
  pure (match r with
    | none => none
    | some (q, act, y) =>
      match act, c.stack with
      | 0, st => some { q := q, stack := st }
      | 1, st => if 256 ≤ st.length then none else some { q := q, stack := y :: st }
      | 2, _ :: st => some { q := q, stack := st }
      | 3, _ :: st => some { q := q, stack := y :: st }
      | _, _ => none)

/-- A configuration after a string of bytes. -/
def stepBytes (x : Src) (i : Image) : Conf → List Nat → TM (Option Conf)
  | c, [] => pure (some c)
  | c, b :: bs => do
    match ← stepByte x i c b with
    | none => pure none
    | some c => stepBytes x i c bs

/-- Is a configuration ACCEPTING (R293)? -/
def accepting (x : Src) (i : Image) (c : Conf) : TM Bool := do
  let st ← readState x i c.q
  pure (st.accept && c.stack.isEmpty)

/-- A configuration after a token other than END; none where the token is illegal (R293). -/
def stepToken (x : Src) (i : Image) (c : Conf) (t : Nat) : TM (Option Conf) := do
  if i.vocab ≤ t then pure none
  else
    match ← tokenBytes x i.at' i.toktab t with
    | [] => pure none
    | bs => stepBytes x i c bs

/-- g(t, C) of R295. -/
def maskValue (x : Src) (i : Image) (c : Conf) (t : Nat) : TM Bool := do
  if i.vocab ≤ t then pure false
  else if t = i.endTok then accepting x i c
  else
    let st ← readState x i c.q
    let dep ← onList x i t (i.at' + BitVec.ofNat 64 st.depoff) st.ndep none
    if dep then
      let r ← stepToken x i c t
      pure r.isSome
    else
      let b ← tread x (i.at' + BitVec.ofNat 64 (i.rows + i.rowBytes * c.q + t / 8)) 1
      let row := b / 2 ^ (t % 8) % 2 = 1
      if row && 256 < c.stack.length + i.maxRise then
        let r ← stepToken x i c t
        pure r.isSome
      else pure row

/-- Is some token of the n tokens from t on allowed? -/
def anyLegal (x : Src) (i : Image) (c : Conf) (t : Nat) : Nat → TM Bool
  | 0 => pure false
  | n + 1 => do
    if ← maskValue x i c t then pure true else anyLegal x i c (t + 1) n

/-- The status of a configuration (R298): 0 LIVE, 1 ACCEPTING, 2 DEAD. -/
def grammarStatus (x : Src) (i : Image) (c : Conf) : TM Nat := do
  if ← accepting x i c then pure 1
  else if ← anyLegal x i c 0 i.vocab then pure 0 else pure 2

/-- The mask bits of the elements of GMASK. -/
def maskLoop (x : Src) (c : Ctx) (i : Image) (g : Conf) (base : Nat) : List Nat → TM (List Bool)
  | [] => pure []
  | k :: ks => do
    let b ← if c.on k then maskValue x i g (base + k) else pure false
    let rest ← maskLoop x c i g base ks
    pure (b :: rest)

/-- GMASK (R296): the operands are gb and gs. -/
def gmaskMember (c : Ctx) (s : State) (p : BitVec 6) : MRes :=
  tokenMember c s (fun x => do
      let (i, g) ← readGrammar x c.q.opb
      maskLoop x c i g c.q.opa.toNat (List.range c.vl))
    (fun s bits => s.modHart (fun h => h.pset p.toNat ((List.range c.vl).foldl (fun (r : PReg) i =>
      if bits.getD i false then r ||| BitVec.ofNat 4096 (2 ^ i) else r) 0)))

/-! ### VHLOOK (R301, R302) -/

/-- Does an address lie in a scratchpad window (R330)? -/
def inSpadWindow (va : Nat) : Bool :=
  (0xC00000000000 ≤ va && va < 0xC00000200000) || (0xC10000000000 ≤ va && va < 0xC10010000000)

/-- How the probing of a bucket ends. -/
inductive Probe where
  | found (id score : Nat)
  | empty
  | next
  deriving DecidableEq, Repr

/-- The entries of a bucket from an address on. -/
def probeBucket (x : Src) (key : Nat) (va : Word) : Nat → TM Probe
  | 0 => pure .next
  | k + 1 => do
    let d ← tread x (va + 8) 4
    if d = 0xFFFFFFFF then pure .empty
    else
      let y ← tread x va 8
      if y = key then
        let sc ← tread x (va + 12) 4
        pure (.found d sc)
      else probeBucket x key (va + 16) k

/-- The probe sequence of a key: its id and score. -/
def probe (x : Src) (key : Nat) (base : Word) (nb b : Nat) : Nat → TM (Nat × Nat)
  | 0 => pure (0xFFFFFFFF, 0xFF800000)
  | k + 1 => do
    match ← probeBucket x key (base + BitVec.ofNat 64 (128 * b)) 8 with
    | .found d sc => pure (d, sc)
    | .empty => pure (0xFFFFFFFF, 0xFF800000)
    | .next => probe x key base nb ((b + 1) % nb) k

/-- The lookups of the elements. -/
def hlookLoop (x : Src) (c : Ctx) (va : VReg) (base : Word) (nb mp : Nat) : List Nat → TM (List (Nat × Nat))
  | [] => pure []
  | i :: is => do
    let key := elemOf va 64 i
    let r ← if c.on i then probe x key base nb (key % 2 ^ 16 % nb) mp else pure (0, 0)
    let rest ← hlookLoop x c va base nb mp is
    pure (r :: rest)

/-- VHLOOK (R301, R302). A nonzero reserved byte of the descriptor stops it with ACCESS (DEDUCED, log 82). -/
def vhlookMember (c : Ctx) (s : State) (d a e : BitVec 6) : MRes :=
  let gs := c.q.opa
  tokenMember c s (fun x => do
      taligned gs 64
      let r ← treads x gs 8 8
      let w := fun k => r.getD k 0
      let nb := w 1 % 2 ^ 32
      let mp := w 1 / 2 ^ 32
      if w 0 % 128 ≠ 0 || !inSpadWindow (w 0) || nb = 0 || 65536 < nb || nb ≠ 2 ^ nb.log2 || mp = 0 || nb < mp
          || (r.drop 2).any (· ≠ 0)
      then tbad gs
      else hlookLoop x c (s.hart.vget a.toNat) (BitVec.ofNat 64 (w 0)) nb mp (List.range c.vl))
    (fun s rs =>
      let s := s.putV d.toNat (c.mapElems (s.hart.vget d.toNat) 32 (fun i => ((rs.getD i (0, 0)).1, 0)))
      s.putV e.toNat (c.mapElems (s.hart.vget e.toNat) 32 (fun i => ((rs.getD i (0, 0)).2, 0))))

end Sys2Proof.Machine
end

