-- ==== Sys2Proof/Machine/Issue.lean ====
section
/-! DEFINITION. What the scalar unit does with a vector instruction before it enters the command queue: the values it
captures (R24, R79), and the checks at issue in the order of R317. -/

namespace Sys2Proof.Machine

/-- The values of R24 as they stand. -/
def Hart.capture (h : Hart) : Captured :=
  { vcfg := h.vcfg, vmsk := h.vmsk, vstr := h.vstr, vpstr := h.vpstr, fpmode := h.fpmode, mscale := h.mscale,
    sckm := h.sckm, heblim := h.heblim, mirror := h.mirror }

/-- The scalar registers that a vector instruction reads at issue, in the order of its format table (R79, R327). -/
def scalarSources : Instr → List Nat
  | .pidx _ g => [g.toNat]
  | .vslup _ _ b s => [b.toNat, s.toNat]
  | .vsldn _ _ b s => [b.toNat, s.toNat]
  | .vbcast _ g => [g.toNat]
  | .vextr _ _ b => [b.toNat]
  | .vins _ g b => [g.toNat, b.toNat]
  | .vld _ a => [a.toNat]
  | .vlds _ a => [a.toNat]
  | .vldx _ a _ _ _ => [a.toNat]
  | .vldf _ a => [a.toNat]
  | .vst _ a _ => [a.toNat]
  | .vsts _ a _ => [a.toNat]
  | .vstx _ a _ _ _ => [a.toNat]
  | .vscadd _ a _ _ _ _ => [a.toNat]
  | .vmerget _ a _ => [a.toNat]
  | .vpld _ a _ _ _ => [a.toNat]
  | .vpst _ a _ _ _ => [a.toNat]
  | .vxpand _ a _ => [a.toNat]
  | .vbind _ a => [a.toNat]
  | .mrowv _ _ g => [g.toNat]
  | .mcolv _ _ g => [g.toNat]
  | .mvrow _ _ g => [g.toNat]
  | .mtst _ g => [g.toNat]
  | .mtld _ g => [g.toNat]
  | .cpyg _ a _ => [a.toNat]
  | .vsample _ _ _ s => [s.toNat]
  | .vpen _ _ s => [s.toNat]
  | .gmask _ b s => [b.toNat, s.toNat]
  | .vhlook _ _ _ s => [s.toNat]
  | _ => []

/-- Does a VFCVT name a ladder-M type (R207)? -/
def convertsM : Instr → Bool
  | .vfcvt _ _ s t _ => typeLadderM s.toNat || typeLadderM t.toNat
  | _ => false

/-- Is an instruction a scaled tile form (R248)? -/
def scaledTile : Instr → Bool
  | .mxacc _ _ _ _ _ _ s => s = 1
  | .mxsub _ _ _ _ _ _ s => s = 1
  | _ => false

/-- The registers that an instruction reads through MSCALE (R207, R248). -/
def scaleReads (i : Instr) (mscale : Word) : List Nat :=
  if !bit mscale 12 then []
  else if convertsM i then [fld mscale 0 6]
  else if scaledTile i then [fld mscale 0 6, fld mscale 6 6]
  else []

/-- The vector registers that an instruction names as sources, a planed one by its leading plane. -/
def namedReads (i : Instr) : List Nat :=
  match i with
  | .vpjoin _ a _ => [a.toNat]
  | .vpst v _ k _ m => v.toNat :: (if m = 0 then [] else [k.toNat])
  | _ => ((vInfo i).map (fun x => x.chained ++ x.plain)).getD []

/-- The planes of a planed source beyond the leading one, each with the leading plane it is read with (R18, R235). -/
def lowerReads (i : Instr) : List (Nat × Nat) :=
  match i with
  | .vpjoin _ a _ => [(a.toNat, a.toNat + 16), (a.toNat, a.toNat + 32)]
  | .vpst v _ _ p _ => (List.range p.toNat).map (fun n => (v.toNat, v.toNat + 16 * (n + 1)))
  | _ => []

/-- Every vector register that an instruction reads. -/
def allReads (i : Instr) (mscale : Word) : List Nat :=
  ((vInfo i).map (fun x => x.chained ++ x.plain)).getD [] ++ scaleReads i mscale

/-! ### ILLEGAL at issue -/

/-- EW 0, or a format of block-scaled elements: no floating class 9 op takes it (R196). -/
def noFloat (ew fmt : Nat) : Bool := ew = 0 || ((ew = 1 || ew = 2) && fmt = 2)

/-- The legality table of R196 with the entries' own conditions (R105, R179, R207, R226, R227, R248, R266, R287,
R290). -/
def illegalAtIssue (i : Instr) (c : Captured) : Bool :=
  let ew := ewOf c.vcfg
  let fmt := fmtOf c.vcfg
  let narrow := ew = 0
  let flt := noFloat ew fmt
  let mid := noFloat ew fmt || ew = 4
  match i with
  | .vadd .. => narrow
  | .vsub .. => narrow
  | .vmul .. => narrow
  | .vmulh .. => narrow
  | .vmulhz .. => narrow
  | .vmadd .. => narrow
  | .vmsub .. => narrow
  | .vand .. => narrow
  | .vor .. => narrow
  | .vxor .. => narrow
  | .vsll .. => narrow
  | .vsrl .. => narrow
  | .vsra .. => narrow
  | .vmin .. => narrow
  | .vmax .. => narrow
  | .vminz .. => narrow
  | .vmaxz .. => narrow
  | .vsadd .. => narrow
  | .vssub .. => narrow
  | .vsaddz .. => narrow
  | .vssubz .. => narrow
  | .vabsd .. => narrow
  | .vfadd .. => flt
  | .vfsub .. => flt
  | .vfmul .. => flt
  | .vfma .. => flt
  | .vfms .. => flt
  | .vfnma .. => flt
  | .vfdiv .. => flt
  | .vfsqrt .. => flt
  | .vfmin .. => flt
  | .vfmax .. => flt
  | .vfexp2 .. => mid
  | .vfcvt .. => convertsM i && bit c.mscale 12 && 47 < fld c.mscale 0 6
  | .vfclass .. => flt
  | .vfsgnj .. => flt
  | .vcmpEq .. => narrow
  | .vcmpNe .. => narrow
  | .vcmpLt .. => narrow
  | .vcmpLe .. => narrow
  | .vcmpLtz .. => narrow
  | .vcmpLez .. => narrow
  | .vfcmpEq .. => flt
  | .vfcmpNe .. => flt
  | .vfcmpLt .. => flt
  | .vfcmpLe .. => flt
  | .vfcmpUn .. => flt
  | .vrsum .. => narrow
  | .vrmax .. => narrow
  | .vrmin .. => narrow
  | .vfrsum .. => flt
  | .vfrsumo .. => flt
  | .vfrmax .. => flt
  | .vfrmin .. => flt
  | .vrscl .. => mid
  | .vargmax .. => flt
  | .vlds .. => narrow
  | .vldx .. => narrow
  | .vsts .. => narrow
  | .vstx .. => narrow
  | .vscadd _ _ _ _ f _ => narrow || (f = 1 && flt)
  | .vmerget _ _ f => narrow || (f = 1 && flt)
  | .mxacc .. => scaledTile i && bit c.mscale 12 && (47 < fld c.mscale 0 6 || 47 < fld c.mscale 6 6)
  | .mxsub .. => scaledTile i && bit c.mscale 12 && (47 < fld c.mscale 0 6 || 47 < fld c.mscale 6 6)
  | .cpyg .. => narrow
  | .vsample .. => ew ≠ 3 || fmt ≠ 0
  | .vpen .. => (ew ≠ 2 && ew ≠ 3) || (ew = 2 && fmt = 2)
  | _ => false

/-! ### OVERLAP at issue -/

/-- Is an instruction of class 11 and kind X, VINS excepted? -/
def crossElement : Instr → Bool
  | .vslup .. => true
  | .vsldn .. => true
  | .vcompress .. => true
  | .vexpand .. => true
  | .vperm .. => true
  | .viota .. => true
  | .vextr .. => true
  | .vrsum .. => true
  | .vrmax .. => true
  | .vrmin .. => true
  | .vfrsum .. => true
  | .vfrsumo .. => true
  | .vfrmax .. => true
  | .vfrmin .. => true
  | .vrscl .. => true
  | .vargmax .. => true
  | .vpsplit .. => true
  | .vpjoin .. => true
  | _ => false

/-- The register overlaps of R194 and R284. -/
def overlaps (i : Instr) (c : Captured) : Bool :=
  match vInfo i with
  | none => false
  | some x =>
    (match x.rep with
     | some r => x.writes.contains r
     | none => false)
    || (crossElement i && x.writes.any ((x.chained ++ x.plain).contains ·))
    || (convertsM i && bit c.mscale 12 && x.writes.contains (fld c.mscale 0 6))
    || (match i with
        | .vhlook d a e _ => d = e || d = a || e = a
        | _ => false)

/-! ### STREAM at issue -/

/-- The conditions of R235 for the bindings of a hart. A read through MSCALE is a read of the scale register beside the
data register that the instruction names, and a lower plane is read through its leading one. -/
def streamTrap (h : Hart) (i : Instr) (c : Captured) : Bool :=
  let writes := ((vInfo i).map (·.writes)).getD []
  let named := namedReads i
  let through := scaleReads i c.mscale
  let lower := lowerReads i
  h.binds.any (fun b =>
    writes.any (b.regs.contains ·)
    || (b.ladder = 0 && named.contains b.reg && b.ew ≠ ewOf c.vcfg)
    || (b.ladder = 0 && through.contains b.reg && b.ew ≠ ewOf c.vcfg)
    || (b.ladder = 0 && lower.any (fun r => r.2 = b.reg) && b.ew ≠ ewOf c.vcfg)
    || (b.ladder ≠ 0 && named.any (fun r => b.regs.contains r && r ≠ b.reg))
    || (b.ladder ≠ 0 && through.any (b.regs.contains ·) && !named.contains b.reg)
    || (b.ladder ≠ 0 && lower.any (fun r => b.regs.contains r.2 && !(r.1 = b.reg && b.planeRegs.contains r.2))))

/-! ### VL_RANGE at issue -/

/-- Bits of a conversion's wider type (R206). -/
def cvtWidth (s t : BitVec 5) : Nat := max (typeBits s.toNat) (typeBits t.toNat)

/-- The limit that an entry sets on VL, in bits of a register that VL elements take; none where it sets none. -/
def capacityBits : Instr → Option Nat
  | .vfcvt _ _ s t _ => some (cvtWidth s t)
  | .vldx _ _ _ _ k => if k = 2 then some 32 else if k = 3 then some 64 else none
  | .vstx _ _ _ _ k => if k = 2 then some 32 else if k = 3 then some 64 else none
  | .vscadd _ _ _ _ _ k => if k = 2 then some 32 else if k = 3 then some 64 else none
  | .vpsplit _ _ l => some (if l = 0 then 32 else 16)
  | .vpjoin _ _ l => some (if l = 0 then 32 else 16)
  | .vpadd _ _ _ => some 32
  | .vpld _ _ _ p m => some (widestPlane (2 ≤ m.toNat) (m.toNat % 2 = 1) (p.toNat + 1))
  | .vpst _ _ _ p m => some (widestPlane (m = 1) false (p.toNat + 1))
  | .vpen _ _ _ => some 32
  | .vhlook _ _ _ _ => some 64
  | .mxacc _ _ _ _ _ f _ => some (mxShape f.toNat).1
  | .mxsub _ _ _ _ _ f _ => some (mxShape f.toNat).1
  | _ => none

/-- The limit that an entry sets on VL itself (R250, R253). -/
def lengthLimit : Instr → Option Nat
  | .mxacc .. => some 128
  | .mxsub .. => some 128
  | .mrowv .. => some 96
  | .mcolv .. => some 128
  | .mvrow .. => some 96
  | _ => none

/-- A planed binding that the instruction reads limits VL as R228 does (R236). -/
def bindingBits (h : Hart) (i : Instr) : Nat :=
  h.binds.foldl (fun w b =>
    if b.ladder ≠ 0 && (namedReads i).contains b.reg then max w (widestPlane b.ladderM false b.planes) else w) 0

/-- The LADDER field of the descriptor of a VXPAND, where it can be read: the rule of R228 needs it at issue (R232), as
every older instruction leaves it. Where it cannot be read, VXPAND meets the limit when it executes. -/
def State.ladderOf (s : State) (i : Instr) (opa : Word) : Nat :=
  match i with
  | .vxpand .. =>
    match s.xlate .vector .load (opa + 0x14) with
    | .at loc _ => (Memory.read (s.view s.hart) loc).toNat
    | _ => 0
  | _ => 0

/-- Bits of the widest plane of a VXPAND with a LADDER field (R228, R232). -/
def xpandBits (i : Instr) (ladder : Nat) : Nat :=
  match i with
  | .vxpand _ _ p => if ladder = 1 || ladder = 2 then widestPlane (ladder = 2) false (p.toNat + 1) else 0
  | _ => 0

/-- The VL_RANGE checks of R27 and of the entries: the value for TRAPVAL where one fails (R313). -/
def vlTrap (h : Hart) (i : Instr) (c : Captured) (opa : Word) (ladder : Nat) : Option Word :=
  let vl := vlOf c.vcfg
  let room := 64 * h.vlmaxr
  let badVl := h.vlmax (ewOf c.vcfg) < vl
    || room < vl * (capacityBits i).getD 0
    || room < vl * bindingBits h i
    || room < vl * xpandBits i ladder
    || (match lengthLimit i with
        | some n => decide (n < vl)
        | none => false)
  if badVl then some (BitVec.ofNat 64 vl)
  else
    let ncol := fld c.mscale 16 7
    let badCol := ncol = 0 || 96 < ncol || room < ncol * (capacityBits i).getD 0
    match i with
    | .mxacc .. => if badCol then some (BitVec.ofNat 64 ncol) else none
    | .mxsub .. => if badCol then some (BitVec.ofNat 64 ncol) else none
    | .mrowv .. => if 127 < opa.toNat then some opa else none
    | .mcolv .. => if 95 < opa.toNat then some opa else none
    | .mvrow .. => if 127 < opa.toNat then some opa else none
    | _ => none


end Sys2Proof.Machine
end

