-- ==== Sys2Proof/Machine/Picks.lean ====
section
/-! DEFINITION. The picks of a core and of its tile unit among the harts that are ready to start a convoy (R383, R384). -/

namespace Sys2Proof.Machine

/-- The queue of a hart behind the convoys that have begun. -/
def Hart.unstarted (h : Hart) : List QEntry := h.queue.dropWhile (·.begun)

/-- Does a convoy need the tile unit (R383)? -/
def needsTiles (q : List QEntry) : Bool :=
  q.any (fun e =>
    match e.instr with
    | .mxacc .. => true
    | .mxsub .. => true
    | _ => false)

/-- Does the oldest unstarted convoy of hart h need the tile unit? -/
def State.wantsTiles (s : State) (h : Nat) : Bool := needsTiles (headConvoy (s.hartAt h).unstarted)

/-- The effective priority of a hart's launch (R372). -/
def State.prioOf (s : State) (h : Nat) : Nat := ((s.launchOfHart (s.hartAt h)).map (·.prio)).getD 0

/-- What a pick compares of a hart: its promotion and how long it has been ready, with the core or with the tile
unit. -/
abbrev PickKey := Hart → Option Nat × Nat

/-- The core's own key (R383). -/
def coreKey : PickKey := fun x => (x.promoted, x.readyClocks)

/-- The tile unit's key (R383). -/
def tileKey : PickKey := fun x => (x.tilePromoted, x.tileReady)

/-- Is ready hart a picked before ready hart b (R383, R384)? Equal harts are picked in rising HARTID. -/
def State.picksBefore (s : State) (key : PickKey) (a b : Nat) : Bool :=
  let x := s.hartAt a
  let y := s.hartAt b
  match (key x).1, (key y).1 with
  | some m, some n => m < n || (m = n && a < b)
  | some _, none => true
  | none, some _ => false
  | none, none =>
    let p := s.prioOf a
    let q := s.prioOf b
    if p ≠ q then q < p
    else if x.yielded ≠ y.yielded then y.yielded
    else if (key x).2 ≠ (key y).2 then (key y).2 < (key x).2
    else a < b

/-- The hart of some that is picked. -/
def State.pickOf (s : State) (key : PickKey) (hs : List Nat) : Option Nat :=
  hs.foldl (fun best h =>
    match best with
    | none => some h
    | some b => if s.picksBefore key h b then some h else best) none

/-- The harts of a core. -/
def hartsOf (c : Nat) : List Nat := (List.range 4).map (4 * c + ·)

/-- The hart that the tile unit of a core picks among the MXACC and MXSUB starts of ready harts (R383). -/
def State.tilePick (s : State) (ready : Nat → Bool) (c : Nat) : Option Nat :=
  s.pickOf tileKey ((hartsOf c).filter (fun h => ready h && s.wantsTiles h))

/-- The ready hart that a core picks (R383): a start that needs the tile unit counts only where that unit picks it. -/
def State.pickAmong (s : State) (ready : Nat → Bool) (c : Nat) : Option Nat :=
  s.pickOf coreKey ((hartsOf c).filter (fun h => ready h && (!s.wantsTiles h || s.tilePick ready c = some h)))

/-- A hart that has been picked waits no longer (R383, R384). -/
def Hart.pick (h : Hart) : Hart :=
  { h with readyClocks := 0, promoted := none, tileReady := 0, tilePromoted := none, yielded := false }

end Sys2Proof.Machine
end

