-- ==== Sys2Proof/Machine/Retire.lean ====
section
/-! DEFINITION. Retirement of lanes and cores (R438 to R440), and the service request it raises (R421). -/

namespace Sys2Proof.Machine

/-- An MSI-X vector is raised (R417, R421). -/
def State.raiseMsix (s : State) (v : Nat) : State := { s with msix := v :: s.msix }

/-- Bits of SVCREQ set with PENDING, and vector 64 raised (R421). -/
def State.requestService (s : State) (bits : Word) : State :=
  { (s.raiseMsix 64) with svcreq := s.svcreq ||| bits ||| 1 }

/-- The launches with a rank on a hart of a core. -/
def State.launchesOn (s : State) (c : Nat) : List (BitVec 32) :=
  (s.launches.filter (fun l => l.state ≠ .complete && l.gangs.any (fun g => g.ranks.any (fun r =>
    match r with
    | .on h => coreOf h = c
    | _ => false)))).map (·.serial)

/-- A zone of a core is removed: its RESERVED and FILLING slots fail first, and the sends into them are rejected (R440,
R269). -/
def State.removeZone (s : State) (c z : Nat) : State :=
  match s.zone c z with
  | none => s
  | some x =>
    ((List.range x.slots.length).foldl (fun s i =>
      match (s.zone c z).bind (fun y => y.slots[i]?) with
      | none => s
      | some y => if y.state = .reserved || y.state = .filling then s.failWithin c z i else s) s).setZone c z none

/-- Core c is retired (R440). -/
def State.retireCore (s : State) (c : Nat) : State :=
  if (s.core c).retired then s
  else
    let kill : Kill := { reason := 5, fval := BitVec.ofNat 64 c, fgang := 0, frank := 0 }
    let s := (s.launchesOn c).foldl (fun s x => s.killLaunch x kill) s
    let s := (List.range 8).foldl (fun s z => s.removeZone c z) s
    let s := s.modCore c (fun k => { k with retired := true })
    (s.requestService 4).emit 0x3FF 10 (leBytes 1 1 ++ leBytes 1 c ++ leBytes 1 0)

/-- Physical lane p of core c is retired, or its core where fewer than 8 lanes would be left live (R439). Each hart of
the core goes on using the lane until its next SETVL or SETVLG. -/
def State.retireLane (s : State) (c p : Nat) : State :=
  let mask := (s.core c).retiredLanes ||| BitVec.ofNat 32 (2 ^ p)
  if (s.core c).retiredLanes.getLsbD p then s
  else if (List.range 32).countP (fun i => !mask.getLsbD i) < 8 then s.retireCore c
  else
    let s := s.modCore c (fun k => { k with retiredLanes := mask })
    (s.requestService 2).emit 0x3FF 10 (leBytes 1 0 ++ leBytes 1 c ++ leBytes 1 p)

/-- A MIRROR trap on a pair of physical lanes of core c: their SUSPECT bits are set, and a pair that had both set is
retired (R438). -/
def State.suspectPair (s : State) (c p q : Nat) : State :=
  let k := s.core c
  let both := k.suspect.getLsbD p && k.suspect.getLsbD q
  let s := s.modCore c (fun k => { k with suspect := k.suspect ||| BitVec.ofNat 32 (2 ^ p) ||| BitVec.ofNat 32 (2 ^ q) })
  if both then (s.retireLane c p).retireLane c q else s

end Sys2Proof.Machine
end

