-- ==== Sys2Proof/Machine/Touch.lean ====
section
/-! DEFINITION. Which bits of the registers an element of a vector instruction reads and writes, which convoys show in
their registers all that a replay needs, and what is kept apart for the others (R112, R192, R193, R248, R255; log 79). -/

namespace Sys2Proof.Machine

/-- The bits of a register that element i touches: none below `low` × i, none from `high` × (i + 1) on. Predicate n
stands as register 64 + n; `pair` says that the bits are scale pairs, one for each block. -/
structure Touch where
  reg : Nat
  low : Nat
  high : Nat
  pair : Bool := false
  deriving DecidableEq, Repr

/-- An element of w bits. -/
def Touch.lane (r w : Nat) : Touch := { reg := r, low := w, high := w }

/-- Any bit of a register. -/
def Touch.whole (r : Nat) : Touch := { reg := r, low := 0, high := 16384 }

/-- The scale pair of the element's block, 16 bits. -/
def Touch.scale (r : Nat) : Touch := { reg := r, low := 0, high := 16, pair := true }

/-- The predicate that a compare writes. -/
def comparedTo : Instr → Option Nat
  | .vcmpEq d _ _ _ _ _ => some d.toNat
  | .vcmpNe d _ _ _ _ _ => some d.toNat
  | .vcmpLt d _ _ _ _ _ => some d.toNat
  | .vcmpLe d _ _ _ _ _ => some d.toNat
  | .vcmpLtz d _ _ _ _ _ => some d.toNat
  | .vcmpLez d _ _ _ _ _ => some d.toNat
  | .vfcmpEq d _ _ _ _ _ => some d.toNat
  | .vfcmpNe d _ _ _ _ _ => some d.toNat
  | .vfcmpLt d _ _ _ _ _ => some d.toNat
  | .vfcmpLe d _ _ _ _ _ => some d.toNat
  | .vfcmpUn d _ _ _ _ _ => some d.toNat
  | _ => none

/-- Width in bits of the index of element i (R104). -/
def indexBits (k : BitVec 2) (bits : Nat) : Nat := if k = 2 then 32 else if k = 3 then 64 else bits

/-- The planes of a planed register, an element of each (R129, R130). -/
def touchPlanes (ladderM : Bool) (d : BitVec 6) (k : Nat) : List Touch :=
  (List.range k).map (fun p => Touch.lane (d.toNat + 16 * p) (planeBits ladderM p))

/-- The element width of a queue entry. -/
def QEntry.bits (q : QEntry) : Nat := ewBits (ewOf q.cap.vcfg)

/-- What a tile multiply-accumulate reads: its row element, every column element, the pairs of its scales and the column
predicate (R246, R248, R251). -/
def touchTile (ms : Word) (a b : BitVec 6) (f : BitVec 4) (scaled : Bool) : List Touch :=
  Touch.lane a.toNat (mxShape f.toNat).1 :: Touch.whole b.toNat ::
    ((if scaled && bit ms 12 then [Touch.scale (fld ms 0 6), Touch.whole (fld ms 6 6)] else [])
      ++ (if bit ms 29 then [Touch.whole (64 + fld ms 24 5)] else []))

/-- What an element of an instruction of kind A reads, its governing predicate aside. -/
def QEntry.sources (q : QEntry) : List Touch :=
  let w := q.bits
  match q.instr with
  | .vfcvt _ a t _ _ =>
    Touch.lane a.toNat (typeBits t.toNat)
      :: (if convertsM q.instr && bit q.cap.mscale 12 then [Touch.scale (fld q.cap.mscale 0 6)] else [])
  | .vpadd d a _ => Touch.lane a.toNat 32 :: touchPlanes false d 3
  | .vldx _ _ i _ k => [Touch.lane i.toNat (indexBits k w)]
  | .vstx v _ i _ k => [Touch.lane v.toNat w, Touch.lane i.toNat (indexBits k w)]
  | .vscadd v _ i _ _ k => [Touch.lane v.toNat w, Touch.lane i.toNat (indexBits k w)]
  | .mxacc _ a b _ _ f z => touchTile q.cap.mscale a b f (z = 1)
  | .mxsub _ a b _ _ f z => touchTile q.cap.mscale a b f (z = 1)
  | i =>
    match vInfo i with
    | none => []
    | some x => (x.chained ++ x.plain).map (Touch.lane · w) ++ (x.rep.toList.map (fun r => { reg := r, low := 0, high := w }))

/-- What an element of an instruction of kind A reads. -/
def QEntry.reads (q : QEntry) : List Touch :=
  (if bit q.cap.vmsk 5 then [Touch.lane (64 + fld q.cap.vmsk 0 5) 1] else []) ++ q.sources

/-- What an element of an instruction of kind A writes. -/
def QEntry.writes (q : QEntry) : List Touch :=
  match q.instr with
  | .vfcvt d _ _ t _ => [Touch.lane d.toNat (typeBits t.toNat)]
  | .vpadd d _ _ => touchPlanes false d 3
  | .vpld d _ i p m => touchPlanes (2 ≤ m.toNat) d (p.toNat + 1) ++ (if m.toNat < 2 then [] else [Touch.scale i.toNat])
  | i =>
    match comparedTo i with
    | some d => [Touch.lane (64 + d) 1]
    | none => (((vInfo i).map (·.writes)).getD []).map (Touch.lane · q.bits)

/-- Does an instruction of kind A load? -/
def loads : Instr → Bool
  | .vld .. => true
  | .vlds .. => true
  | .vldx .. => true
  | .vldf .. => true
  | .vpld .. => true
  | _ => false

/-- Does an instruction of kind A store, or add at the memory port? -/
def stores : Instr → Bool
  | .vst .. => true
  | .vsts .. => true
  | .vstx .. => true
  | .vscadd .. => true
  | .vpst .. => true
  | _ => false

/-- Do elements of x below a stop keep clear of what the elements of y from the stop on touch? -/
def Touch.clear (x y : Touch) : Bool := x.reg ≠ y.reg || x.high ≤ y.low

/-- Do two members execute the same elements: one governing predicate, which no member between them writes? -/
def sameRows (older : List QEntry) (o y : QEntry) : Bool :=
  o.cap.vmsk = y.cap.vmsk &&
    (!bit y.cap.vmsk 5 || older.all (fun m => m.writes.all (fun w => w.reg ≠ 64 + fld y.cap.vmsk 0 5)))

/-- Does no element of a member touch what its own later elements, or those of the members before it, read or write from
the same element on? -/
def inStep (older : List QEntry) (y : QEntry) : Bool :=
  y.writes.all (fun w => y.reads.all w.clear) && older.all (fun o =>
    y.reads.all (fun r => o.writes.all (fun w => r.clear w || (r.pair && w.pair && sameRows older o y)))
      && y.writes.all (fun w => o.reads.all w.clear && o.writes.all w.clear)
      && !(loads y.instr && stores o.instr))

/-- Are the members of a convoy in step, given those already passed? -/
def inStepFrom (older : List QEntry) : List QEntry → Bool
  | [] => true
  | y :: ys => inStep older y && inStepFrom (older ++ [y]) ys

/-- Does the register file after the elements below any stop show all that a replay of a convoy reads? -/
def convoyInStep (convoy : List QEntry) : Bool := inStepFrom [] convoy

/-! ### Registers of a convoy apart -/

/-- A register by its number, predicate n as 64 + n. -/
def Hart.reg (h : Hart) (n : Nat) : VReg := if n < 64 then h.vget n else (h.pget (n - 64)).setWidth 16384

/-- The hart with registers, so numbered, as given. -/
def Hart.putRegs (h : Hart) (xs : List (Nat × VReg)) : Hart :=
  xs.foldl (fun h x => if x.1 < 64 then h.vset x.1 x.2 else h.pset (x.1 - 64) (x.2.setWidth 4096)) h

/-- Registers as a hart has them. -/
def Hart.regsOf (h : Hart) (rs : List Nat) : List (Nat × VReg) := rs.map (fun r => (r, h.reg r))

/-- The registers that the members of a convoy write. -/
def writtenBy (convoy : List QEntry) : List Nat := ((convoy.flatMap (·.writes)).map (·.reg)).eraseDups

/-- The bits of its register that element i touches, from one up to another. -/
def Touch.span (t : Touch) (block i : Nat) : Nat × Nat :=
  if t.pair then (16 * (i / block), 16 * (i / block) + 16) else (t.low * i, t.high * (i + 1))

/-- A register with some elements as another has them. -/
def Touch.copy (t : Touch) (block : Nat) (es : List Nat) (from' to' : VReg) : VReg :=
  (if t.pair then (es.map (· / block)).eraseDups else es).foldl
    (fun r i => setElem r t.high i (elemOf from' t.high i)) to'

/-- The hart with what some elements of a member wrote, of the registers that it left. -/
def Ctx.putWritten (c : Ctx) (es : List Nat) (wrote : List (Nat × VReg)) (h : Hart) : Hart :=
  c.q.writes.foldl (fun h t =>
    match wrote.find? (fun x => x.1 = t.reg) with
    | none => h
    | some x =>
      let es := es.filter (fun i => 64 ≤ t.reg || c.on i || (c.zero && !t.pair))
      h.putRegs [(t.reg, t.copy c.block es x.2 (h.reg t.reg))]) h

/-- The accesses of element i of a member of kind A, as a hart has its registers. -/
def Ctx.accesses (c : Ctx) (h : Hart) (i : Nat) : List Place4 :=
  let planes := fun (ladderM : Bool) (k : Nat) =>
    (List.range k).map (fun p => planePlace ladderM c.q.opa c.q.cap.vpstr p i)
      ++ (if ladderM then [unitPlace (c.q.opa + 3 * c.q.cap.vpstr) 2 (i / c.block)] else [])
  match c.q.instr with
  | .vld .. => [unitPlace c.q.opa c.ew i]
  | .vldf .. => [unitPlace c.q.opa c.ew i]
  | .vst .. => [unitPlace c.q.opa c.ew i]
  | .vlds .. => [stridePlace c.q.opa c.q.cap.vstr c.ew i]
  | .vsts .. => [stridePlace c.q.opa c.q.cap.vstr c.ew i]
  | .vldx _ _ x _ k => [indexPlace h c.q.opa x k c.ew i]
  | .vstx _ _ x _ k => [indexPlace h c.q.opa x k c.ew i]
  | .vscadd _ _ x _ _ k => [indexPlace h c.q.opa x k c.ew i]
  | .vpld _ _ _ p m => planes (2 ≤ m.toNat) (min 3 (p.toNat + 1 + m.toNat % 2))
  | .vpst _ _ _ p m => planes (m = 1) (p.toNat + 1)
  | _ => []

/-- What older members of a convoy have still to write, since one of them met a fault: bits of registers, and bytes of
memory. -/
structure Unwritten where
  bits : List (Nat × Nat × Nat)
  bytes : List (Nat × Nat)
  deriving DecidableEq, Repr

/-- Does element i of a member read a register that lacks something? -/
def Unwritten.lacks (u : Unwritten) (c : Ctx) (i : Nat) : Bool :=
  c.q.reads.any (fun t =>
    let x := t.span c.block i
    u.bits.any (fun y => y.1 = t.reg && x.1 < y.2.2 && y.2.1 < x.2))

/-- Must element i of a member wait for what is not there? -/
def Unwritten.delays (u : Unwritten) (c : Ctx) (h : Hart) (i : Nat) : Bool :=
  u.lacks c i || (loads c.q.instr && (c.accesses h i).any (fun p =>
    u.bytes.any (fun y => meets p.va.toNat p.bytes y.1 y.2)))

/-- What a member adds by elements that it has not executed: where their addresses are not known, any byte. -/
def Unwritten.add (u : Unwritten) (c : Ctx) (h : Hart) (es : List Nat) : Unwritten :=
  { bits := u.bits ++ c.q.writes.flatMap (fun t => es.map (fun i => (t.reg, t.span c.block i)))
    bytes := u.bytes ++ (if stores c.q.instr then es.flatMap (fun i =>
      if u.lacks c i then [(0, 2 ^ 64)] else (c.accesses h i).map (fun p => (p.va.toNat, p.bytes))) else []) }

end Sys2Proof.Machine
end

