-- ==== Sys2Proof/Machine/Sequencer.lean ====
section
/-! DEFINITION. The vector sequencer: a member of a convoy (R111), a convoy up to its stop or its retirement (R191, R192,
R236, R320, R437), the queue, the rewind of a strip (R432), and the issue of a vector instruction. -/

namespace Sys2Proof.Machine

/-! ### One member -/

/-- What a member of a convoy does over the elements its context gives it. -/
def runMember (c : Ctx) (s : State) : MRes :=
  match c.q.instr with
  | .vadd d a b _ _ r => vaddMember c s d a b r
  | .vsub d a b _ _ r => vsubMember c s d a b r
  | .vmul d a b _ _ r => vmulMember c s d a b r
  | .vmulh d a b _ _ r => vmulhMember c s d a b r
  | .vmulhz d a b _ _ r => vmulhzMember c s d a b r
  | .vmadd d a b _ _ r => vmaddMember c s d a b r
  | .vmsub d a b _ _ r => vmsubMember c s d a b r
  | .vand d a b _ _ r => vandMember c s d a b r
  | .vor d a b _ _ r => vorMember c s d a b r
  | .vxor d a b _ _ r => vxorMember c s d a b r
  | .vsll d a b _ _ r => vsllMember c s d a b r
  | .vsrl d a b _ _ r => vsrlMember c s d a b r
  | .vsra d a b _ _ r => vsraMember c s d a b r
  | .vmin d a b _ _ r => vminMember c s d a b r
  | .vmax d a b _ _ r => vmaxMember c s d a b r
  | .vminz d a b _ _ r => vminzMember c s d a b r
  | .vmaxz d a b _ _ r => vmaxzMember c s d a b r
  | .vsadd d a b _ _ r => vsaddMember c s d a b r
  | .vssub d a b _ _ r => vssubMember c s d a b r
  | .vsaddz d a b _ _ r => vsaddzMember c s d a b r
  | .vssubz d a b _ _ r => vssubzMember c s d a b r
  | .vabsd d a b _ _ r => vabsdMember c s d a b r
  | .vfadd d a b _ _ r => vfaddMember c s d a b r
  | .vfsub d a b _ _ r => vfsubMember c s d a b r
  | .vfmul d a b _ _ r => vfmulMember c s d a b r
  | .vfma d a b _ _ r => vfmaMember c s d a b r
  | .vfms d a b _ _ r => vfmsMember c s d a b r
  | .vfnma d a b _ _ r => vfnmaMember c s d a b r
  | .vfdiv d a b _ _ r => vfdivMember c s d a b r
  | .vfsqrt d a _ => vfsqrtMember c s d a
  | .vfmin d a b _ _ r => vfminMember c s d a b r
  | .vfmax d a b _ _ r => vfmaxMember c s d a b r
  | .vfexp2 d a _ => vfexp2Member c s d a
  | .vfcvt d a z t _ => vfcvtMember c s d a z t
  | .vfclass d a _ => vfclassMember c s d a
  | .vfsgnj d a b _ _ r => vfsgnjMember c s d a b r
  | .pand d a b => pandMember c s d a b
  | .por d a b => porMember c s d a b
  | .pxor d a b => pxorMember c s d a b
  | .pandn d a b => pandnMember c s d a b
  | .pset d => psetMember c s d
  | .pclr d => pclrMember c s d
  | .pmov d a => pmovMember c s d a
  | .pexitb d a => pexitbMember c s d a
  | .pexita d a => pexitaMember c s d a
  | .pfirst g a => pfirstMember c s g a
  | .pcnt g a => pcntMember c s g a
  | .pidx d _ => pidxMember c s d
  | .vcmpEq d a b _ _ r => vcmpEqMember c s d a b r
  | .vcmpNe d a b _ _ r => vcmpNeMember c s d a b r
  | .vcmpLt d a b _ _ r => vcmpLtMember c s d a b r
  | .vcmpLe d a b _ _ r => vcmpLeMember c s d a b r
  | .vcmpLtz d a b _ _ r => vcmpLtzMember c s d a b r
  | .vcmpLez d a b _ _ r => vcmpLezMember c s d a b r
  | .vfcmpEq d a b _ _ r => vfcmpEqMember c s d a b r
  | .vfcmpNe d a b _ _ r => vfcmpNeMember c s d a b r
  | .vfcmpLt d a b _ _ r => vfcmpLtMember c s d a b r
  | .vfcmpLe d a b _ _ r => vfcmpLeMember c s d a b r
  | .vfcmpUn d a b _ _ r => vfcmpUnMember c s d a b r
  | .vslup d a _ _ => vslupMember c s d a
  | .vsldn d a _ _ => vsldnMember c s d a
  | .vcompress d a p => vcompressMember c s d a p
  | .vexpand d a p => vexpandMember c s d a p
  | .vperm d a b => vpermMember c s d a b
  | .vid d => vidMember c s d
  | .viota d p => viotaMember c s d p
  | .vmerge d a b _ _ r => vmergeMember c s d a b r
  | .vbcast d _ => vbcastMember c s d
  | .vextr g a _ => vextrMember c s g a
  | .vins d _ _ => vinsMember c s d
  | .vrsum d a => vrsumMember c s d a
  | .vrmax d a => vrmaxMember c s d a
  | .vrmin d a => vrminMember c s d a
  | .vfrsum d a => vfrsumMember c s d a
  | .vfrsumo d a => vfrsumoMember c s d a
  | .vfrmax d a => vfrmaxMember c s d a
  | .vfrmin d a => vfrminMember c s d a
  | .vrscl d a b => vrsclMember c s d a b
  | .vargmax d a => vargmaxMember c s d a
  | .vpsplit d a l => vpsplitMember c s d a l
  | .vpjoin d a l => vpjoinMember c s d a l
  | .vpadd d a _ => vpaddMember c s d a
  | .vld d _ => vldMember c s d
  | .vlds d _ => vldsMember c s d
  | .vldx d _ i _ k => vldxMember c s d i k
  | .vldf d _ => vldfMember c s d
  | .vst z _ _ => vstMember c s z
  | .vsts z _ _ => vstsMember c s z
  | .vstx z _ i _ k => vstxMember c s z i k
  | .vscadd z _ i _ f k => vscaddMember c s z i k f
  | .vmerget z _ f => vmergetMember c s z f
  | .vpld d _ i p m => vpldMember c s d i p m
  | .vpst z _ i p m => vpstMember c s z i p m
  | .vxpand d _ p => vxpandMember c s d p
  | .vbind d _ => vbindMember c s d
  | .vunbind d => vunbindMember c s d
  | .mattach n => mattachMember c s n
  | .mdetach => mdetachMember c s
  | .mzero t => mzeroMember c s t
  | .mxacc t a b _ _ f z => mxaccMember c s t a b f z
  | .mxsub t a b _ _ f z => mxsubMember c s t a b f z
  | .mrowv t d _ => mrowvMember c s t d
  | .mcolv t d _ => mcolvMember c s t d
  | .mvrow t a _ => mvrowMember c s t a
  | .mtst t _ => mtstMember c s t
  | .mtld t _ => mtldMember c s t
  | .cpyg d _ v => cpygMember c s d v
  | .vsample d a b _ => vsampleMember c s d a b
  | .vpen d a _ => vpenMember c s d a
  | .gmask p _ _ => gmaskMember c s p
  | .vhlook d a e _ => vhlookMember c s d a e
  | _ => .ok s

/-- The predicate that governs an instruction under a VMSK value (R29). -/
def Hart.governing (h : Hart) (vmsk : Word) : PReg :=
  if bit vmsk 5 then h.pget (fld vmsk 0 5) else BitVec.allOnes 4096

/-- The context of a queue entry as a member (R181). -/
def Hart.ctxOf (h : Hart) (q : QEntry) (j lo hi : Nat) (skips : List Nat := []) : Ctx :=
  let vl := vlOf q.cap.vcfg
  { q := q, j := j, lo := lo, hi := hi, vl := vl, u := min (h.bound.getD vl) vl, gov := h.governing q.cap.vmsk,
    skips := skips }

/-- Is an instruction element-aligned (R101, R103)? -/
def isKindA (i : Instr) : Bool := ((vInfo i).map (·.kindA)).getD false

/-! ### Delivery -/

/-- The bindings that an instruction reads, each once, in the order of its sources. -/
def Hart.bindingsRead (h : Hart) (q : QEntry) : List Nat :=
  ((allReads q.instr q.cap.mscale).filterMap h.bindingOf).eraseDups

/-- The streams of some bindings get a strip of vl elements ready, each of what the bindings before it leave of VL
(DEDUCED, log 42); a stop leaves USED of the binding that has nothing to give (R236). -/
def fetchAll (s : State) (block : Nat) : Nat → List Nat → State × Option Nat
  | _, [] => (s, none)
  | vl, i :: is =>
    let s := s.fetchStrip i vl
    match s.stripStop i vl block with
    | some u => (s, some u)
    | none => fetchAll s block (min vl (s.stripLeft i)) is

/-- The registers of binding i are about to be written again: what older instructions of the queue found there is kept
for their replay (R236). -/
def Hart.keepStrips (h : Hart) (i seq : Nat) : Hart :=
  let regs := ((h.binds[i]?).map Binding.regs).getD []
  { h with queue := h.queue.map (fun e =>
      if e.seq < seq && e.consumed && (h.bindingsRead e).contains i then
        { e with strip := e.strip ++ (regs.filter (fun r => !e.strip.any (fun x => x.1 = r))).map (fun r => (r, h.vget r)) }
      else e) }

/-- VL as the entry of an instruction has it. -/
def Hart.vlOfEntry (h : Hart) (seq : Nat) : Nat :=
  ((h.queue.find? (fun e => e.seq = seq)).map (fun e => vlOf e.cap.vcfg)).getD 0

/-- The strips of some bindings delivered to an instruction, one for each binding it reads (R236). -/
def takeAll (s : State) (block seq : Nat) (is : List Nat) : State :=
  is.foldl (fun s i =>
    (s.modHart (fun h => h.keepStrips i seq)).takeStrip i (s.hart.vlOfEntry seq) block seq) s

/-- The strips that an instruction consumes before it first executes: all of them, or none and a stop (R236). -/
def deliverAll (s : State) (q : QEntry) : MRes :=
  let is := s.hart.bindingsRead q
  let block := 16 <<< blkOf q.cap.vcfg
  match fetchAll s block (vlOf q.cap.vcfg) is with
  | (s, some u) => .at s 0 causeStream (BitVec.ofNat 64 u)
  | (s, none) => .ok (takeAll s block q.seq is)

/-! ### Stops before an effect -/

/-- The watch entry that matches lowest among the elements an execution covers (R320), with its element and index,
unless the replay does not repeat it (R321). An instruction without elements of its own has those of its strip, and of two
entries for one element the lower counts (DEDUCED, log 48). -/
def Hart.watchMatch (h : Hart) (c : Ctx) : Option (Nat × Nat) :=
  let es := (List.range 4).filterMap (fun n =>
    match h.watch[n]? with
    | none => none
    | some w =>
      if w.en && w.addr = c.q.addr && c.lo ≤ w.elem && w.elem < c.vl && w.elem < c.u && !c.skipped w.elem
          && !h.watched.contains (c.q.seq, w.elem) then some (w.elem, n) else none)
  es.foldl (fun best e =>
    match best with
    | none => some e
    | some b => if e.1 < b.1 then some e else best) none

/-- The live physical lanes of a hart, rising (R436). -/
def Hart.liveLanes (h : Hart) : List Nat := (List.range 32).filter (fun i => !h.retiredLanes.getLsbD i)

/-- The physical lanes on which element i of an instruction is computed in a mirror strip (R436). -/
def Hart.pairOf (h : Hart) (ew i : Nat) : Nat × Nat :=
  let q := h.liveLanes
  let l := i * ewBits ew / 512
  (q.getD l 0, q.getD (l + q.length / 2) 0)

/-- Is an instruction the tile unit's, whose work is done once (R436)? -/
def tileOp : Instr → Bool
  | .mxacc .. => true
  | .mxsub .. => true
  | .mzero .. => true
  | .mattach .. => true
  | .mdetach .. => true
  | .mvrow .. => true
  | _ => false

/-- Does element i of an instruction write or access anything that the two copies compare (R436)? Of an instruction of
kind A that writes a vector register only a written or zeroed element does, of a store only a written one. -/
def Ctx.compared (c : Ctx) (i : Nat) : Bool :=
  if tileOp c.q.instr then false
  else if !isKindA c.q.instr then true
  else if stores c.q.instr then c.on i
  else if (((vInfo c.q.instr).map (·.writes)).getD []).isEmpty then true
  else c.on i || c.zero

/-- The lowest element of a member at which a comparison fails (R437). -/
def Hart.mismatch (h : Hart) (c : Ctx) : Option Nat :=
  if h.miract then
    ((h.mirrorError.filter (fun e =>
      e.1 = c.j && c.lo ≤ e.2 && e.2 < c.vl && !c.skipped e.2 && c.compared e.2)).map (·.2)).min?
  else none

/-- The element at which an instruction stops for something found at element e: element 0 for kind X (R198, R239). -/
def Ctx.stopElem (c : Ctx) (e : Nat) : Nat := if isKindA c.q.instr then e else 0

/-- The stop that is decided before an element has any effect: a watch match, before any fault of its element (R317), or
a mismatch (R437). `tie` says that an older member's fault at element hi gives way to a mismatch there. -/
def Hart.forced (h : Hart) (c : Ctx) (tie : Bool) : Option MStop :=
  if c.free then none
  else
  let w := (h.watchMatch c).bind (fun e =>
    if c.stopElem e.1 < c.hi then
      some { elem := c.stopElem e.1, cause := causeWatch, val := BitVec.ofNat 64 e.2, kill := false, hit := e.1 }
    else none)
  let m := (h.mismatch c).bind (fun e =>
    if c.stopElem e < c.hi + b2n tie then
      some { elem := c.stopElem e, cause := causeMirror, val := BitVec.ofNat 64 (h.pairOf c.ew e).1, kill := false, hit := e }
    else none)
  match w, m with
  | some a, some b => if b.elem < a.elem then some b else some a
  | some a, none => some a
  | none, b => b

/-! ### A member over its elements -/

/-- A member over its elements, up to the element at which it is forced to stop; where a VLDF trims VL to that element or
below, the stop falls away (R189, R320). -/
def runForced (c : Ctx) (tie : Bool) (s : State) : MRes :=
  match s.hart.forced c tie with
  | none => runMember c s
  | some x =>
    let r := runMember { c with hi := min c.hi x.elem } s
    match r.stop with
    | some _ => r
    | none => if r.alive && x.elem < r.s.hart.vlOfEntry c.q.seq then { r with stop := some x } else r

/-- A member run over the strips that its own delivery gave it, where a younger reader has taken others since (R236);
the registers then hold the younger strips again. -/
def runOnStrip (c : Ctx) (tie : Bool) (s : State) : MRes :=
  if c.q.strip.isEmpty then runForced c tie s
  else
    let now := s.hart.regsOf (c.q.strip.map (·.1))
    let r := runForced c tie (s.modHart (fun h => h.putRegs c.q.strip))
    { r with s := r.s.modHart (fun h => h.putRegs now) }

/-- The elements that this execution leaves a member, its bound `hi` aside. -/
def Ctx.left (c : Ctx) : List Nat := ({ c with hi := 8192 } : Ctx).elems

/-- Is a member skipped whole by a replay (R323)? -/
def Ctx.skippedWhole (c : Ctx) : Bool :=
  0 < c.lo && (!isKindA c.q.instr || (c.left.isEmpty && 0 < c.vl))

/-- What a member does about the strips it reads: nothing, have them fetched, or take them. -/
inductive Strips where
  | leave
  | fetch
  | take
  deriving DecidableEq, Repr

/-- A member as `c` says: a stop decided before its first effect, then its strips, then its elements below `hi`. An
instruction of kind X has all its effects at once, or none where hi is 0. -/
def runCtx (c : Ctx) (strips : Strips) (tie : Bool) (s : State) : MRes :=
  let first := c.stopElem ((c.left.head?).getD 0)
  match (s.hart.forced c tie).filter (fun x => x.elem = first) with
  | some x => { s := s, stop := some x, alive := true }
  | none =>
    let r := if c.q.consumed then .ok s
      else
        match strips with
        | .leave => .ok s
        | .fetch => .ok (fetchAll s (16 <<< blkOf c.q.cap.vcfg) c.vl (s.hart.bindingsRead c.q)).1
        | .take => deliverAll s c.q
    if r.stop.isSome || c.hi = 0 then r
    else
      match r.s.hart.queue.find? (fun e => e.seq = c.q.seq) with
      | none => r
      | some q => runOnStrip { r.s.hart.ctxOf q c.j c.lo c.hi c.skips with free := c.free } tie r.s

/-- A queue entry as member j over the elements from lo to hi; a break that is skipped whole leaves no exit to be known
(R32, R323). -/
def memberRun (s : State) (seq j lo hi : Nat) (strips : Strips) (tie : Bool) : MRes :=
  match s.hart.queue.find? (fun e => e.seq = seq) with
  | none => .ok s
  | some q =>
    let c := s.hart.ctxOf q j lo hi
    if c.skippedWhole then .ok (if isBreak q.instr then s.modHart (fun h => h.breakDone seq) else s)
    else runCtx c strips tie s

/-! ### A convoy -/

/-- A convoy to be run: its members in program order, the element from which they go on, and the registers kept apart
from an earlier stop (log 79). -/
structure Plan where
  seqs : List Nat
  lo : Nat
  base : List (Nat × VReg) := []
  deriving DecidableEq, Repr

/-- A convoy under way: the bound that the stops found so far set, the stop with its member, whether the hart still runs
its launch, and the lane slots used for the record of R447. -/
structure Run where
  s : State
  hi : Nat
  stop : Option (Nat × MStop)
  alive : Bool
  useful : Nat
  slots : Nat

/-- The lane slots that a member uses: how many hold elements below VL, and which hold a written one (R447). -/
def slotUse (h : Hart) (q : QEntry) (lo : Nat) : Nat × Nat :=
  let c := h.ctxOf q 0 lo 8192
  let per := 64 / c.bits
  let mask := (List.range' (lo / per) ((c.vl + per - 1) / per - lo / per)).foldl (fun m k =>
    if (List.range' (k * per) per).any (fun i => lo ≤ i && c.on i) then m ||| 2 ^ k else m) 0
  ((c.vl + per - 1) / per, mask)

/-- Does a younger member's mismatch at the same element come before this stop (R437)? -/
def MStop.yields (x : MStop) : Bool := !x.kill && x.cause ≠ causeWatch && x.cause ≠ causeMirror

/-- A member's end in a run of its convoy (R191): at the lowest element with a stop, the lowest member has it. -/
def Run.meet (r : Run) (j : Nat) (use : Nat × Nat) (m : MRes) : Run :=
  let r := { r with s := m.s, alive := m.alive, useful := r.useful ||| use.2, slots := max r.slots use.1 }
  match m.stop with
  | none => r
  | some x => { r with hi := x.elem, stop := some (j, x) }

/-- Does the stop found so far give way to a mismatch at its element (R437)? -/
def Run.tie (r : Run) : Bool := (r.stop.map (fun x => x.2.yields)).getD false

/-- The next member of a convoy. -/
def Run.next (p : Plan) (r : Run) (seq j : Nat) : Run :=
  if !r.alive then r
  else
    let use := ((r.s.hart.queue.find? (fun e => e.seq = seq)).map (fun q => slotUse r.s.hart q p.lo)).getD (0, 0)
    r.meet j use (memberRun r.s seq j p.lo r.hi (if r.hi = 0 then .leave else .take) r.tie)

/-- A run that has not begun. -/
def Run.start (s : State) : Run := { s := s, hi := 8192, stop := none, alive := true, useful := 0, slots := 0 }

/-- All members, in program order. -/
def runMembers (s : State) (p : Plan) : Run :=
  (p.seqs.zipIdx).foldl (fun r (x : Nat × Nat) => r.next p x.1 x.2) (.start s)

/-- What member n, which starts at element `first`, has done about its strips at a stop of member j: one behind it has
not begun when the stop is where it starts, and one that stops before its first effect has taken none. -/
def stripsAt (first : Nat) (x : MStop) (j n : Nat) : Strips :=
  if first < x.elem || n < j then .take
  else if j < n || x.cause = causeWatch || x.cause = causeMirror then .leave
  else if x.cause = causeStream then .fetch
  else .take

/-- The members over the elements below a stop, where their registers show all that a replay reads (R192). -/
def commitBelow (s : State) (p : Plan) (j : Nat) (x : MStop) : State :=
  (p.seqs.zipIdx).foldl (fun s (y : Nat × Nat) =>
    (memberRun s y.1 y.2 p.lo x.elem (stripsAt p.lo x j y.2) false).s) s

/-! ### A convoy whose members are not in step -/

/-- A member of a convoy whose registers are kept apart: how it executed, the convoy's registers before it, the elements
it can execute now, and the registers that it writes as it left them. -/
structure Woven where
  c : Ctx
  before : List (Nat × VReg)
  done : List Nat
  wrote : List (Nat × VReg)
  deriving DecidableEq, Repr

/-- The members run one after the other as if none had stopped, for the values that each element is due (R112, R193);
`run` finds the stop. -/
structure Weave where
  run : Run
  unwritten : Unwritten
  parts : List Woven

/-- A member over what it has left; nothing where that is no element. -/
def runLeft (c : Ctx) (strips : Strips) (tie : Bool) (s : State) : MRes :=
  if c.left.isEmpty && 0 < c.vl then .ok s else runCtx c strips tie s

/-- The next member: it leaves out what it has executed or skipped already, and what must wait for an older member. What
its earlier executions wrote is put behind what it writes now. -/
def Weave.next (w : Weave) (p : Plan) (seq j : Nat) : Weave :=
  match w.run.s.hart.queue.find? (fun e => e.seq = seq) with
  | none => w
  | some q =>
    if !w.run.alive then w
    else
      let s := w.run.s
      let h := s.hart
      let c := h.ctxOf q j p.lo 8192
      let old := fun i => i < p.lo || q.ran.contains i || q.gone.contains i
      let c := { c with skips := (List.range c.vl).filter (fun i => old i || w.unwritten.delays c h i) }
      let seen := runLeft { c with hi := w.run.hi } (if w.run.hi = 0 then .leave else .take) w.run.tie s
      let whole := runLeft { c with free := true } .take false s
      let whole := if whole.alive then whole else seen
      let vl := min c.vl (whole.s.hart.vlOfEntry seq)
      let done := c.left.filter (fun i => i < vl && i < (whole.stop.map (·.elem)).getD 8192)
      let s := whole.s.modHart (c.putWritten q.ran q.wrote)
      let lacking := (List.range vl).filter (fun i =>
        !old i && !done.contains i && (c.on i || w.unwritten.lacks c i))
      let regs := (q.writes.map (·.reg)).eraseDups
      { run := { w.run.meet j (slotUse h q ((c.left.head?).getD c.vl)) seen with
                 s := if seen.alive then s else seen.s }
        unwritten := w.unwritten.add c h lacking
        parts := w.parts ++ [{ c := c, before := h.regsOf (p.base.map (·.1)), done := done
                               wrote := s.hart.regsOf regs }] }

/-- All members, in program order, from the registers as they stood before the convoy. -/
def weaveMembers (s : State) (p : Plan) : Weave :=
  (p.seqs.zipIdx).foldl (fun w (x : Nat × Nat) => w.next p x.1 x.2)
    { run := .start (s.modHart (fun h => h.putRegs p.base)), unwritten := { bits := [], bytes := [] }, parts := [] }

/-- One member over the elements below a stop that it can execute, from the registers that it is due (R192). -/
def Woven.commit (y : Woven) (j : Nat) (x : MStop) (s : State) : State :=
  let now := y.done.filter (· < x.elem)
  let c := { y.c with hi := x.elem, free := true, skips := (List.range y.c.vl).filter (!now.contains ·) }
  let first := (y.c.left.head?).getD 8192
  let s := (runCtx c (stripsAt first x j y.c.j) false (s.modHart (fun h => h.putRegs y.before))).s
  s.modHart (fun h => { h with queue := h.queue.map (fun e =>
    if e.seq = y.c.q.seq then { e with ran := e.ran ++ now, wrote := y.wrote } else e) })

/-- The members over the elements below a stop; the registers then show those of every member, in program order, and
from the stop on what they held before the convoy (R192). -/
def Weave.commitBelow (w : Weave) (s : State) (p : Plan) (j : Nat) (x : MStop) : State :=
  let s := w.parts.foldl (fun s y => y.commit j x s) s
  s.modHart (fun h => w.parts.foldl (fun h y =>
    y.c.putWritten (((h.queue.find? (fun e => e.seq = y.c.q.seq)).map (·.ran)).getD []) y.wrote h) (h.putRegs p.base))

/-- The slots of a mask below n. -/
def countMask (m n : Nat) : Nat := (List.range n).countP (fun i => m.testBit i)

/-- The lane-cycle record of one execution of a convoy (R447): two start-up clocks, then passes over the slots. The clocks
themselves are still to come (log 16). -/
def State.countLanes (s : State) (lo : Nat) (r : Run) (ew : Nat) : State :=
  let h := s.hart
  let g := 8 * s.lgrant s.cur
  if g = 0 then s
  else
    let m := if h.miract then 2 else 1
    let first := lo / (64 / ewBits ew)
    let n := m * (r.slots - first)
    let use := m * countMask r.useful r.slots
    let all := (n + g - 1) / g * g
    let add := fun (w : Word) (k : Nat) => w + BitVec.ofNat 64 k
    s.modHart (fun h => { h with
      lcuse := add h.lcuse use, lcmask := add h.lcmask (n - use), lctail := add h.lctail (all - n),
      lcstart := add h.lcstart (2 * g), activity := h.activity + all + 2 * g, ahead := h.ahead + all / g + 2 })

/-! ### Rewind -/

/-- The hart after a rewind to a checkpoint (R432, R244, R433). -/
def Hart.rewound (h : Hart) (k : Checkpoint) : Hart :=
  let g := (List.range 32).filter (fun i => i ≠ 0 && k.sckm.getLsbD i)
  let h := (g.zip k.gs).foldl (fun h x => h.gset x.1 x.2) h
  let h := if bit k.sckm 39 then h.vset (fld k.sckm 33 6) k.va else h
  let h := if bit k.sckm 46 then h.vset (fld k.sckm 40 6) k.vb else h
  { h with
    held := [], waiting := [], queue := [], stopped := none, watched := [], vresume := 0
    tiles := k.tiles, keptTiles := 0
    binds := h.binds.mapIdx (fun i b => { b with used := k.used.getD i b.used })
    vcfg := h.kvcfg, vexit := BitVec.ofNat 64 (vlOf h.kvcfg + 65536), vftrim := 0, ftrimPlace := 0, paddr := 0
    stripK := false, drained := false, poisoned := false, ckpt := none, kvcfg := 0, bound := none, fences := []
    split := false, lastVl := vlOf h.kvcfg, sup := false, pc := k.resume, entering := false }

/-- The strip of the executing hart is rewound (R432); nothing without a checkpoint. -/
def State.rewind (s : State) : State :=
  match s.hart.ckpt with
  | none => s
  | some k => s.modHart (fun h => h.rewound k)

/-- Is the current strip rewindable (R41)? -/
def Hart.rewindable (h : Hart) : Bool := h.stripK && !h.drained && h.ckpt.isSome

/-! ### The end of a convoy -/

/-- How the run of a convoy ends: it retired, it stopped or was rewound, or the launch was killed. -/
inductive ConvoyEnd where
  | retired
  | stopped
  | gone
  deriving DecidableEq, Repr

/-- The members retire: they leave the queue (R312). -/
def Hart.retire (h : Hart) (seqs : List Nat) : Hart :=
  { h with queue := h.queue.filter (fun e => !seqs.contains e.seq), stopped := none, watched := [],
           dbg := { h.dbg with retired := true } }

/-- The hart with a convoy stopped at element k of member j (R192): what lies behind the convoy keeps its own convoys. -/
def Hart.stopAt (h : Hart) (p : Plan) (j k : Nat) : Hart :=
  let behind := h.queue.find? (fun e => !p.seqs.contains e.seq)
  ({ h with
    stopped := some { member := j, front := k, base := p.base }
    vresume := BitVec.ofNat 64 k
    queue := h.queue.map (fun e =>
      { e with begun := false, split := e.split || (behind.map (·.seq)) = some e.seq })
    split := h.split || behind.isNone } : Hart).freeze

/-- A comparison that failed has been reported: it does not fail again of itself (R437). -/
def Hart.dropMismatch (h : Hart) (j e : Nat) : Hart := { h with mirrorError := h.mirrorError.filter (fun x => x ≠ (j, e)) }

/-- A stop of the executing hart's convoy takes effect (R192, R313, R437, R438, R467). -/
def State.stopConvoy (s : State) (first : QEntry) (p : Plan) (j : Nat) (x : MStop) : State × ConvoyEnd :=
  if x.kill then (s.killMine 1 x.val, .gone)
  else if x.cause = causeMirror && s.hart.rewindable then
    ((s.modHart (fun h => h.dropMismatch j x.hit)).rewind, .stopped)
  else
    let q := (s.hart.queue.find? (fun e => some e.seq = p.seqs[j]?)).getD first
    let s := s.modHart (fun h => h.stopAt p j x.elem)
    let s := if x.cause = causeWatch then s.modHart (fun h => { h with watched := (q.seq, x.hit) :: h.watched }) else s
    let s := if x.cause = causeMirror then
        let pair := s.hart.pairOf (ewOf q.cap.vcfg) x.hit
        (s.modHart (fun h => h.dropMismatch j x.hit)).suspectPair (coreOf s.cur) pair.1 pair.2
      else s
    if x.cause = causeMirror && (s.core (coreOf s.cur)).retired then (s, .gone)
    else
      (s.takeStop { cause := x.cause, vec := true, pc := first.addr, mem := j, elem := x.elem, val := x.val,
                    spc := s.hart.pc }, .stopped)

/-- An uncorrectable error in a hart's registers has taken its launch: it is counted once, and gone with the launch
(R425, R430). -/
def State.killForRegisters (s : State) (h : Nat) : State :=
  ((s.countSram 1).modHartAt h (fun x => { x with regError := false })).killFor h 1 0

/-- How the convoy at the head of a hart's queue is to be run. -/
def Hart.plan (h : Hart) (convoy : List QEntry) : Plan :=
  match h.stopped with
  | none => { seqs := convoy.map (·.seq), lo := 0 }
  | some x => { seqs := convoy.map (·.seq), lo := if x.base.isEmpty then x.front else 0, base := x.base }

/-- The end of a convoy that met no stop. -/
def State.retireConvoy (s : State) (first : QEntry) (p : Plan) (r : Run) : State × ConvoyEnd :=
  ((s.countLanes p.lo r (ewOf first.cap.vcfg)).modHart (fun h => h.retire p.seqs), .retired)

/-- A convoy whose members are not in step runs to its end or its stop, with its registers kept apart (log 79). -/
def State.runWoven (s : State) (first : QEntry) (p : Plan) : State × ConvoyEnd :=
  let w := weaveMembers s p
  if !w.run.alive then (w.run.s, .gone)
  else
    match w.run.stop with
    | none => w.run.s.retireConvoy first p w.run
    | some (j, x) =>
      ((w.commitBelow s p j x).countLanes p.lo w.run (ewOf first.cap.vcfg)).stopConvoy first p j x

/-- The convoy at the head of the executing hart's queue runs to its end or its stop (R47, R191, R192). -/
def State.runConvoy (s : State) : State × ConvoyEnd :=
  match headConvoy s.hart.queue with
  | [] => (s, .retired)
  | first :: rest =>
    if s.hart.regError then (s.killForRegisters s.cur, .gone)
    else
      let p := s.hart.plan (first :: rest)
      if !p.base.isEmpty then s.runWoven first p
      else
        let r := runMembers s p
        if !r.alive then (r.s, .gone)
        else
          match r.stop with
          | none => r.s.retireConvoy first p r
          | some (j, x) =>
            if convoyInStep (first :: rest) then
              ((commitBelow s p j x).countLanes p.lo r (ewOf first.cap.vcfg)).stopConvoy first p j x
            else s.runWoven first { p with base := s.hart.regsOf (writtenBy (first :: rest)) }

/-! ### Convoys that are known, and waits for convoys -/

/-- The queue entry of a vector instruction with the values captured at issue (R24, R45, R79). -/
def State.entryOf (s : State) (i : Instr) : QEntry :=
  let h := s.hart
  let g := scalarSources i
  { instr := i, addr := h.pc, opa := h.gget (g.getD 0 0), opb := h.gget (g.getD 1 0), cap := h.capture,
    consumed := false, seq := h.nextSeq, begun := false, split := h.split }

/-- Is the convoy at the head of a queue of the executing hart known, so that no later word can join it (R111)? More is
queued behind it, it is full or of kind X, the word at the pc is a vector instruction that does not join it, or no
instruction, or the scalar unit waits with a store (R185). An S instruction leaves it open. -/
def State.closedBehind (s : State) (q : List QEntry) : Bool :=
  let h := s.hart
  let c := headConvoy q
  c.length < q.length || 4 ≤ c.length || c.any (fun e => !isKindA e.instr) || !h.waiting.isEmpty
    || (match s.peek h.pc with
        | none => true
        | some i => (vInfo i).isSome && !joins c (s.entryOf i))

/-- A step of hart h, after which the hart that executes is the same as before. -/
def State.asHart (s : State) (h : Nat) (f : State → State) : State :=
  { f { s with cur := h } with cur := s.cur }

/-- Does a convoy hold a break (R180)? -/
def holdsBreak (q : List QEntry) : Bool := q.any (fun e => isBreak e.instr)

/-- The convoys of a queue in program order; fuel bounds their number. -/
def convoysFor : Nat → List QEntry → List (List QEntry)
  | 0, _ => []
  | _, [] => []
  | n + 1, e :: es =>
    let c := headConvoy (e :: es)
    c :: convoysFor n ((e :: es).drop c.length)

/-- The convoys of a queue (R111). -/
def convoys (q : List QEntry) : List (List QEntry) := convoysFor q.length q

/-- Has a convoy begun (R184)? -/
def convoyBegun (c : List QEntry) : Bool := c.all (·.begun)

/-- Convoys that have begun behind the oldest unresolved break (R184). -/
def begunBehind (q : List QEntry) : Nat :=
  (((convoys q).dropWhile (fun c => !holdsBreak c)).drop 1).countP convoyBegun

/-- The single step that the debugger asked for is behind the hart, which is about to halt (R442). -/
def Hart.stepDone (h : Hart) : Bool := h.dbg.armed && h.dbg.retired

/-- May the oldest unstarted convoy of hart h begin (R184, R383)? It is one that no later word can join (R111). -/
def State.convoyReady (s : State) (h : Nat) : Bool :=
  let x := s.hartAt h
  x.place.isSome && !x.sup && !x.dbg.halted && !x.stepDone && s.lgrant h ≠ 0 && !x.unstarted.isEmpty
    && begunBehind x.queue < Config.breakWindow && { s with cur := h }.closedBehind x.unstarted

/-- One convoy for the executing hart, which waits for its own: the one that has begun, or the one that its core picks
among those that are ready and its own (R383, R384). -/
def State.runPicked (s : State) : State × ConvoyEnd :=
  if convoyBegun (headConvoy s.hart.queue) then s.runConvoy
  else
    let h := (s.pickAmong (fun h => h = s.cur || s.convoyReady h) (coreOf s.cur)).getD s.cur
    if h = s.cur then (s.modHart Hart.pick).runConvoy
    else
      let t := s.asHart h (fun s => (s.modHart Hart.pick).runConvoy.1)
      (t, if t.hart.place = s.hart.place then .retired else .gone)

/-- Convoys run until no queued instruction of the executing hart is one of those asked for, or one of its own stops;
under a single step none runs once something has retired (R442). Fuel bounds their number. -/
def State.runUntil (p : QEntry → Bool) : Nat → State → State × ConvoyEnd
  | 0, s => (s, .retired)
  | n + 1, s =>
    if !s.hart.queue.any p || s.hart.stepDone then (s, .retired)
    else
      match s.runPicked with
      | (s, .retired) => State.runUntil p n s
      | r => r

/-- Entries in the queues of the harts of a core. -/
def State.queuedOn (s : State) (c : Nat) : Nat := ((hartsOf c).map (fun h => (s.hartAt h).queue.length)).sum

/-- The queued vector instructions that are asked for retire, or one stops (R25, R312). -/
def State.runQueue (s : State) (p : QEntry → Bool) : State × ConvoyEnd := s.runUntil p (s.queuedOn (coreOf s.cur))

/-- The scalar unit waits for the vector instructions that are asked for, then goes on with k; a stop found in that wait
is taken in its place (R25, R312). In supervisor mode the frozen queue counts as retired (R316). Under a single step the
wait ends with the first convoy, and the word waits for the next step (R442). -/
def State.afterThose (s : State) (p : QEntry → Bool) (k : State → State) : State :=
  if s.hart.sup || !s.hart.queue.any p then k s
  else
    match s.runQueue p with
    | (s, .retired) => if s.hart.stepDone then s else k s
    | (s, _) => s

/-- The scalar unit waits for every vector instruction where `need` says so (R25, R312). -/
def State.afterQueue (s : State) (need : Bool) (k : State → State) : State := s.afterThose (fun _ => need) k

/-- A trap of the word at the pc, once every older vector instruction has retired (R312). -/
def State.trapAfter (s : State) (cause : Nat) (val : Word) : State :=
  s.afterQueue true (fun s => s.trapHere cause val)

/-! ### Issue of a vector instruction -/

/-- A vector instruction enters the command queue, and the scalar unit goes on (R45, R79). -/
def State.enqueue (s : State) (i : Instr) : State :=
  let e := s.entryOf i
  s.modHart (fun h => { h with queue := h.queue ++ [e], nextSeq := h.nextSeq + 1, split := false,
                               lastVl := vlOf e.cap.vcfg, pc := h.pc + 4 })

/-- Is the convoy at the head of the executing hart's queue known? -/
def State.convoyKnown (s : State) : Bool := s.closedBehind s.hart.queue

/-- Has the sequencer of the executing hart a convoy to take up at once, where the model has it so (log 6)? -/
def State.convoyDue (s : State) : Bool := s.eager && !s.hart.sup && !s.hart.queue.isEmpty && s.convoyKnown

/-- Has the sequencer of hart h a convoy to take up at once? A hart that does not execute must be able to. -/
def State.convoyDueAt (s : State) (h : Nat) : Bool :=
  { s with cur := h }.convoyDue
    && (h = s.cur || ((s.hartAt h).place.isSome && !(s.hartAt h).dbg.halted && s.lgrant h ≠ 0))

/-- The hart of the core of the executing hart whose convoy is taken up first (R383). -/
def State.convoyPick (s : State) : Option Nat := s.pickAmong s.convoyDueAt (coreOf s.cur)

/-- The convoys of the executing hart run while they are known and the core picks it; fuel bounds their number. Under a
single step none runs once something has retired, so that the hart halts behind it (R442). -/
def State.runKnownFor : Nat → State → State
  | 0, s => s
  | n + 1, s =>
    if s.hart.queue.isEmpty || s.hart.stepDone || s.convoyPick ≠ some s.cur then s
    else
      match (s.modHart Hart.pick).runConvoy with
      | (s, .retired) => State.runKnownFor n s
      | (s, _) => s

/-- The sequencer takes its queue up at once, as far as the convoys are known, where the model has it so (log 6). -/
def State.takeUp (s : State) : State := s.runKnownFor s.hart.queue.length

/-- A free place in the queue (R45): with a full queue the oldest entry leaves first, and an entry that does not join the
open convoy lets the sequencer take the queue up, where the model has it so (log 6). -/
def State.makePlace (s : State) (i : Instr) (k : State → State) : State :=
  let h := s.hart
  let oldest := (h.queue.head?).map (·.seq)
  let full := Config.queueCap ≤ h.queue.length
  s.afterThose (fun e => (s.eager && !joins (headConvoy h.queue) (s.entryOf i)) || (full && some e.seq = oldest)) k

/-- The last check at issue, VL_RANGE, then the issue; a trim that is still to come counts (R189). -/
def State.issueChecked (s : State) (i : Instr) : State :=
  let bad := fun (s : State) =>
    let e := s.entryOf i
    vlTrap s.hart i s.hart.capture e.opa (s.ladderOf i e.opa)
  match bad s with
  | none => s.makePlace i (fun s => (s.enqueue i).takeUp)
  | some _ =>
    s.afterQueue true (fun s =>
      match bad s with
      | none => (s.enqueue i).takeUp
      | some v => s.trapHere causeVlRange v)

/-- Does the queue hold an instruction that changes the bindings (R235)? -/
def changesBindings (q : List QEntry) : Bool :=
  q.any (fun e =>
    match e.instr with
    | .vbind _ _ => true
    | .vunbind _ => true
    | _ => false)

/-- Does the check of VL_RANGE read memory, as older instructions leave it (R232)? -/
def readsLadder : Instr → Bool
  | .vxpand .. => true
  | _ => false

/-- The checks at issue after ILLEGAL, in the order of R317, then the issue. -/
def State.issueLegal (s : State) (i : Instr) : State :=
  if overlaps i s.hart.capture then s.trapAfter causeOverlap ((wordOf i).setWidth 64)
  else
    s.afterQueue (changesBindings s.hart.queue || readsLadder i) (fun s =>
      if streamTrap s.hart i s.hart.capture then s.trapAfter causeStream ((wordOf i).setWidth 64)
      else s.issueChecked i)

/-- The scalar unit meets a vector instruction: in supervisor mode, and where it is ILLEGAL under the captured values,
it traps (R114, R316); it waits for a queued instruction that writes a g register it reads (R79). -/
def State.issueV (s : State) (i : Instr) : State :=
  if s.hart.sup then s.trapHere causeIllegal ((wordOf i).setWidth 64)
  else if illegalAtIssue i s.hart.capture then s.trapAfter causeIllegal ((wordOf i).setWidth 64)
  else s.afterThose (fun e => e.writesG && !(scalarSources i).isEmpty) (fun s => s.issueLegal i)

end Sys2Proof.Machine
end

