-- ==== Sys2Proof/Machine/Lanes.lean ====
section
/-! DEFINITION. Lane groups at a strip boundary (R385, R386, R439), and the two ways a rank leaves its hart: it halts
(R167, R379) or it is saved (R318, R389). -/

namespace Sys2Proof.Machine

/-! ### Lane groups -/

/-- Harts of a core that hold groups. -/
def State.holders (s : State) (c : Nat) : Nat :=
  ((List.range 4).filter (fun i => s.lgrant (4 * c + i) ≠ 0)).length

/-- Is another hart of the core of h a requester (R386)? -/
def State.otherRequests (s : State) (h : Nat) : Bool :=
  (List.range 4).any (fun i =>
    let k := 4 * coreOf h + i
    k ≠ h && (s.hartAt k).laneSince.isSome)

/-- Groups of its core earmarked for hart h. -/
def State.earmarks (s : State) (h : Nat) : Nat :=
  (s.core (coreOf h)).groups.toList.countP (fun g => g = .earmarked h)

/-- Hart h releases n of its groups, the highest-numbered first. -/
def State.dropGroups (s : State) (h n : Nat) : State :=
  let c := coreOf h
  let mine := (List.range 4).filter (fun i => ((s.core c).groups[i]?).getD .free = .holds h)
  (mine.reverse.take n).foldl (fun s i => s.freeGroup c i) s

/-- The free groups of a core go to its requesters (R386). -/
def State.shareFree (s : State) (c : Nat) : State :=
  (List.range 4).foldl (fun s i =>
    match ((s.core c).groups[i]?).getD .free with
    | .free => s.freeGroup c i
    | _ => s) s

/-- Hart h receives every group earmarked for it (R386). -/
def State.takeEarmarks (s : State) (h : Nat) : State :=
  s.modCore (coreOf h) (fun k => { k with groups := k.groups.map (fun g => if g = .earmarked h then .holds h else g) })

/-- How many groups a strip asks for: D of R386. -/
def groupsWanted (vl bits : Nat) (mirror : Bool) : Nat :=
  min 4 (max 1 ((vl * bits * (if mirror then 2 else 1) + 4095) / 4096))

/-- Hart h settles its lane groups at a strip boundary (R386). What it releases goes to other requesters: its own request
rests while it releases (log 88). -/
def State.settleLanes (s : State) (h : Nat) : State :=
  let x := s.hartAt h
  let held := s.lgrant h
  let d := groupsWanted (vlOf x.vcfg) (ewBits (ewOf x.vcfg)) x.miract
  let target := if s.otherRequests h then min d (max (4 / s.holders (coreOf h)) 1) else d
  let s := s.modHartAt h (fun x => { x with laneShort := 0, laneSince := none })
  let s := if target < held then s.dropGroups h (held - target) else s
  let s :=
    if held < d then
      let (t, s) := s.takeStamp
      let short := d - held - s.earmarks h
      s.modHartAt h (fun y => { y with
        laneShort := short, laneSince := if short = 0 then none else some (x.laneSince.getD t) })
    else s
  (s.shareFree (coreOf h)).takeEarmarks h

/-- Lanes of its core retired since take effect for the hart (R439), and what its lanes do not hold is lost (R16, R19,
R28). -/
def Hart.clip (h : Hart) (retired : BitVec 32) (mirror : Bool) : Hart :=
  let h := { h with retiredLanes := retired, miract := mirror }
  { h with v := h.v.map (· &&& h.vmask), p := h.p.map (· &&& h.pmask) }

/-! ### A rank leaves its hart -/

/-- A gang that was STOPPING and whose last hart has stopped: pre-empted, it is RESUMABLE at once (R389, R392); where
every hart of it has halted, nothing is left to resume. -/
def Gang.settled (g : Gang) : Gang :=
  let still := g.ranks.any (fun r =>
    match r with
    | .on _ => true
    | _ => false)
  if g.state = .stopping && !still then
    { g with state := if g.ranks.all (· = .halted) then .running else if g.swapped then .saved else .resumable }
  else g

/-- Have all gangs of a launch been placed and every hart of every gang halted (R379)? -/
def Launch.allHalted (l : Launch) : Bool :=
  l.gcount ≤ l.nextGang && l.gangs.all (fun g => g.ranks.all (fun r => r = .halted))

/-- The rank of a place becomes r. -/
def State.setRank (s : State) (p : Place) (r : Rank) : State :=
  let (n, s) := s.takeStamp
  let s := s.modGang p.serial p.gang (fun g =>
    { g with ranks := g.ranks.set p.rank r, haltedAt := if r = Rank.halted then n else g.haltedAt }.settled)
  s.modLaunch p.serial (fun l =>
    if l.allHalted && (l.state = .running || l.state = .dispatching) then { l with state := .draining } else l)

/-- The hart ends its part in its launch and is free (R167, R379). -/
def State.haltHart (s : State) (h : Nat) : State :=
  match (s.hartAt h).place with
  | none => s
  | some p => (s.releaseHart h).setRank p .halted

/-- What a context keeps of a hart: all but what belongs to the hart itself. -/
def Hart.context (h : Hart) : Hart :=
  { h with activity := 0, ahead := 0, moved := { dev := 0, host := 0, kite := 0, eth := 0 }
           queue := h.queue.map (fun e => { e with begun := false }), stopping := none,
           laneSince := none, laneShort := 0, promoted := none, readyClocks := 0, tileReady := 0, tilePromoted := none,
           yielded := false, dbg := .reset, regError := false, mirrorError := [] }

/-- A hart that no gang holds any more. -/
def Hart.vacated (h : Hart) : Hart :=
  { h with tiles := [], keptTiles := 0, queue := [], stopped := none, watched := [], held := [], waiting := [],
           ckpt := none, bound := none, binds := [], wait := none, slotRes := false, place := none, promoted := none,
           readyClocks := 0, tileReady := 0, tilePromoted := none, yielded := false, entering := false,
           stopping := none, charge := 0 }

/-- An image in a save area moved for hart h (R458, R466). -/
def State.movedImage (s : State) (h n : Nat) : State :=
  s.modHartAt h (fun x => { x with moved := { x.moved with dev := x.moved.dev + n } })

/-- The context of hart h is saved with its image, whose stop record has this kind, and the hart is free (R318, R326,
R389, R390). -/
def State.saveHart (s : State) (h kind : Nat) : State :=
  match (s.hartAt h).place with
  | none => s
  | some p =>
    let x := (s.hartAt h).freeze
    let c := { x.context with image := s.image h x true (some { kind := kind, resume := x.pc }) }
    let s := (((s.movedImage h c.image.length).keepStay h).modHartAt h Hart.vacated).releaseGroups h
    s.setRank p (.saved c)

/-- A pre-emption that was asked for is taken at this strip boundary (KIND 3), or after this return to program mode
(KIND 2; R389, R318). -/
def State.stopIfAsked (s : State) (kind : Nat) : State :=
  if s.hart.stopping.isSome then s.saveHart s.cur kind else s

end Sys2Proof.Machine
end

