-- ==== Sys2Proof/Machine/Scalar.lean ====
section
/-! DEFINITION. Classes 0 to 3: integer and floating functions, immediates and transfers (R142 to R150, R156 to R158,
R85, R91, R92). -/

namespace Sys2Proof.Machine

/-! ### Shared forms -/

/-- A scalar word first waits for a queued instruction that writes a g register (R79, R25). -/
def State.waitG (s : State) (k : State → State) : State := s.afterThose QEntry.writesG k

/-- A scalar result: gd is written, and the next word follows (R142). -/
def State.result (s : State) (d : BitVec 5) (x : Word) : State := (s.gset d.toNat x).advance

/-- A function of two scalar registers into gd (R143). -/
def State.op2 (s : State) (d a b : BitVec 5) (f : Word → Word → Word) : State :=
  s.waitG (fun s => s.result d (f (s.hart.gget a.toNat) (s.hart.gget b.toNat)))

/-- A function of one scalar register into gd (R143, R144). -/
def State.op1 (s : State) (d a : BitVec 5) (f : Word → Word) : State :=
  s.waitG (fun s => s.result d (f (s.hart.gget a.toNat)))

/-- A truth value as the word 1 or 0. -/
def flag (b : Bool) : Word := if b then 1 else 0

/-! ### Integer functions (R143) -/

/-- The high half of an exact product. -/
def highWord (x : Int) : Word := BitVec.ofInt 64 (x / 2 ^ 64)

/-- DIV: truncated toward zero; all ones for a divisor of 0 (R143). -/
def divWord (a b : Word) : Word := if b = 0 then BitVec.allOnes 64 else BitVec.ofInt 64 (a.toInt.tdiv b.toInt)

/-- DIVZ (R143). -/
def divzWord (a b : Word) : Word := if b = 0 then BitVec.allOnes 64 else BitVec.ofNat 64 (a.toNat / b.toNat)

/-- REM: a − b × DIV(a, b) (R143). -/
def remWord (a b : Word) : Word := if b = 0 then a else BitVec.ofInt 64 (a.toInt.tmod b.toInt)

/-- REMZ (R143). -/
def remzWord (a b : Word) : Word := if b = 0 then a else BitVec.ofNat 64 (a.toNat % b.toNat)

/-- The shift count of R143: the six low bits. -/
def shiftBy (b : Word) : Nat := b.toNat % 64

/-- Leading zero bits of the n low bits, from bit n − 1 down. -/
def leadingZeros (a : Word) : Nat → Nat
  | 0 => 0
  | n + 1 => if a.getLsbD n then 0 else 1 + leadingZeros a n

/-- Trailing zero bits, with n bits left to look at from bit i up. -/
def trailingZeros (a : Word) (i : Nat) : Nat → Nat
  | 0 => 0
  | n + 1 => if a.getLsbD i then 0 else 1 + trailingZeros a (i + 1) n

/-- One bits among the n low bits. -/
def onesBelow (a : Word) : Nat → Nat
  | 0 => 0
  | n + 1 => onesBelow a n + (if a.getLsbD n then 1 else 0)

/-- ADD (R143). -/
def execAdd (d a b : BitVec 5) (s : State) : Out State Fault Refusal := .next (s.op2 d a b (fun a b => a + b))

/-- SUB (R143). -/
def execSub (d a b : BitVec 5) (s : State) : Out State Fault Refusal := .next (s.op2 d a b (fun a b => a - b))

/-- MUL (R143). -/
def execMul (d a b : BitVec 5) (s : State) : Out State Fault Refusal := .next (s.op2 d a b (fun a b => a * b))

/-- MULH (R143). -/
def execMulh (d a b : BitVec 5) (s : State) : Out State Fault Refusal := .next (s.op2 d a b (fun a b => highWord (a.toInt * b.toInt)))

/-- MULHZ (R143). -/
def execMulhz (d a b : BitVec 5) (s : State) : Out State Fault Refusal := .next (s.op2 d a b (fun a b => highWord ((a.toNat : Int) * (b.toNat : Int))))

/-- DIV (R143). -/
def execDiv (d a b : BitVec 5) (s : State) : Out State Fault Refusal := .next (s.op2 d a b (fun a b => divWord a b))

/-- DIVZ (R143). -/
def execDivz (d a b : BitVec 5) (s : State) : Out State Fault Refusal := .next (s.op2 d a b (fun a b => divzWord a b))

/-- REM (R143). -/
def execRem (d a b : BitVec 5) (s : State) : Out State Fault Refusal := .next (s.op2 d a b (fun a b => remWord a b))

/-- REMZ (R143). -/
def execRemz (d a b : BitVec 5) (s : State) : Out State Fault Refusal := .next (s.op2 d a b (fun a b => remzWord a b))

/-- AND (R143). -/
def execAnd (d a b : BitVec 5) (s : State) : Out State Fault Refusal := .next (s.op2 d a b (fun a b => a &&& b))

/-- OR (R143). -/
def execOr (d a b : BitVec 5) (s : State) : Out State Fault Refusal := .next (s.op2 d a b (fun a b => a ||| b))

/-- XOR (R143). -/
def execXor (d a b : BitVec 5) (s : State) : Out State Fault Refusal := .next (s.op2 d a b (fun a b => a ^^^ b))

/-- ANDN (R143). -/
def execAndn (d a b : BitVec 5) (s : State) : Out State Fault Refusal := .next (s.op2 d a b (fun a b => a &&& ~~~b))

/-- SLL (R143). -/
def execSll (d a b : BitVec 5) (s : State) : Out State Fault Refusal := .next (s.op2 d a b (fun a b => a <<< shiftBy b))

/-- SRL (R143). -/
def execSrl (d a b : BitVec 5) (s : State) : Out State Fault Refusal := .next (s.op2 d a b (fun a b => a >>> shiftBy b))

/-- SRA (R143). -/
def execSra (d a b : BitVec 5) (s : State) : Out State Fault Refusal := .next (s.op2 d a b (fun a b => a.sshiftRight (shiftBy b)))

/-- SLT (R143). -/
def execSlt (d a b : BitVec 5) (s : State) : Out State Fault Refusal := .next (s.op2 d a b (fun a b => flag (a.slt b)))

/-- SLTZ (R143). -/
def execSltz (d a b : BitVec 5) (s : State) : Out State Fault Refusal := .next (s.op2 d a b (fun a b => flag (a.ult b)))

/-- MIN (R143). -/
def execMin (d a b : BitVec 5) (s : State) : Out State Fault Refusal := .next (s.op2 d a b (fun a b => if b.slt a then b else a))

/-- MAX (R143). -/
def execMax (d a b : BitVec 5) (s : State) : Out State Fault Refusal := .next (s.op2 d a b (fun a b => if a.slt b then b else a))

/-- MINZ (R143). -/
def execMinz (d a b : BitVec 5) (s : State) : Out State Fault Refusal := .next (s.op2 d a b (fun a b => if b.ult a then b else a))

/-- MAXZ (R143). -/
def execMaxz (d a b : BitVec 5) (s : State) : Out State Fault Refusal := .next (s.op2 d a b (fun a b => if a.ult b then b else a))

/-- CLZ (R143). -/
def execClz (d a : BitVec 5) (s : State) : Out State Fault Refusal := .next (s.op1 d a (fun a => BitVec.ofNat 64 (leadingZeros a 64)))

/-- CTZ (R143). -/
def execCtz (d a : BitVec 5) (s : State) : Out State Fault Refusal := .next (s.op1 d a (fun a => BitVec.ofNat 64 (trailingZeros a 0 64)))

/-- POPC (R143). -/
def execPopc (d a : BitVec 5) (s : State) : Out State Fault Refusal := .next (s.op1 d a (fun a => BitVec.ofNat 64 (onesBelow a 64)))

/-- MOVNZ: gd is not written when gb is 0 (R143). -/
def execMovnz (d a b : BitVec 5) (s : State) : Out State Fault Refusal :=
  .next (s.waitG (fun s => if s.hart.gget b.toNat = 0 then s.advance else s.result d (s.hart.gget a.toNat)))

/-! ### Scalar floating point (R145 to R150) -/

/-- The format that fw names (R145). -/
def scalarFmt (w : BitVec 2) : Fmt := if w = 0 then fp32 else fp64

/-- A source of a format: the low bits of its register (R145, R11). -/
def scalarVal (f : Fmt) (x : Word) : Nat := x.toNat % 2 ^ f.bits

/-- A floating or integer result with its flags, which are in FPFLAGS before the next word (R145). -/
def State.floated (s : State) (d : BitVec 5) (r : Nat × Nat) : State := (s.addFlags r.2).result d (BitVec.ofNat 64 r.1)

/-- A floating function of two sources and the old gd, in the mode FPMODE holds (R145). -/
def State.fop (s : State) (d a b : BitVec 5) (w : BitVec 2) (f : Fmt → Rm → Nat → Nat → Nat → Nat × Nat) : State :=
  s.waitG (fun s =>
    let h := s.hart
    let fm := scalarFmt w
    s.floated d (f fm (rmOf h.fpmode) (scalarVal fm (h.gget a.toNat)) (scalarVal fm (h.gget b.toNat))
      (scalarVal fm (h.gget d.toNat))))

/-- The rounded result of an exact operation on two values. -/
def rounded (g : Rm → Val → Val → Val × Nat) (f : Fmt) (rm : Rm) (x y _z : Nat) : Nat × Nat :=
  roundPair f rm (g rm (decodeF f x) (decodeF f y))

/-- FADD (R146). -/
def execFadd (d a b : BitVec 5) (w : BitVec 2) (s : State) : Out State Fault Refusal :=
  .next (s.fop d a b w (rounded addVal))

/-- FSUB (R146). -/
def execFsub (d a b : BitVec 5) (w : BitVec 2) (s : State) : Out State Fault Refusal :=
  .next (s.fop d a b w (rounded (fun rm x y => addVal rm x (negVal y))))

/-- FMUL (R146). -/
def execFmul (d a b : BitVec 5) (w : BitVec 2) (s : State) : Out State Fault Refusal :=
  .next (s.fop d a b w (rounded (fun _ x y => mulVal x y)))

/-- FMA: one rounding of x × y + gd (R146). -/
def execFma (d a b : BitVec 5) (w : BitVec 2) (s : State) : Out State Fault Refusal :=
  .next (s.fop d a b w (fun f rm x y z => roundPair f rm (fmaVal rm (decodeF f x) (decodeF f y) (decodeF f z))))

/-- FDIV (R146). -/
def execFdiv (d a b : BitVec 5) (w : BitVec 2) (s : State) : Out State Fault Refusal :=
  .next (s.fop d a b w (rounded (fun _ x y => divVal x y)))

/-- FSQRT (R146). -/
def execFsqrt (d a : BitVec 5) (w : BitVec 2) (s : State) : Out State Fault Refusal :=
  .next (s.fop d a 0 w (rounded (fun _ x _ => sqrtVal x)))

/-- FMIN (R147). -/
def execFmin (d a b : BitVec 5) (w : BitVec 2) (s : State) : Out State Fault Refusal :=
  .next (s.fop d a b w (fun f _ x y _ => (pickMinMax f false x y, 0)))

/-- FMAX (R147). -/
def execFmax (d a b : BitVec 5) (w : BitVec 2) (s : State) : Out State Fault Refusal :=
  .next (s.fop d a b w (fun f _ x y _ => (pickMinMax f true x y, 0)))

/-- A comparison: 0 with a NaN operand, which sets NV where `signals` says so (R148). -/
def comparison (signals : Bool) (c : Val → Val → Bool) (f : Fmt) (_rm : Rm) (x y _z : Nat) : Nat × Nat :=
  let u := decodeF f x
  let v := decodeF f y
  if isNan u || isNan v then (0, if signals then flagNV else 0) else (b2n (c u v), 0)

/-- FCMPEQ (R148). -/
def execFcmpeq (d a b : BitVec 5) (w : BitVec 2) (s : State) : Out State Fault Refusal :=
  .next (s.fop d a b w (comparison false eqVal))

/-- FCMPLT (R148). -/
def execFcmplt (d a b : BitVec 5) (w : BitVec 2) (s : State) : Out State Fault Refusal :=
  .next (s.fop d a b w (comparison true ltVal))

/-- FCMPLE (R148). -/
def execFcmple (d a b : BitVec 5) (w : BitVec 2) (s : State) : Out State Fault Refusal :=
  .next (s.fop d a b w (comparison true (fun u v => ltVal u v || eqVal u v)))

/-- The conversions of R83 by their code: result and flags (R149). -/
def scalarConvert (code : Nat) (w : BitVec 2) (rm : Rm) (x : Word) : Nat × Nat :=
  let f := scalarFmt w
  match code with
  | 0 =>
    let other := if w = 0 then fp64 else fp32
    cvtToFlt f rm false (decodeF other (scalarVal other x))
  | 1 => cvtToFlt f rm false (intVal x.toInt)
  | 2 => cvtToFlt f rm false (intVal x.toNat)
  | 3 => cvtToInt rm true 64 (decodeF f (scalarVal f x))
  | _ => cvtToInt rm false 64 (decodeF f (scalarVal f x))

/-- FCVT (R149). -/
def execFcvt (d a c : BitVec 5) (w : BitVec 2) (s : State) : Out State Fault Refusal :=
  .next (s.waitG (fun s => s.floated d (scalarConvert c.toNat w (rmOf s.hart.fpmode) (s.hart.gget a.toNat))))

/-- FCLASS: one of bits 8 to 0 (R150). -/
def execFclass (d a : BitVec 5) (w : BitVec 2) (s : State) : Out State Fault Refusal :=
  .next (s.fop d a 0 w (fun f _ x _ _ => (2 ^ classOf f x, 0)))

/-! ### Immediates (R144) and constants (R85) -/

/-- ADDI (R144). -/
def execAddi (d a : BitVec 5) (i : BitVec 14) (s : State) : Out State Fault Refusal := .next (s.op1 d a (fun a => a + simm i))

/-- ANDI (R144). -/
def execAndi (d a : BitVec 5) (i : BitVec 14) (s : State) : Out State Fault Refusal := .next (s.op1 d a (fun a => a &&& simm i))

/-- ORI (R144). -/
def execOri (d a : BitVec 5) (i : BitVec 14) (s : State) : Out State Fault Refusal := .next (s.op1 d a (fun a => a ||| simm i))

/-- XORI (R144). -/
def execXori (d a : BitVec 5) (i : BitVec 14) (s : State) : Out State Fault Refusal := .next (s.op1 d a (fun a => a ^^^ simm i))

/-- SLTI (R144). -/
def execSlti (d a : BitVec 5) (i : BitVec 14) (s : State) : Out State Fault Refusal := .next (s.op1 d a (fun a => flag (a.slt (simm i))))

/-- SLTZI (R144). -/
def execSltzi (d a : BitVec 5) (i : BitVec 14) (s : State) : Out State Fault Refusal := .next (s.op1 d a (fun a => flag (a.ult (simm i))))

/-- SLLI (R144). -/
def execSlli (d a : BitVec 5) (n : BitVec 6) (s : State) : Out State Fault Refusal := .next (s.op1 d a (fun a => a <<< n.toNat))

/-- SRLI (R144). -/
def execSrli (d a : BitVec 5) (n : BitVec 6) (s : State) : Out State Fault Refusal := .next (s.op1 d a (fun a => a >>> n.toNat))

/-- SRAI (R144). -/
def execSrai (d a : BitVec 5) (n : BitVec 6) (s : State) : Out State Fault Refusal := .next (s.op1 d a (fun a => a.sshiftRight n.toNat))

/-- The 22-bit immediate of R85 at its place. -/
def upper (i : BitVec 22) : Word := i.signExtend 64 <<< 14

/-- LHI (R85). -/
def execLhi (d : BitVec 5) (i : BitVec 22) (s : State) : Out State Fault Refusal :=
  .next (s.waitG (fun s => s.result d (upper i)))

/-- ADDPC (R85). -/
def execAddpc (d : BitVec 5) (i : BitVec 22) (s : State) : Out State Fault Refusal :=
  .next (s.waitG (fun s => s.result d (blk s.hart.pc + upper i)))

/-! ### Transfers (R91, R156 to R158) -/

/-- A relative target: fetch blocks from the block of the word (R91). -/
def target {n : Nat} (pc : Word) (o : BitVec n) : Word := blk pc + o.signExtend 64 * 64

/-- The link value (R91). -/
def link (pc : Word) : Word := blk pc + 64

/-- A branch on two scalar registers (R156). -/
def State.branch (s : State) (a b : BitVec 5) (o : BitVec 15) (c : Word → Word → Bool) : State :=
  s.waitG (fun s =>
    if c (s.hart.gget a.toNat) (s.hart.gget b.toNat) then s.advanceTo (target s.hart.pc o) else s.advance)

/-- BEQ (R156). -/
def execBeq (a b : BitVec 5) (o : BitVec 15) (s : State) : Out State Fault Refusal :=
  .next (s.branch a b o (fun a b => a == b))

/-- BNE (R156). -/
def execBne (a b : BitVec 5) (o : BitVec 15) (s : State) : Out State Fault Refusal :=
  .next (s.branch a b o (fun a b => a != b))

/-- BLT (R156). -/
def execBlt (a b : BitVec 5) (o : BitVec 15) (s : State) : Out State Fault Refusal :=
  .next (s.branch a b o (fun a b => a.slt b))

/-- BGE (R156). -/
def execBge (a b : BitVec 5) (o : BitVec 15) (s : State) : Out State Fault Refusal :=
  .next (s.branch a b o (fun a b => !a.slt b))

/-- BLTZ (R156). -/
def execBltz (a b : BitVec 5) (o : BitVec 15) (s : State) : Out State Fault Refusal :=
  .next (s.branch a b o (fun a b => a.ult b))

/-- BGEZ (R156). -/
def execBgez (a b : BitVec 5) (o : BitVec 15) (s : State) : Out State Fault Refusal :=
  .next (s.branch a b o (fun a b => !a.ult b))

/-- A branch on a predicate (R157): it waits for the queue, and VL is that of the most recent vector instruction, or
VCFG's where none is pending; in supervisor mode a frozen queue holds none that is (DEDUCED, log 92). -/
def State.branchP (s : State) (p : BitVec 5) (o : BitVec 15) (any : Bool) : State :=
  let pending := !s.hart.sup && !s.hart.queue.isEmpty
  s.afterQueue true (fun s =>
    let h := s.hart
    let vl := if pending then h.lastVl else vlOf h.vcfg
    let some1 := (h.pget p.toNat).toNat % 2 ^ vl ≠ 0
    if some1 = any then s.advanceTo (target h.pc o) else s.advance)

/-- BPANY (R157). -/
def execBpany (p : BitVec 5) (o : BitVec 15) (s : State) : Out State Fault Refusal := .next (s.branchP p o true)

/-- BPNONE (R157). -/
def execBpnone (p : BitVec 5) (o : BitVec 15) (s : State) : Out State Fault Refusal := .next (s.branchP p o false)

/-- JALR (R92, R158): the target is the old ga and must be a fetch block's address. -/
def execJalr (d a : BitVec 5) (s : State) : Out State Fault Refusal :=
  .next (s.waitG (fun s =>
    let t := s.hart.gget a.toNat
    if t.toNat % 64 ≠ 0 then s.trapAfter causeAlignFetch t
    else (s.gset d.toNat (link s.hart.pc)).advanceTo t))

/-- The link register that LK names (R90). -/
def linkReg (l : BitVec 2) : Nat := if l = 0 then 0 else 28 + l.toNat

/-- JAL (R91, R158). -/
def execJal (l : BitVec 2) (o : BitVec 23) (s : State) : Out State Fault Refusal :=
  .next (s.waitG (fun s => (s.gset (linkReg l) (link s.hart.pc)).advanceTo (target s.hart.pc o)))

end Sys2Proof.Machine
end

