-- ==== Sys2Proof/Machine/Control.lean ====
section
/-! DEFINITION. The control registers: the map of R23 with its fields, and CRR, CRW, CRSET and CRCLR (R22, R25, R159). -/

namespace Sys2Proof.Machine

/-- Is a VCFG image free of reserved EW, FMT and BLK codes (R26, R27)? -/
def cfgOk (w : Word) : Bool :=
  blkOf w ≠ 3 &&
  (match ewOf w with
   | 0 => fmtOf w = 0
   | 1 => fmtOf w < 3
   | 2 => fmtOf w < 3
   | 3 => fmtOf w = 0
   | 4 => fmtOf w = 0
   | _ => false)

/-! ### The map of R23 -/

/-- Is a number in the map? -/
def crPresent (n : Nat) : Bool :=
  n ≤ 0x16 || (0x18 ≤ n && n ≤ 0x1A) || (0x20 ≤ n && n ≤ 0x25) || (0x40 ≤ n && n ≤ 0x47)

/-- The fields of a register that program mode may write (R23, R26 to R44). -/
def crProgram (n : Nat) : Word :=
  match n with
  | 0x001 => 0x3F
  | 0x002 => 0xFFFFFFFFFFFFFFFF
  | 0x003 => 0xFFFFFFFFFFFF
  | 0x007 => 0x7FFEFFFFFFFE
  | 0x008 => 0xFFFF
  | 0x00B => 0x3F7F1FFF
  | 0x00C => 0x3
  | 0x00D => 0x1F
  | 0x011 => 0x4
  | 0x013 => 0xFFFFFFFFFFFFFFFF
  | _ => 0

/-- The fields of a register that supervisor mode may write (R23, R26 to R44). -/
def crSupervisor (n : Nat) : Word :=
  match n with
  | 0x000 => 0x1FFFFFF
  | 0x004 => 0x1FFF
  | 0x005 => 0x31FFF
  | 0x006 => 0x1FF1FFF
  | 0x011 => 0x6
  | 0x012 => 0xFFFFFFFF1F00
  | 0x020 => 0xFFFFFFFFFFFFFFFF
  | 0x021 => 0xFFFFFFFFFFFFFFFF
  | 0x022 => 0xFFFFFFFFFFFFFFFF
  | 0x023 => 0xFFFFFFFFFFFFFFFF
  | 0x024 => 0xFFFFFFFFFFFFFFFF
  | 0x040 => 0x1FF
  | 0x041 => 0xFFFFFFFFFFFF
  | 0x042 => 0x3
  | 0x043 => 0x1FFF
  | 0x044 => 0xFFFFFFFFFFFFFFFF
  | 0x045 => 0xFFFFFFFFFFFF
  | 0x046 => 0xFFFFFFFFFFC0
  | 0x047 => 0xFFFFFFFFFFFFFFFF
  | n => crProgram n

/-- Is a register coded S (R23)? -/
def crCodedS (n : Nat) : Bool := 0x40 ≤ n && n ≤ 0x47

/-- Does a read of a register wait until every earlier vector instruction has retired (R25, and R189 for VCFG)? -/
def crWaits (n : Nat) : Bool :=
  n = 0x000 || (0x004 ≤ n && n ≤ 0x006) || n = 0x00A || n = 0x00D || n = 0x010 || n = 0x012
    || (0x014 ≤ n && n ≤ 0x016) || (0x020 ≤ n && n ≤ 0x025)

/-! ### Writes -/

/-- The lowest n set bits of a word among the bits from i up, of which k are left to look at. -/
def lowestBits (w : Word) : Nat → Nat → Nat → Word
  | 0, _, _ => 0
  | k + 1, i, n =>
    if n = 0 then 0
    else if bit w i then BitVec.ofNat 64 (2 ^ i) ||| lowestBits w k (i + 1) (n - 1) else lowestBits w k (i + 1) n

/-- SCKM as it is stored (R34): at most eight registers of GSET, and no enable for a register from 48 up. -/
def sckmStored (w : Word) : Word :=
  let g := lowestBits w 32 0 8
  let w := setFld w 0 32 g.toNat
  let w := if 47 < fld w 33 6 then setFld w 39 1 0 else w
  if 47 < fld w 40 6 then setFld w 46 1 0 else w

/-- A supervisor write of GBAR: every parked GBARW of the gang ends with RESET (R279). -/
def State.writeGbar (s : State) (w : Word) : State :=
  match s.hart.place with
  | none => s
  | some p =>
    let phase := BitVec.ofNat 32 (fld w 16 32)
    let s := s.modGang p.serial p.gang (fun g => { g with phase := phase, arrived := BitVec.ofNat 5 (fld w 8 5) })
    s.mapContexts (fun h =>
      match h.place, h.wait with
      | some q, some (.gbar d) =>
        if q.serial = p.serial && q.gang = p.gang then
          { h with wait := some (.done (some d) (BitVec.ofNat 64 (2 ^ 32 + phase.toNat))) }
        else h
      | _, _ => h)

/-- A write of GGRANT acts on the gang's one copy (R40); in program mode it sets STRIP.DRAINED (R367). -/
def State.writeGgrant (s : State) (w : Word) : State :=
  let s := s.modMyGang (fun g => { g with ggrant := w })
  if s.hart.sup then s else s.modHart (fun h => { h with drained := true })

/-- Register n of the executing hart holds w, its non-writable fields being in w as they were (R159). -/
def State.crStore (s : State) (n : Nat) (w : Word) : State :=
  match n with
  | 0x000 => s.modHart (fun h => { h with vcfg := w })
  | 0x001 => s.modHart (fun h => { h with vmsk := w })
  | 0x002 => s.modHart (fun h => { h with vstr := w })
  | 0x003 => s.modHart (fun h => { h with vpstr := w })
  | 0x004 => s.modHart (fun h => { h with vresume := w })
  | 0x005 => s.modHart (fun h => { h with vexit := w })
  | 0x006 => s.modHart (fun h => { h with vftrim := w })
  | 0x007 => s.modHart (fun h => { h with sckm := sckmStored w })
  | 0x008 => s.modHart (fun h => { h with heblim := w })
  | 0x00B => s.modHart (fun h => { h with mscale := w })
  | 0x00C => s.modHart (fun h => { h with fpmode := w })
  | 0x00D => s.modHart (fun h => { h with fpflags := w })
  | 0x011 => s.modHart (fun h => { h with psup := bit w 1, mirror := bit w 2 })
  | 0x012 => s.writeGbar w
  | 0x013 => s.writeGgrant w
  | 0x020 => s.modHart (fun h => { h with lcuse := w })
  | 0x021 => s.modHart (fun h => { h with lcmask := w })
  | 0x022 => s.modHart (fun h => { h with lctail := w })
  | 0x023 => s.modHart (fun h => { h with lcstart := w })
  | 0x024 => s.modHart (fun h => { h with lcstall := w })
  | 0x040 => s.modHart (fun h => { h with trapcause := w })
  | 0x041 => s.modHart (fun h => { h with trappc := w })
  | 0x042 => s.modHart (fun h => { h with trapmem := w })
  | 0x043 => s.modHart (fun h => { h with trapelem := w })
  | 0x044 => s.modHart (fun h => { h with trapval := w })
  | 0x045 => s.modHart (fun h => { h with trapspc := w })
  | 0x046 => s.modHart (fun h => { h with trapvec := w })
  | 0x047 => s.modHart (fun h => { h with sscratch := w })
  | _ => s

/-- The cause that the checks of R22 find for an access to register n; none where it is permitted. -/
def crTrap (sup write : Bool) (n : Nat) : Option Nat :=
  if !crPresent n then some causeIllegal
  else if !sup && crCodedS n then some causePriv
  else if write && sup && crSupervisor n = 0 then some causeIllegal
  else if write && !sup && crProgram n = 0 then some (if crSupervisor n = 0 then causeIllegal else causePriv)
  else none

/-- CRW, CRSET and CRCLR (R159): `f` gives the value from the old value and ga, of which the writable fields are
taken. A reserved code in VCFG traps ILLEGAL (R27). -/
def State.crModify (s : State) (i : Instr) (n : Nat) (a : BitVec 5) (f : Word → Word → Word) : State :=
  let w := (wordOf i).setWidth 64
  match crTrap s.hart.sup true n with
  | some c => s.trapAfter c w
  | none =>
    s.waitG (fun s =>
      s.afterQueue (n = 0x00D || n = 0x000) (fun s =>
        let m := if s.hart.sup then crSupervisor n else crProgram n
        let old := s.crValue s.cur s.hart n
        let new := (old &&& ~~~m) ||| (f old (s.hart.gget a.toNat) &&& m)
        if n = 0x000 && !cfgOk new then s.trapAfter causeIllegal w else (s.crStore n new).advance))

/-- CRR (R159). -/
def execCrr (d : BitVec 5) (c : BitVec 12) (s : State) : Out State Fault Refusal :=
  .next (match crTrap s.hart.sup false c.toNat with
    | some x => s.trapAfter x ((wordOf (.crr d c)).setWidth 64)
    | none =>
      s.waitG (fun s =>
        s.afterQueue (crWaits c.toNat) (fun s => s.result d (s.crValue s.cur s.hart c.toNat))))

/-- CRW (R159). -/
def execCrw (a : BitVec 5) (c : BitVec 12) (s : State) : Out State Fault Refusal :=
  .next (s.crModify (.crw a c) c.toNat a (fun _ x => x))

/-- CRSET (R159). -/
def execCrset (a : BitVec 5) (c : BitVec 12) (s : State) : Out State Fault Refusal :=
  .next (s.crModify (.crset a c) c.toNat a (fun old x => old ||| x))

/-- CRCLR (R159). -/
def execCrclr (a : BitVec 5) (c : BitVec 12) (s : State) : Out State Fault Refusal :=
  .next (s.crModify (.crclr a c) c.toNat a (fun old x => old &&& ~~~x))

end Sys2Proof.Machine
end

