-- ==== Sys2Proof/Machine/System.lean ====
section
/-! DEFINITION. Class 5 but for the control registers and the context image: strips (R170 to R176, R431), traps and
returns (R163 to R165), fences (R160 to R162), YIELD and HALT (R166, R167). -/

namespace Sys2Proof.Machine

/-- A system instruction's word, for TRAPVAL (R313). -/
def wordVal (i : Instr) : Word := (wordOf i).setWidth 64

/-! ### Closing a strip -/

/-- The STRIP trace record of a CLOSE (R450). -/
def State.emitStrip (s : State) (rewound : Bool) : State :=
  let h := s.hart
  s.emit s.cur 3 (leBytes 4 h.stripNo.toNat ++ leBytes 2 (vlOf h.vcfg) ++ leBytes 2 (fld h.vexit 0 13)
    ++ leBytes 1 (b2n h.stripK + 2 * b2n h.drained + 4 * b2n h.poisoned + 8 * b2n (bit h.vexit 17) + 16 * b2n rewound))

/-- CLOSE of a strip without poison: every held entry is performed, and the strip counts (R172, R242). -/
def State.closeClean (s : State) (k : State → State) : State :=
  match (s.emitStrip false).performHeld s.cur with
  | (s, false) => s
  | (s, true) => k (s.modHart (fun h => { h with stripNo := h.stripNo + 1, keptTiles := 0 }))

/-- CLOSE (R172, R431), then k. -/
def State.close (s : State) (k : State → State) : State :=
  s.afterQueue true (fun s =>
    if !s.hart.poisoned then s.closeClean k
    else if s.hart.rewindable then (s.emitStrip true).rewind
    else (s.emitStrip false).trapHere causePoison (s.hart.paddr &&& 0xFFFFFFFFFFFF))

/-! ### Opening a strip -/

/-- The cap of R173: none for g0. -/
def State.capped (s : State) (b : BitVec 5) (n : Nat) : Nat :=
  if b = 0 then n else min n (s.hart.gget b.toNat).toNat

/-- The VCFG of a new strip: [24:13] of the image, VL still 0 (R173). -/
def newCfg (img : Word) : Word := img &&& 0x1FFE000

/-- The image that gc names, or the present VCFG (R173). -/
def State.imageOf (s : State) (c : BitVec 5) : Word := if c = 0 then s.hart.vcfg else s.hart.gget c.toNat

/-- The configuration of the new strip after CLOSE: lanes, mirror state and VCFG (R173, R439, R28). -/
def State.configure (s : State) (img : Word) : State :=
  let r := (s.core (coreOf s.cur)).retiredLanes
  s.modHart (fun h => { h.clip r h.mirror with vcfg := newCfg img })

/-- The checkpoint of a SETVL.K (R174, R244). -/
def Hart.checkpoint (h : Hart) (resume : Word) : Checkpoint :=
  { resume := resume, sckm := h.sckm, used := h.binds.map (·.used)
    gs := ((List.range 32).filter (fun i => i ≠ 0 && h.sckm.getLsbD i)).map h.gget
    va := if bit h.sckm 39 then h.vget (fld h.sckm 33 6) else 0
    vb := if bit h.sckm 46 then h.vget (fld h.sckm 40 6) else 0
    tiles := h.tiles }

/-- The new strip opens with a VL: VEXIT, VFTRIM, STRIP and the checkpoint (R173, R429, R433). -/
def Hart.openStrip (h : Hart) (vl : Nat) (k : Bool) (resume : Word) : Hart :=
  let h := { h with vcfg := setFld h.vcfg 0 13 vl }
  { h with
    vexit := BitVec.ofNat 64 (vl + 65536), vftrim := 0, ftrimPlace := 0, stripK := k, drained := false,
    poisoned := false, paddr := 0, bound := none, fences := [], lastVl := vl
    ckpt := if k then some (h.checkpoint resume) else none
    kvcfg := if k then h.vcfg else 0 }

/-- The launch of the executing hart has REWIND = 1 (R371). -/
def State.mayRewind (s : State) : Bool := ((s.launchOfHart s.hart).map (·.rewind)).getD false

/-- What follows the writes of a SETVL or SETVLG: the strip opens, lane groups settle, and a pre-emption is taken
(R173, R175, R386, R389). -/
def State.openNext (s : State) (vl : Nat) (k : Bool) : State :=
  let s := s.modHart (fun h => h.openStrip vl (k && s.mayRewind) (h.pc + 4))
  (s.settleLanes s.cur).advance.stopIfAsked 3

/-- The parts that SETVL and SETVLG share up to CLOSE: ILLEGAL in supervisor mode and for a reserved image (R316,
R173). -/
def State.setLength (s : State) (i : Instr) (c : BitVec 5) (k : State → Word → State) : State :=
  if s.hart.sup then s.trapHere causeIllegal (wordVal i)
  else
    s.waitG (fun s =>
      let img := s.imageOf c
      if !cfgOk img then s.trapAfter causeIllegal (wordVal i) else s.close (fun s => k s img))

/-- SETVL and SETVL.K (R173). -/
def State.setvl (s : State) (i : Instr) (d a b c : BitVec 5) (k : Bool) : State :=
  s.setLength i c (fun s img =>
    let s := s.configure img
    let vl := min (s.capped b (s.hart.gget a.toNat).toNat) (s.hart.vlmax (ewOf s.hart.vcfg))
    (s.gset d.toNat (BitVec.ofNat 64 vl)).openNext vl k)

/-- SETVL (R173). -/
def execSetvl (d a b c : BitVec 5) (s : State) : Out State Fault Refusal :=
  .next (s.setvl (.setvl d a b c) d a b c false)

/-- SETVL.K (R173, R174). -/
def execSetvlK (d a b c : BitVec 5) (s : State) : Out State Fault Refusal :=
  .next (s.setvl (.setvlK d a b c) d a b c true)

/-- GGRANT.NEXT of the gang of the executing hart, and TOTAL (R40). -/
def State.grant (s : State) : Nat × Nat :=
  let g := ((s.gangOf s.hart).map (·.ggrant)).getD 0
  (fld g 0 32, fld g 32 32)

/-- SETVLG (R176). -/
def execSetvlg (d a b c : BitVec 5) (s : State) : Out State Fault Refusal :=
  .next (s.setLength (.setvlg d a b c) c (fun s img =>
    let s := s.configure img
    let (start, total) := s.grant
    let len := if total ≤ start then 0 else min (s.capped b (total - start)) (s.hart.vlmax (ewOf s.hart.vcfg))
    let s := if total ≤ start then s else s.modMyGang (fun g => { g with ggrant := setFld g.ggrant 0 32 (start + len) })
    ((s.gset a.toNat (BitVec.ofNat 64 start)).gset d.toNat (BitVec.ofNat 64 len)).openNext len false))

/-! ### Traps and returns -/

/-- TRAP (R163). -/
def execTrap (a : BitVec 5) (s : State) : Out State Fault Refusal :=
  .next (s.afterQueue true (fun s => s.takeTrap
    { cause := causeTrapi, vec := false, pc := s.hart.pc, mem := 0, elem := 0, val := s.hart.gget a.toNat,
      spc := s.hart.pc + 4 }))

/-- BKPT (R164, R443). -/
def execBkpt (s : State) : Out State Fault Refusal :=
  .next (s.afterQueue true (fun s => s.takeStop
    { cause := causeBkpt, vec := false, pc := s.hart.pc, mem := 0, elem := 0, val := 0, spc := s.hart.pc + 4 }))

/-- Elements that a handler has had skipped, of a member that keeps apart what it wrote (R323). -/
def QEntry.leave (q : QEntry) (es : List Nat) : QEntry :=
  { q with gone := q.gone ++ es.filter (fun i => !q.ran.contains i) }

/-- The front from which a stopped convoy replays (R323), and VRESUME cleared (R31). -/
def Hart.replayFrom (h : Hart) : Hart :=
  match h.stopped with
  | none => { h with vresume := 0 }
  | some x =>
    let seqs := (headConvoy h.queue).map (·.seq)
    let vl := ((h.queue.head?).map (fun q => vlOf q.cap.vcfg)).getD 0
    let e := min (max (fld h.vresume 0 13) x.front) vl
    { h with
      stopped := some { x with front := e }
      queue := if x.base.isEmpty then h.queue
        else h.queue.map (fun q => if seqs.contains q.seq then q.leave (List.range' x.front (e - x.front)) else q)
      vresume := 0 }

/-- What a resumption does about a stopped convoy. In supervisor mode, where no vector work is done (R316), the convoy
stays frozen and keeps its VRESUME; with none stopped VRESUME is cleared. -/
def Hart.takeBack (h : Hart) : Hart :=
  if h.sup then { h with vresume := if h.stopped.isSome then h.vresume else 0 } else h.replayFrom

/-- The hart goes on at an address in program mode: a pre-emption that waited is taken first, otherwise the frozen
queue replays (R165, R318, R323, R444). -/
def State.goOn (s : State) (a : Word) : State :=
  let s := s.modHart (fun h => h.replayFrom.resume a)
  if s.hart.stopping.isSome then s.stopIfAsked 2
  else s.takeUp

/-- ERET (R165, R322, R323). -/
def execEret (s : State) : Out State Fault Refusal :=
  .next (
    if !s.hart.sup then s.trapAfter causePriv (wordVal .eret)
    else
      let a := s.hart.trapspc
      if a.toNat % 4 ≠ 0 then s.trapHere causeAlignFetch a
      else
        let s := s.advance.modHart (fun h => { h with sup := h.psup })
        if s.hart.sup then s.modHart (fun h => h.takeBack.resume a) else s.goOn a)

/-! ### Fences -/

/-- FENCE: it waits for the breaks and the memory accesses of the queue, and for no other convoy (R160, R161, R316). -/
def execFence (s : State) : Out State Fault Refusal :=
  .next (
    if s.hart.sup then s.advance
    else
      s.afterThose (fun e => isBreak e.instr || memoryOp e.instr || !(s.hart.bindingsRead e).isEmpty) (fun s =>
        match s.drainHeld s.cur with
        | (s, true) => s.advance
        | (s, false) => s))

/-- FENCES: memory is coherent and loads are performed when they execute, so that only the stores held before it and
after it are left to order (R161). -/
def execFences (s : State) : Out State Fault Refusal := .next (s.modHart Hart.fence).advance

/-- ERRFENCE (R162, R316). -/
def execErrfence (s : State) : Out State Fault Refusal :=
  .next (
    if s.hart.sup then s.advance
    else
      s.afterQueue true (fun s =>
        if !s.hart.poisoned then s.advance
        else if s.hart.rewindable then s.rewind
        else s.trapHere causePoison (s.hart.paddr &&& 0xFFFFFFFFFFFF)))

/-! ### YIELD and HALT -/

/-- YIELD (R166, R384). -/
def execYield (s : State) : Out State Fault Refusal :=
  .next ((s.modHart (fun h => { h with yielded := true })).advance)

/-- What HALT does after its CLOSE (R167). -/
def State.endHart (s : State) : State := s.advance.haltHart s.cur

/-- HALT (R167); in supervisor mode it discards the frozen queue (R316) and a poisoned strip kills the launch (R431). -/
def execHalt (s : State) : Out State Fault Refusal :=
  .next (
    if s.hart.sup then
      let s := s.modHart (fun h => { h with queue := [], stopped := none, watched := [], vresume := 0 })
      if s.hart.poisoned then (s.emitStrip false).killFor s.cur 1 (s.hart.paddr &&& 0xFFFFFFFFFFFF) else s.closeClean State.endHart
    else s.close State.endHart)

end Sys2Proof.Machine
end

