-- ==== Sys2Proof/Machine/Context.lean ====
section
/-! DEFINITION. The context image read back: its checks and its load (R329), CTXSAVE and CTXLOAD (R168, R169), and the
forms that the debug block uses (R445). -/

namespace Sys2Proof.Machine

/-! ### Reading an image -/

/-- The access to the bytes of an image: n bytes at an offset. -/
abbrev ImgRead := Nat → Nat → List Byte

/-- A field as a number. -/
def inum (rd : ImgRead) (off n : Nat) : Nat := leNat (rd off n)

/-- A dword. -/
def iword (rd : ImgRead) (off : Nat) : Word := BitVec.ofNat 64 (inum rd off 8)

/-- The counts of a header. -/
structure Header where
  kvalid : Bool
  size : Nat
  ntiles : Nat
  nktiles : Nat
  nq : Nat
  nheld : Nat
  xlen : Nat
  deriving DecidableEq, Repr

/-- The header read and checked (R325, R329). -/
def readHeader (rd : ImgRead) : Option Header :=
  let f := fun o n => inum rd o n
  let h : Header :=
    { kvalid := f 6 2 % 2 = 1, size := f 8 4, ntiles := f 0xC 1, nktiles := f 0xD 1, nq := f 0xE 1, nheld := f 0x10 2,
      xlen := f 0x14 4 }
  if f 0 4 = 0x58435842 && f 4 2 = 1 && f 6 2 < 2 && h.ntiles ≤ 4 && h.nktiles ≤ 4 && (h.kvalid || h.nktiles = 0)
      && h.nq ≤ 32 && f 0xF 1 = 0 && h.nheld ≤ 4096 && f 0x12 2 = 0 && h.xlen % 8 = 0 && h.xlen ≤ 1572864
      && f 0x20 32 = 0 && h.size = imageSize h.ntiles h.nktiles h.xlen
  then some h
  else none

/-- The bits of a control register that can be set (R23, R26 to R44, R429, R433). -/
def crFields (n : Nat) : Word :=
  match n with
  | 0x009 => 0x1FFF
  | 0x00A => 0x7
  | 0x00E => 0x1FF
  | 0x00F => 0xFFFFFFFF
  | 0x010 => 0x7
  | 0x011 => 0xF
  | 0x012 => 0xFFFFFFFF1F1F
  | 0x014 => 0x7FFFFFFFFFFFF
  | 0x015 => 0x8000FFFFFFFFFFFF
  | 0x016 => 0x1FFFFFF
  | 0x018 => 0x1FF
  | 0x019 => 0xFFFFFFFFFFFFFF0F
  | 0x01A => 0xFFFFFFFFFFFFFFFF
  | 0x025 => 0xFFFFFFFFFFFFFFFF
  | n => crSupervisor n

/-- Is a value of register n free of reserved bits and, in VCFG and KVCFG, of reserved codes (R329; DEDUCED, log 87)? -/
def crValid (n : Nat) (w : Word) : Bool :=
  w &&& ~~~(crFields n) = 0 && (n ≠ 0 && n ≠ 0x016 || cfgOk w || (n = 0x016 && w = 0))

/-- The captured values of a queue entry at an offset. -/
def readCaptured (rd : ImgRead) (o : Nat) : Captured :=
  let f := fun k => iword rd (o + 8 * k)
  { vcfg := f 0, vmsk := f 1, vstr := f 2, vpstr := f 3, fpmode := f 4, mscale := f 5, sckm := f 6, heblim := f 7,
    mirror := f 8 = 1 }

/-- Are the captured values free of reserved bits? -/
def capturedOk (rd : ImgRead) (o : Nat) (c : Captured) : Bool :=
  crValid 0 c.vcfg && crValid 1 c.vmsk && crValid 2 c.vstr && crValid 3 c.vpstr && crValid 0x00C c.fpmode
    && crValid 0x00B c.mscale && crValid 7 c.sckm && crValid 8 c.heblim && (inum rd (o + 64) 8 < 2)

/-- Queue entry number q of an image (R327, R329); `seq` is the place it takes. -/
def readQueue (rd : ImgRead) (vlmax : Nat → Nat) (seq q : Nat) : Option QEntry :=
  let o := 0x1000 + 128 * q
  let c := readCaptured rd (o + 0x20)
  match decode (BitVec.ofNat 32 (inum rd o 4)) with
  | none => none
  | some i =>
    if (vInfo i).isSome && inum rd (o + 4) 4 < 2 && inum rd (o + 0x68) 24 = 0 && capturedOk rd (o + 0x20) c
        && vlOf c.vcfg ≤ vlmax (ewOf c.vcfg)
    then some
      { instr := i, addr := iword rd (o + 8), opa := iword rd (o + 0x10), opb := iword rd (o + 0x18), cap := c,
        consumed := inum rd (o + 4) 4 = 1, seq := seq, begun := false, split := false }
    else none

/-- The kind of a held entry by its code (R328). -/
def kindOf (n : Nat) : Option HeldKind :=
  match n with
  | 0 => some .store
  | 1 => some .addInt
  | 2 => some .addFlt
  | 3 => some .mergeInt
  | 4 => some .mergeFlt
  | _ => none

/-- A location that nothing reads: where an entry's address has no translation when its image is loaded. -/
def nowhere : Nat := 2 ^ 60

/-- Held entry e of an image, without its locations (R328, R329); `seq` is the place it takes. -/
def readHeld (rd : ImgRead) (xlen seq e : Nat) : Option Held :=
  let o := 0x1F000 + 16 * e
  let t := iword rd o
  let size := fld t 48 4
  match kindOf (fld t 53 3) with
  | none => none
  | some kind =>
    let merge := kind = .mergeInt || kind = .mergeFlt
    let off := inum rd (o + 8) 8
    let n := inum rd (0x8F000 + off) 8
    let f := kind.floating
    let badExt := (merge || size = 5) && xlen < off + 8
    if 5 < size || bit t 63 || badExt || (merge && (n = 0 || 32 < n || xlen < off + 8 + 8 * n))
        || (!merge && size = 5 && xlen < off + 384)
        || (f && !cfgOk (BitVec.ofNat 64 (fld t 56 3 * 2 ^ 13 + fld t 59 2 * 2 ^ 16)))
    then none
    else some
      { seq := seq, elem := e, vector := !(0xC20000000000 ≤ fld t 0 48 && fld t 0 48 < 0xC20000010000), kind := kind,
        size := size, high := bit t 52, scope := BitVec.ofNat 2 (fld t 61 2), ew := BitVec.ofNat 3 (fld t 56 3),
        fmt := BitVec.ofNat 3 (fld t 59 2), va := fld t 0 48, locs := []
        bytes := if merge then [] else if size = 5 then rd (0x8F000 + off) 384 else rd (o + 8) (sizeBytes size)
        addends := if merge then (List.range n).map (fun k => iword rd (0x8F000 + off + 8 + 8 * k)) else [] }

/-- All of a list, or none. -/
def allSome {α : Type} : List (Option α) → Option (List α)
  | [] => some []
  | none :: _ => none
  | some x :: xs => (allSome xs).map (x :: ·)

/-- The watch table of an image (R326); none where a reserved field is set. -/
def readWatch (rd : ImgRead) : Option (Vector Watch 4) :=
  let ok := (List.range 4).all (fun n =>
    let w := iword rd (0xC0 + 16 * n)
    w &&& ~~~0xFFFFFFFFFFFD = 0 && inum rd (0xC8 + 16 * n) 2 < 8192 && inum rd (0xCA + 16 * n) 6 = 0)
  let e := fun n => ({ addr := iword rd (0xC0 + 16 * n) &&& 0xFFFFFFFFFFFC, elem := inum rd (0xC8 + 16 * n) 2,
                       en := bit (iword rd (0xC0 + 16 * n)) 0 } : Watch)
  if ok then some #v[e 0, e 1, e 2, e 3] else none

/-- The checkpoint of an image (R326). -/
def readCheckpoint (rd : ImgRead) (h : Header) : Option Checkpoint :=
  if h.kvalid then
    some
      { resume := iword rd 0x440, sckm := iword rd 0x448, used := (List.range 4).map (fun n => inum rd (0x450 + 4 * n) 4)
        gs := (List.range ((List.range 32).countP (fun i => i ≠ 0 && bit (iword rd 0x448) i))).map
          (fun n => iword rd (0x460 + 8 * n))
        va := BitVec.ofNat 16384 (inum rd 0x1E000 2048), vb := BitVec.ofNat 16384 (inum rd 0x1E800 2048)
        tiles := (List.range h.nktiles).map (fun n => BitVec.ofNat 393216 (inum rd (0x5F000 + 49152 * n) 49152)) }
  else none

/-- The reserved fields of the fixed records, and the limits of the stop record (R326, R329). A FRONT of 8,192 or more, a
stopped convoy without an entry, a REG that is no register, and a checkpoint record under KVALID 0 count as fields outside
their limits (DEDUCED, log 87). -/
def fixedOk (rd : ImgRead) (h : Header) : Bool :=
  let kind := inum rd 0x40 1
  (kind = 0 || kind = 1) && inum rd 0x41 1 < 4 && inum rd 0x42 2 < 8192 && inum rd 0x44 60 = 0
    && (kind ≠ 0 || inum rd 0x41 3 = 0) && (kind = 0 || h.nq ≠ 0)
    && (List.range 4).all (fun n => inum rd (0x88 + 16 * n) 1 < 48 && inum rd (0x89 + 16 * n) 7 = 0)
    && (List.range 0x48).all (fun n => crValid n (iword rd (0x200 + 8 * n)))
    && inum rd 0x4A0 (0x1000 - 0x4A0) = 0 && crValid 7 (iword rd 0x448)
    && (h.kvalid || inum rd 0x440 96 = 0)

/-- What an image restores, before the locations of held entries and the bindings are found. -/
structure Loaded where
  hdr : Header
  watch : Vector Watch 4
  queue : List QEntry
  held : List Held
  stopped : Option Stopped
  deriving DecidableEq, Repr

/-- The checks of R329 that the image alone decides. Entries take their places anew: floating adds that follow one
another count as one instruction's. -/
def readImageFile (rd : ImgRead) (h : Header) (vlmax : Nat → Nat) : Option Loaded := do
  let w ← readWatch rd
  let q ← allSome ((List.range h.nq).map (fun n => readQueue rd vlmax (h.nheld + n) n))
  let e ← allSome ((List.range h.nheld).map (fun n => readHeld rd h.xlen n n))
  let e := e.foldl (fun acc x =>
    match acc.getLast? with
    | some y => acc ++ [if x.kind = .addFlt && y.kind = .addFlt then { x with seq := y.seq } else x]
    | none => [x]) []
  if fixedOk rd h then
    some { hdr := h, watch := w, queue := q, held := e
           stopped := if inum rd 0x40 1 = 1 then some { member := inum rd 0x41 1, front := inum rd 0x42 2 } else none }
  else none

/-- The VLMAX that applies to an image on a hart: its MIRACT with the hart's lanes (R28, R329). -/
def imageVlmax (rd : ImgRead) (h : Hart) : Nat → Nat :=
  Hart.vlmax { h with miract := bit (iword rd (0x200 + 8 * 0x011)) 3 }

/-- Can the core grant the tiles of an image to hart k, its own counted as free (R329)? -/
def State.tilesFit (s : State) (k n : Nat) : Bool :=
  n ≤ s.freeTiles (coreOf k) + (s.hartAt k).tiles.length + (s.hartAt k).keptTiles

/-- The pieces of a held entry found again, one for each page it touches. -/
def State.placeHeld (s : State) (k : Nat) (e : Held) : Held :=
  let n := if e.kind = .mergeInt || e.kind = .mergeFlt then sizeBytes e.size else e.bytes.length
  let first := min n (4096 - e.va % 4096)
  let who : Who := if e.vector then .vector else .scalar
  let at' := fun (off len : Nat) =>
    match s.translate (coreOf k) (s.rootOf (s.hartAt k)) false who .store (BitVec.ofNat 64 (e.va + off)) with
    | .at loc _ => (loc, len)
    | _ => (nowhere, len)
  { e with locs := if first = n then [at' 0 n] else [at' 0 first, at' first (n - first)] }

/-- The bindings of an image: one that the hart has already stays; another is read again from its record, and takes up
the stream at the record's USED; a record that cannot be read leaves no binding. -/
def State.readBindings (s : State) (k : Nat) (rd : ImgRead) : List Binding :=
  (List.range 4).filterMap (fun n =>
    let record := iword rd (0x80 + 16 * n)
    let reg := inum rd (0x88 + 16 * n) 1
    if record = 0 then none
    else
      match (s.hartAt k).binds.find? (fun b => b.record = record && b.reg = reg) with
      | some b => some b
      | none =>
        match s.translate (coreOf k) (s.rootOf (s.hartAt k)) false .engine .load record with
        | .at loc _ =>
          let bs := s.readMem loc 64
          (bindingOfRecord record reg (16 <<< blkOf (iword rd 0x200)) [] 0 bs).map (fun b =>
            { b with used := leNat ((bs.drop 0x34).take 4), tl := noTl })
        | _ => none)

/-- What the image of a hart's queue and buffer shows; two that show the same are the same. -/
def sameShape (a b : Hart) : Bool :=
  a.queue.map queueBytes = b.queue.map queueBytes && heldBytes a.entries 0 = heldBytes b.entries 0
    && stopBytes a none = stopBytes b none

/-- A hart without what the members of its stopped convoy kept apart (log 79). -/
def Hart.unwoven (h : Hart) : Hart :=
  { h with queue := h.queue.map (fun e => { e with ran := [], gone := [], wrote := [] })
           stopped := h.stopped.map (fun x => { x with base := [] }) }

/-- What no image shows, where the image is one of the very hart it is loaded into: the places of entries in program
order, and of the exit, the trim, the consumption and the stopped convoy where the image has those of the hart. -/
def keepPlaces (old new : Hart) : Hart :=
  if !sameShape old new then new
  else
    let q := if old.v = new.v && old.p = new.p then old else old.unwoven
    { new with
      queue := q.queue, stopped := q.stopped, held := old.held, waiting := old.waiting, nextSeq := old.nextSeq
      fences := old.fences, watched := old.watched
      paddrPlace := if old.paddr = new.paddr then old.paddrPlace else new.paddrPlace
      ftrimPlace := if old.vftrim = new.vftrim then old.ftrimPlace else new.ftrimPlace
      bound := if old.vexit = new.vexit then old.bound else new.bound }

/-- The context of an image in hart k (R329). No word joins the convoy that the image ends with (R111 rule 6), and what it
holds is performed in its order (R315; log 87). -/
def State.restored (s : State) (k : Nat) (rd : ImgRead) (l : Loaded) : Hart :=
  let x := s.hartAt k
  let cr := fun n => iword rd (0x200 + 8 * n)
  let strip := cr 0x014
  let room := s.freeTiles (coreOf k) + x.tiles.length + x.keptTiles - l.hdr.ntiles
  let mode := cr 0x011
  let base : Hart :=
    { x with
      g := (Vector.range 32).map (fun n => if n = 0 then 0 else iword rd (0x100 + 8 * n))
      tiles := (List.range l.hdr.ntiles).map (fun n => BitVec.ofNat 393216 (inum rd (0x2F000 + 49152 * n) 49152))
      keptTiles := min (l.hdr.nktiles - l.hdr.ntiles) room
      vcfg := cr 0, vmsk := cr 1, vstr := cr 2, vpstr := cr 3, vresume := cr 4, vexit := cr 5, vftrim := cr 6
      ftrimPlace := 0, sckm := sckmStored (cr 7), heblim := cr 8, mscale := cr 0x00B, fpmode := cr 0x00C
      fpflags := cr 0x00D, psup := bit mode 1, mirror := bit mode 2, miract := bit mode 3
      stripNo := BitVec.ofNat 48 (fld strip 0 48), stripK := bit strip 48, drained := bit strip 49
      poisoned := bit strip 50, paddr := cr 0x015, paddrPlace := (0, 0), kvcfg := cr 0x016, lcuse := cr 0x020, lcmask := cr 0x021
      lctail := cr 0x022, lcstart := cr 0x023, lcstall := cr 0x024, trapcause := cr 0x040, trappc := cr 0x041
      trapmem := cr 0x042, trapelem := cr 0x043, trapval := cr 0x044, trapspc := cr 0x045
      queue := l.queue, stopped := l.stopped, held := l.held.map (s.placeHeld k), waiting := []
      watched := match l.stopped with
        | some y =>
          if fld (cr 0x040) 0 8 = causeWatch then
            (do
              let q ← l.queue[y.member]?
              let w ← l.watch[(cr 0x044).toNat]?
              pure (q.seq, w.elem)).toList
          else []
        | none => []
      ckpt := readCheckpoint rd l.hdr
      bound := if bit (cr 5) 17 then some (fld (cr 5) 0 13) else none
      binds := s.readBindings k rd, watch := l.watch, split := true, nextSeq := l.hdr.nheld + l.hdr.nq
      fences := l.held.map (·.seq)
      lastVl := ((l.queue.getLast?).map (fun q => vlOf q.cap.vcfg)).getD (vlOf (cr 0)) }
  let base := (List.range 48).foldl (fun h n => h.vset n (BitVec.ofNat 16384 (inum rd (0x6000 + 2048 * n) 2048)))
    { base with v := .replicate 48 0 }
  let base := (List.range 32).foldl (fun h n => h.pset n (BitVec.ofNat 4096 (inum rd (0x2000 + 512 * n) 512)))
    { base with p := .replicate 32 0 }
  keepPlaces x base

/-- The bindings that an image does not hold end as VUNBIND ends them. -/
def State.dropBindings (s : State) (k : Nat) (keep : List Binding) : State :=
  (s.hartAt k).binds.foldl (fun s b =>
    if keep.any (fun y => y.record = b.record && y.reg = b.reg) then s else s.unbind k b) s

/-- An image that passed all checks replaces the context of hart k (R169, R329). -/
def State.loadContext (s : State) (k : Nat) (rd : ImgRead) (l : Loaded) : State :=
  let h := s.restored k rd l
  let s := s.dropBindings k h.binds
  s.setHartAt k h

/-! ### CTXSAVE and CTXLOAD -/

/-- The locations of the pages of n bytes from va on, each page at its own translation: the failure with its address,
or the locations (R168, R169). The scalar data memory holds no image. -/
def State.imagePages (s : State) (acc : Acc) (va : Word) :
    Nat → Nat → List Nat → Except (Xlate × Word × List Nat) (List Nat)
  | 0, _, ls => .ok ls
  | k + 1, n, ls =>
    if n = 0 then .ok ls
    else
      match s.xlate .scalar acc va with
      | .at loc _ =>
        if Config.sdmLoc ≤ loc then .error (.fault causeAccess, va, ls)
        else s.imagePages acc (va + 4096) k (n - 4096) (ls ++ [loc])
      | f => .error (f, va, ls)

/-- Pages of n bytes. -/
def pagesOf (n : Nat) : Nat := (n + 4095) / 4096

/-- Bytes written page by page, and counted as moved (R458). -/
def State.writePages (s : State) : List Nat → List Byte → State
  | [], _ => s
  | p :: ps, bs =>
    ((s.writeMem p (bs.take 4096)).moves s.cur p (bs.take 4096).length).writePages ps (bs.drop 4096)

/-- The held entries of the executing hart that touch the first n bytes of some pages are performed (R355). -/
def State.performPages (s : State) : List Nat → Nat → State × Bool
  | [], _ => (s, true)
  | p :: ps, n =>
    match s.performCovering s.cur p (min n 4096) with
    | (s, true) => s.performPages ps (n - 4096)
    | r => r

/-- n bytes read from pages counted as moved (R458). -/
def State.readPages (s : State) : List Nat → Nat → State
  | [], _ => s
  | p :: ps, n => (s.moves s.cur p (min n 4096)).readPages ps (n - 4096)

/-- A failed access of CTXSAVE or CTXLOAD. -/
def State.ctxFail (s : State) (f : Xlate) (va : Word) : State :=
  match f with
  | .fault c => s.trapHere c va
  | _ => s.killMine 1 va

/-- CTXSAVE (R168): a fault leaves the pages before it written, with MAGIC 0. It ends a convoy (R111 rule 6). -/
def execCtxsave (a : BitVec 5) (s : State) : Out State Fault Refusal :=
  .next (
    if !s.hart.sup then s.trapAfter causePriv (wordVal (.ctxsave a))
    else
      let ga := s.hart.gget a.toNat
      if ga.toNat % 4096 ≠ 0 then s.trapHere causeAlign ga
      else
        let img := s.image s.cur s.hart true
        match s.imagePages .store ga (pagesOf img.length) img.length [] with
        | .ok ps =>
          match s.performPages ps img.length with
          | (s, true) => ((s.writePages ps (s.image s.cur s.hart true)).modHart (fun h => { h with split := true })).advance
          | (s, false) => s
        | .error (f, va, ps) =>
          match s.performPages ps (4096 * ps.length) with
          | (s, true) => (s.writePages ps ((s.image s.cur s.hart false).take (4096 * ps.length))).ctxFail f va
          | (s, false) => s)

/-- The bytes of an image whose pages lie at these locations, as the hart's loads see them (R153). -/
def pageRead (view : List Host.Cell) (ps : List Nat) : ImgRead := fun off n =>
  (List.range' off n).map (fun o => Memory.read view (ps.getD (o / 4096) nowhere + o % 4096))

/-- The address of the first damaged byte among n bytes of an image (R316, R427). -/
def State.imageDamage (s : State) (ga : Word) (ps : List Nat) (n : Nat) : Option Word :=
  if s.poison.isEmpty && s.transit.isEmpty then none
  else
    ((List.range n).find? (fun o => s.readsDamaged s.hart none (ps.getD (o / 4096) nowhere + o % 4096))).map
      (fun o => ga + BitVec.ofNat 64 o)

/-- CTXLOAD after its header (R169). -/
def State.ctxloadBody (s : State) (ga : Word) (h : Header) : State :=
  match s.imagePages .load ga (pagesOf h.size) h.size [] with
  | .error (f, va, _) => s.ctxFail f va
  | .ok ps =>
    match s.imageDamage ga ps h.size with
    | some va => s.killMine 1 va
    | none =>
      let rd := pageRead (s.view s.hart) ps
      match readImageFile rd h (imageVlmax rd s.hart) with
      | none => s.trapHere causeIllegal ga
      | some l =>
        if s.tilesFit s.cur h.ntiles then ((s.readPages ps h.size).loadContext s.cur rd l).advance
        else s.trapHere causeIllegal ga

/-- CTXLOAD (R169, R329). -/
def execCtxload (a : BitVec 5) (s : State) : Out State Fault Refusal :=
  .next (
    if !s.hart.sup then s.trapAfter causePriv (wordVal (.ctxload a))
    else
      let ga := s.hart.gget a.toNat
      if ga.toNat % 4096 ≠ 0 then s.trapHere causeAlign ga
      else
        match s.imagePages .load ga 1 64 [] with
        | .error (f, va, _) => s.ctxFail f va
        | .ok ps =>
          match s.imageDamage ga ps 64 with
          | some va => s.killMine 1 va
          | none =>
            match readHeader (pageRead (s.view s.hart) ps) with
            | none => s.trapHere causeIllegal ga
            | some h => s.ctxloadBody ga h)

/-! ### Images of the debugger (R445) -/

/-- An image written at a physical address; false where a part of it lies outside device memory. -/
def State.debugSave (s : State) (k pa : Nat) : State × Bool :=
  let x := s.hartAt k
  let img := s.image k { x with trapspc := x.dbg.dspc } true
  if pa + img.length ≤ Config.devBytes then ((s.writeMem pa img).moves k pa img.length, true) else (s, false)

/-- An image loaded from a physical address; false where a check fails. DSPC takes the role of TRAPSPC. -/
def State.debugLoad (s : State) (k pa : Nat) : State × Bool :=
  let rd : ImgRead := fun off n => s.readMem (pa + off) n
  match (if pa + 64 ≤ Config.devBytes then readHeader rd else none) with
  | none => (s, false)
  | some h =>
    if Config.devBytes < pa + h.size || (List.range h.size).any (fun i => s.damagedAt (pa + i)) then
      (s.spendTransit pa h.size, false)
    else
      match readImageFile rd h (imageVlmax rd (s.hartAt k)) with
      | none => (s, false)
      | some l =>
        if s.tilesFit k h.ntiles then
          let spc := iword rd (0x200 + 8 * 0x045)
          let old := (s.hartAt k).trapspc
          (((s.moves k pa h.size).loadContext k rd l).modHartAt k (fun x =>
            { x with trapspc := old, dbg := { x.dbg with dspc := spc } }), true)
        else (s, false)

end Sys2Proof.Machine
end

