-- ==== Sys2Proof/Machine/Kite.lean ====
section
/-! DEFINITION. The kite engines: routes and paths (R410, R411), the messages they receive (R269, R271, R272), the
failure of a path (R413, R414), and the source of a send (R272). -/

namespace Sys2Proof.Machine

/-! ### Routes -/

/-- The path that a new reservation at a device takes, by its number: that of the lowest-numbered valid route whose port
is up (R410, R411). -/
def State.pathTo (s : State) (d : Nat) : Option Nat :=
  if d = s.devnum.toNat then some portSelf
  else
    ((List.range 4).map (s.route d)).findSome? (fun w =>
      let p := fld w 0 5
      if bit w 5 && p < 20 && (s.portAt p).up then some (if isEthernet p then p + 32 * fld w 16 48 else p) else none)

/-- The port of the path of a slot that this device reserved; otherwise that of a new path (R411). -/
def State.pathOfSlot (s : State) (dev core zone slot gen : Nat) : Option Nat :=
  match s.paths.find? (fun e => e.1 = (dev, core, zone) && e.2.1 = (slot, gen)) with
  | some e => if e.2.2 = portFailed then none else some e.2.2
  | none => s.pathTo dev

/-! ### Operations -/

/-- A kite operation finishes, with an error (code, address) or without (R259, R272). -/
def State.endKite (s : State) (o : KiteOp) (err : Option (Nat × Word)) : State :=
  let s := { s with kites := s.kites.filter (fun x => x.op ≠ o.op) }
  s.finishTicket o.tl o.ticket (err.map (fun (c, a) => (c, 1, a)))

/-- The reservation word written by the engine (R271), with the error of a store that fails (R260): a word in the global
scratchpad window stays as it was, with ACCESS (R330; DEDUCED, log 95). -/
def State.writeReservation (s : State) (o : KiteOp) (status slot gen : Nat) : State × Option (Nat × Word) :=
  match o.word with
  | none => (s, none)
  | some va =>
    let (s, e) := s.engineStore o.hart (s.rootOfSerial o.serial) va
      (leBytes 8 ((if status = 0 then slot else 0) + status * 2 ^ 16 + (if status = 0 then gen else 0) * 2 ^ 32)) .kite
    (s, e.map (fun x => (x.1, BitVec.ofNat 64 x.2)))

/-- A reservation is answered: its word is written, and it ends with an error of its own, or with that of the store
(R271, R260). -/
def State.answerReservation (s : State) (o : KiteOp) (status slot gen : Nat) (err : Option (Nat × Word)) : State :=
  s.forPlace o.hart o.place (fun s =>
    let (s, e) := s.writeReservation o status slot gen
    s.endKite o (err <|> e))

/-- An operation ends with LINK (R271, R413). -/
def State.linkError (s : State) (o : KiteOp) : State := s.answerReservation o 3 0 0 (some (5, 0))

/-! ### Messages received -/

/-- The slot of a message: its path owner must match (R269). -/
def State.slotAt (s : State) (c z i : Nat) : Option Slot := (s.zone c z).bind (fun x => x.slots[i]?)

/-- Is a slot the one that a send under way fills? -/
def Slot.filledBy (x : Slot) (o : Origin) : Bool :=
  x.state = .filling && (match x.owner with
    | some w => w.dev = o.dev && w.port = o.port && w.launch = o.launch && w.op = o.op
    | none => false)

/-- A reservation request reaches the receiving engine (R271): the lowest free slot is granted. -/
def State.receiveReserve (s : State) (o : Origin) (c z : Nat) : State :=
  match s.zone c z with
  | none => s.post o.port o.dev (.reply o.op 1 0 0)
  | some x =>
    match x.slots.findIdx? (fun y => y.state = .free) with
    | none => s.post o.port o.dev (.reply o.op 2 0 0)
    | some i =>
      let gen := ((x.slots[i]?).map (fun y => y.gen.toNat)).getD 0
      (s.setSlot c z i (fun y => { y with state := .reserved, owner := some o, landed := [] })).post o.port o.dev
        (.reply o.op 0 i gen)

/-- The reply reaches the requester (R271): the reservation word is written, and a granted slot's path is kept. -/
def State.receiveReply (s : State) (op status slot gen : Nat) : State :=
  match s.kites.find? (fun o => o.op = op && o.word.isSome) with
  | none => s
  | some o =>
    let s := if status = 0 then
        { s with paths := ((o.dev, o.core, o.zone), (slot, gen), o.port) ::
            s.paths.filter (fun e => !(e.1 = (o.dev, o.core, o.zone) && e.2.1 = (slot, gen))) }
      else s
    s.answerReservation o status slot gen none

/-- The slot of a zone begins to fill with a message of a length: its bytes become unspecified (R269), and what stands
beyond the message is kept aside (R423). -/
def State.beginFill (s : State) (o : Origin) (c z i len : Nat) (x : Zone) : State :=
  let loc := spad c (x.base + i * x.slotSize)
  let old := s.readMem (loc + len) (x.slotSize - len)
  (s.setSlot c z i (fun y =>
    { y with state := .filling, owner := some o, landed := [], want := len, kept := (s.fresh, old) })).vagueSlot c z i

/-- A send's header reaches the slot (R269, R272): REJECTED is decided before TOOLONG. -/
def State.receiveHead (s : State) (o : Origin) (c z i gen len : Nat) : State :=
  match s.slotAt c z i, s.zone c z with
  | some y, some x =>
    let mine := match y.owner with
      | some w => w.launch = o.launch && w.dev = o.dev
      | none => false
    if y.state ≠ .reserved || y.gen.toNat ≠ gen || !mine then s.post o.port o.dev (.rejection o.op false)
    else if x.slotSize < len then (s.failSlot c z i).post o.port o.dev (.rejection o.op true)
    else s.beginFill o c z i len x
  | _, _ => s.post o.port o.dev (.rejection o.op false)

/-- Bytes of a message land in its slot (R272); what a FILLING slot holds is unspecified until its message is whole. -/
def State.receiveData (s : State) (o : Origin) (c z i off : Nat) (bs : List Byte) (bad : Bool) : State :=
  match s.slotAt c z i, s.zone c z with
  | some y, some x =>
    if y.filledBy o && off + bs.length ≤ x.slotSize then
      s.setSlot c z i (fun y => { y with landed := y.landed ++ [(off, bs, bad)] })
    else s
  | _, _ => s

/-- Bytes that have landed in a slot. -/
def Slot.landedBytes (y : Slot) : Nat := (y.landed.map (fun p => p.2.1.length)).sum

/-- A landed piece written where its slot lies; damaged bytes mark the granules that receive them (R426). -/
def State.landPiece (s : State) (loc : Nat) (p : Nat × List Byte × Bool) : State :=
  let s := s.writeMem (loc + p.1) p.2.1
  if p.2.2 then (List.range p.2.1.length).foldl (fun s k => s.markPoison (loc + p.1 + k)) s else s

/-- The bytes beyond a message as they were before it, but for those that a store has changed since (R423, log 9). -/
def State.keepBeyond (s : State) (loc : Nat) (y : Slot) : State :=
  let free := freeBytes (y.kept.1 + y.want) y.kept.2.length
  let now := s.readMem (loc + y.want) y.kept.2.length
  let bytes := (now.zip (free.zip y.kept.2)).map (fun x => if x.1 = x.2.1 then x.2.2 else x.1)
  { s with mem := Memory.writes s.mem (loc + y.want) bytes }

/-- The last of a message lands: the slot is ARRIVED once every earlier flit has landed, and a completion returns
(R269). -/
def State.receiveLast (s : State) (o : Origin) (c z i : Nat) : State :=
  match s.slotAt c z i, s.zone c z with
  | some y, some x =>
    if y.filledBy o && y.want ≤ y.landedBytes then
      let loc := spad c (x.base + i * x.slotSize)
      let s := (y.landed.foldl (fun s p => s.landPiece loc p) s).keepBeyond loc y
      (s.setSlot c z i (fun y => { y with state := .arrived, len := y.want, landed := [], kept := (0, []) })).post o.port o.dev
        (.completion o.op)
    else s
  | _, _ => s

/-- The completion reaches the sender (R272). -/
def State.receiveCompletion (s : State) (op : Nat) : State :=
  match s.kites.find? (fun o => o.op = op && o.word.isNone) with
  | none => s
  | some o => s.endKite o none

/-- A rejection reaches the sender: REJECTED or TOOLONG (R272, R260). -/
def State.receiveRejection (s : State) (op : Nat) (long : Bool) : State :=
  match s.kites.find? (fun o => o.op = op && o.word.isNone) with
  | none => s
  | some o => s.endKite o (some (if long then 7 else 6, 0))

/-- A message is delivered to this device. -/
def State.receive (s : State) : KMsg → State
  | .reserve o c z => s.receiveReserve o c z
  | .reply op st sl g => s.receiveReply op st sl g
  | .head o c z i g n => s.receiveHead o c z i g n
  | .data o c z i off bs bad => s.receiveData o c z i off bs bad
  | .last o c z i => s.receiveLast o c z i
  | .completion op => s.receiveCompletion op
  | .rejection op long => s.receiveRejection op long
  | .ended _ => s
  | .ack => s

/-! ### Path failure -/

/-- The paths between this device and another over a port fail (R413): the slots that senders of that path hold here
become FAILED, the operations of this device over it end with LINK, and its slots elsewhere are reached no more. -/
def State.failPath (s : State) (hit : Nat → Nat → Bool) : State :=
  let slots := s.slotsWhere (fun x =>
    (x.state = .reserved || x.state = .filling) &&
      (match x.owner with
       | some o => hit o.dev o.port
       | none => false))
  let s := slots.foldl (fun s (c, z, i) => s.failSlot c z i) s
  let ops := s.kites.filter (fun o => hit o.dev o.port)
  let s := ops.foldl (fun s o => s.linkError o) s
  { s with paths := s.paths.map (fun e => if hit e.1.1 e.2.2 then (e.1, e.2.1, portFailed) else e) }

/-! ### The source of a send (R272) -/

/-- A message built: its length, bytes, and which of them are damaged; none where it is longer than any slot. -/
structure Message where
  len : Nat
  bytes : List Byte
  bad : List Bool
  deriving DecidableEq, Repr

/-- Bytes read by the sending engine, with the damaged ones, and the faults met. -/
def State.sendBytes (s : State) (hart root va : Nat) : Nat → List (Byte × Bool) × List (Nat × Nat)
  | 0 => ([], [])
  | n + 1 =>
    let r := s.sendBytes hart root ((va + 1) % 2 ^ 64) n
    match s.engineLoc (coreOf hart) root .load va .kite with
    | .ok loc => ((Memory.read s.mem loc, s.damagedAt loc) :: r.1, r.2)
    | .error c => ((0, false) :: r.1, (va, c) :: r.2)

/-- D of R272: the distance of the planes in the slot. -/
def planeDistance (ladderM : Bool) (n : Nat) : Nat := ((if ladderM then n else 2 * n) + 63) / 64 * 64

/-- Bytes of plane p of n elements (R133). -/
def planeBytes (ladderM : Bool) (p n : Nat) : Nat := (n * planeBits ladderM p + 7) / 8

/-- The lower planes of a special element are sent as zeros (R131). -/
def maskNibble (lead : List (Byte × Bool)) (i : Nat) (x : Byte × Bool) : Byte × Bool :=
  let special := fun k =>
    let b := ((lead[k / 2]?).map (·.1.toNat)).getD 0
    (if k % 2 = 0 then b % 16 else b / 16) = 8
  let lo := if special (2 * i) then 0 else x.1.toNat % 16
  let hi := if special (2 * i + 1) then 0 else x.1.toNat / 16
  (BitVec.ofNat 8 (lo + 16 * hi), x.2)

/-- As `maskNibble` for a plane of whole bytes. -/
def maskByte (lead : List (Byte × Bool)) (i : Nat) (x : Byte × Bool) : Byte × Bool :=
  let b := ((lead[i / 2]?).map (·.1.toNat)).getD 0
  if (if i % 2 = 0 then b % 16 else b / 16) = 8 then (0, x.2) else x

/-- A plane extended with zeros to its place in the slot; the last nibble of an odd count is zero. -/
def padPlane (d : Nat) (xs : List (Byte × Bool)) : List (Byte × Bool) := xs ++ List.replicate (d - xs.length) (0, false)

/-- Bytes with a nibble beyond the last element cleared. -/
def clipNibble (bits n : Nat) (xs : List (Byte × Bool)) : List (Byte × Bool) :=
  if bits = 4 && n % 2 = 1 then
    xs.mapIdx (fun i x => if i + 1 = xs.length then (BitVec.ofNat 8 (x.1.toNat % 16), x.2) else x)
  else xs

/-- The source ranges of a send (R272): address and bytes. -/
def sendRanges (k n block : Nat) (ladderM : Bool) (addr : Nat → Nat) (pairs : Nat) : List (Nat × Nat) :=
  if k = 0 then [(addr 0, n)]
  else (List.range k).map (fun p => (addr p, planeBytes ladderM p n))
    ++ (if ladderM then [(pairs, 2 * ((n + block - 1) / block))] else [])

/-- The parts of a range that lie within one page each: address and bytes; fuel bounds their number. -/
def pagesFor : Nat → Nat → Nat → List (Nat × Nat)
  | 0, _, _ => []
  | k + 1, va, n =>
    if n = 0 then []
    else
      let m := min n (4096 - va % 4096)
      (va, m) :: pagesFor k ((va + m) % 2 ^ 64) (n - m)

/-- The bytes that the sending engine has read: they were moved for its hart (R458), and damage in transit that it met is
used up. -/
def State.spendSent (s : State) (hart root : Nat) (m : Message) (ranges : List (Nat × Nat)) : State :=
  if m.bytes.isEmpty then s
  else (ranges.flatMap (fun r => pagesFor (r.2 / 4096 + 2) r.1 r.2)).foldl (fun s r =>
    match s.engineLoc (coreOf hart) root .load r.1 .kite with
    | .ok loc => (s.spendTransit loc r.2).moves hart loc r.2
    | .error _ => s) s

/-- The message of a send (R272): raw, or k planes of a ladder. `addr p` is the address of plane p and `pairs` that of
the scale pairs. -/
def State.buildMessage (s : State) (hart root : Nat) (k n block : Nat) (ladderM : Bool) (addr : Nat → Nat) (pairs : Nat) :
    Message × List (Nat × Nat) :=
  let d := planeDistance ladderM n
  let nb := (n + block - 1) / block
  let len := if k = 0 then n else k * d + (if ladderM then 2 * nb else 0)
  if 1048576 < len then ({ len := len, bytes := [], bad := [] }, [])
  else
    let parts := if k = 0 then [s.sendBytes hart root (addr 0) n]
      else (List.range k).map (fun p => s.sendBytes hart root (addr p) (planeBytes ladderM p n))
    let sc := if k ≠ 0 && ladderM then s.sendBytes hart root pairs (2 * nb) else ([], [])
    let planes := parts.mapIdx (fun p x => clipNibble (if k = 0 then 8 else planeBits ladderM p) n x.1)
    let lead := planes.headD []
    let planes := planes.mapIdx (fun p xs =>
      if k ≠ 0 && ladderM && p ≠ 0 then
        xs.mapIdx (fun i x => if planeBits ladderM p = 4 then maskNibble lead i x else maskByte lead i x)
      else xs)
    let all := (if k = 0 then planes.flatten else (planes.map (padPlane d)).flatten) ++ sc.1
    ({ len := len, bytes := all.map (·.1), bad := all.map (·.2) }, parts.flatMap (·.2) ++ sc.2)

/-- The data messages of one flit: its payload, or eight bytes each where some are damaged. -/
def flitData (o : Origin) (c z i off : Nat) (bytes : List Byte) (bad : List Bool) : List KMsg :=
  if bad.any id then
    (List.range ((bytes.length + 7) / 8)).map (fun j =>
      .data o c z i (off + 8 * j) ((bytes.drop (8 * j)).take 8) (((bad.drop (8 * j)).take 8).any id))
  else [.data o c z i off bytes false]

/-- The data messages of a send: 120 bytes to a flit (R408). -/
def dataMessages (o : Origin) (c z i : Nat) (m : Message) : List KMsg :=
  (List.range ((m.bytes.length + 119) / 120)).flatMap (fun j =>
    flitData o c z i (120 * j) ((m.bytes.drop (120 * j)).take 120) ((m.bad.drop (120 * j)).take 120))

end Sys2Proof.Machine
end

