-- ==== Sys2Proof/Machine/Launching.lean ====
section
/-! DEFINITION. Launch records: their checks, acceptance and rejection, and completion records (R369 to R372, R380 to
R382). -/

namespace Sys2Proof.Machine

/-- A launch record as read (R369). -/
structure LRecord where
  entry : Nat
  param : Nat
  compl : Nat
  w0val : Nat
  w1val : Nat
  w0tl : Nat
  w1tl : Nat
  ctl : Nat
  gsize : Nat
  prio : Nat
  gcount : Nat
  flags : Nat
  tag : Nat
  deriving DecidableEq, Repr

/-- The fields of 64 bytes (R369). -/
def lrecordOf (bs : List Byte) : LRecord :=
  let f := fun o n => leNat ((bs.drop o).take n)
  { entry := f 0 8, param := f 8 8, compl := f 0x10 8, w0val := f 0x18 8, w1val := f 0x20 8, w0tl := f 0x28 2,
    w1tl := f 0x2A 2, ctl := f 0x2C 2, gsize := f 0x2E 1, prio := f 0x2F 1, gcount := f 0x30 4, flags := f 0x34 4,
    tag := f 0x38 8 }

/-- A timeline number within its limits (R259). -/
def tlOk (t : Nat) : Bool := t < 4096 || t = noTl

/-- The first failing field of a record, by its REASON code (R370, R380). -/
def LRecord.reject (r : LRecord) : Option Nat :=
  if r.entry % 64 ≠ 0 || 2 ^ 48 ≤ r.entry then some 16
  else if r.compl % 64 ≠ 0 then some 17
  else if !tlOk r.w0tl || !tlOk r.w1tl then some 18
  else if !tlOk r.ctl then some 19
  else if r.gsize = 0 || 16 < r.gsize then some 20
  else if 7 < r.prio then some 21
  else if r.gcount = 0 || 16777216 < r.gcount then some 22
  else if 7 < r.flags then some 23
  else none

/-- What a completion record says (R380). -/
structure Completion where
  status : Nat
  reason : Nat
  launch : Nat
  tag : Nat
  tstart : Nat
  tend : Nat
  energy : Nat
  fval : Nat
  fgang : Nat
  frank : Nat
  deriving DecidableEq, Repr

/-- The bytes of a completion record (R380). -/
def Completion.bytes (c : Completion) : List Byte :=
  leBytes 1 c.status ++ leBytes 1 c.reason ++ leBytes 2 0 ++ leBytes 4 c.launch ++ leBytes 8 c.tag ++ leBytes 8 c.tstart
    ++ leBytes 8 c.tend ++ leBytes 8 c.energy ++ leBytes 8 c.fval ++ leBytes 4 c.fgang ++ leBytes 1 c.frank
    ++ leBytes 11 0

/-- A completion record written in an address space; false where the write faults. The device has no core of its own,
so the local windows hold no record. -/
def State.writeCompletion (s : State) (root : Nat) (compl : Nat) (c : Completion) : State × Bool :=
  if 0xC00000000000 ≤ compl && compl < 0xC00000200000 then (s, false)
  else
    match s.engineLoc 0 root .store compl with
    | .ok loc => (s.writeMem loc c.bytes, true)
    | .error _ => (s.spendWalk root (BitVec.ofNat 64 compl), false)

/-- A record is rejected (R370): a completion record where COMPL is legal, and a ticket on CTL that ends with an
error. -/
def State.rejectRecord (s : State) (r : LRecord) (root reason : Nat) : State :=
  let legal := r.compl % 64 = 0
  let ctl := if tlOk r.ctl then r.ctl else noTl
  let (t, s) := s.takeTicket ctl
  let s := if legal && r.compl ≠ 0 then
      (s.writeCompletion root r.compl
        { status := 2, reason := reason, launch := 0, tag := r.tag, tstart := 0, tend := s.tsc.toNat, energy := 0,
          fval := 0, fgang := 0, frank := 0 }).1
    else s
  s.finishTicket ctl t (some (0, 4, if legal then BitVec.ofNat 64 r.compl else 0))

/-- Where a record comes from: its address space, handler base, highest priority, and queue or parent's hearth (R333,
R50, R372, R377). -/
structure Source where
  asid : Nat
  root : Nat
  tvec : Word
  priomax : Nat
  queue : Option Nat
  parentHearth : Option Nat
  deriving DecidableEq, Repr

/-- The serial after one: modulo 2^32, skipping 0 (R372). -/
def serialAfter (n : BitVec 32) : BitVec 32 := if n + 1 = 0 then 1 else n + 1

/-- A record is accepted (R372): its serial. -/
def State.acceptRecord (s : State) (r : LRecord) (o : Source) : State × BitVec 32 :=
  let (t, s) := s.takeTicket r.ctl
  let n := s.nextSerial
  let w := BitVec.ofNat 64
  let l : Launch :=
    { serial := n, entry := w r.entry, param := w r.param, compl := w r.compl, w0tl := r.w0tl, w0val := w r.w0val,
      w1tl := r.w1tl, w1val := w r.w1val, ctl := r.ctl, ticket := t, gsize := r.gsize, gcount := r.gcount,
      prio := min r.prio o.priomax, mirror := r.flags.testBit 0, rewind := r.flags.testBit 1,
      charged := r.flags.testBit 2, tag := w r.tag, asid := o.asid, root := o.root, tvec := o.tvec, queue := o.queue,
      parentHearth := o.parentHearth, state := .pending, inPool := true, kill := none, tstart := 0, gangs := [],
      nextGang := 0, energy := 0, passedSince := none }
  ({ s with launches := s.launches ++ [l], nextSerial := serialAfter n }, n)

/-- A record is taken in (R370, R372): rejected, or accepted with a serial. The caller has made sure of the pool
entry. -/
def State.takeRecord (s : State) (r : LRecord) (o : Source) : State × Option (BitVec 32) :=
  match r.reject with
  | some c => (s.rejectRecord r o.root c, none)
  | none =>
    let (s, n) := s.acceptRecord r o
    (s, some n)

/-- A free entry of the pool (R375, R277). -/
def State.poolFree (s : State) : Bool := s.poolUsed < Config.poolSize

end Sys2Proof.Machine
end

