-- ==== Sys2Proof/Machine/ScalarMem.lean ====
section
/-! DEFINITION. Class 4: scalar loads, stores and atomics (R151 to R155, R316, R342, R427, R428). -/

namespace Sys2Proof.Machine

/-- A scalar access waits for earlier vector memory instructions, readers of streams among them, and for a queued
instruction that writes a g register (R25, R153, R427). -/
def State.waitMem (s : State) (k : State → State) : State :=
  s.afterThose (fun e => e.writesG || memoryOp e.instr || !(s.hart.bindingsRead e).isEmpty) k

/-- The launch of the executing hart is killed with REASON 1, once its queue has retired (R316, R467). -/
def State.killAfter (s : State) (va : Word) : State := s.afterQueue true (fun s => s.killMine 1 va)

/-! ### The device control window (R342) -/

/-- Is an address in the device control window? -/
def inControl (va : Word) : Bool := 0xC30000000000 ≤ va.toNat && va.toNat < 0xC30000001000

/-- A read of a device control register by a supervisor load of 8 bytes; none where there is no such register. -/
def State.controlRead (s : State) (va : Word) : Option Word :=
  let l := s.launchOfHart s.hart
  match va.toNat - 0xC30000000000 with
  | 0 => some (BitVec.ofNat 64 (((l.map (·.root)).getD 0) / 4096 * 4096))
  | 8 => some (BitVec.ofNat 64 (((l.map (·.asid)).getD 0) % 64))
  | 16 => some 0
  | _ => none

/-- A value that TLBINV accepts: no reserved bit set. -/
def tlbinvOk (v : Word) : Bool := fld v 48 16 = 0 && fld v 1 11 = 0

/-! ### Loads -/

/-- The address of a load or store (R151). -/
def State.address (s : State) (a : BitVec 5) (i : BitVec 14) : Word := s.hart.gget a.toNat + simm i

/-- Bytes read by the executing hart at a location, as R153 and R428 give: the machine with the consumption, and the
value; none where a supervisor access reads damaged data (R316). -/
def State.loadBytes (s : State) (va : Word) (loc n : Nat) : Option (State × Nat) :=
  let h := s.hart
  let (bs, bad) := s.deliver h (s.view h) loc n
  if !bad then some (s.moves s.cur loc n, leNat bs)
  else if h.sup then none
  else some (((s.modHart (fun h => h.consume h.scalarPlace va)).spendTransit loc n).moves s.cur loc n, leNat bs)

/-- A scalar load of n bytes (R151). -/
def State.load (s : State) (d a : BitVec 5) (i : BitVec 14) (n : Nat) (signed : Bool) : State :=
  s.waitMem (fun s =>
    let va := s.address a i
    if va.toNat % n ≠ 0 then s.trapAfter causeAlign va
    else if inControl va && s.hart.sup && n = 8 then
      match s.controlRead va with
      | some x => s.result d x
      | none => s.trapAfter causeAccess va
    else
      match s.xlate .scalar .load va with
      | .fault c => s.trapAfter c va
      | .damaged => s.killAfter va
      | .at loc _ =>
        match s.loadBytes va loc n with
        | none => s.killMine 1 va
        | some (s, x) => s.result d (if signed then sext64 (8 * n) x else BitVec.ofNat 64 x))

/-- LDB (R151). -/
def execLdb (d a : BitVec 5) (i : BitVec 14) (s : State) : Out State Fault Refusal :=
  .next (s.load d a i 1 true)

/-- LDH (R151). -/
def execLdh (d a : BitVec 5) (i : BitVec 14) (s : State) : Out State Fault Refusal :=
  .next (s.load d a i 2 true)

/-- LDW (R151). -/
def execLdw (d a : BitVec 5) (i : BitVec 14) (s : State) : Out State Fault Refusal :=
  .next (s.load d a i 4 true)

/-- LDD (R151). -/
def execLdd (d a : BitVec 5) (i : BitVec 14) (s : State) : Out State Fault Refusal :=
  .next (s.load d a i 8 false)

/-- LDBZ (R151). -/
def execLdbz (d a : BitVec 5) (i : BitVec 14) (s : State) : Out State Fault Refusal :=
  .next (s.load d a i 1 false)

/-- LDHZ (R151). -/
def execLdhz (d a : BitVec 5) (i : BitVec 14) (s : State) : Out State Fault Refusal :=
  .next (s.load d a i 2 false)

/-- LDWZ (R151). -/
def execLdwz (d a : BitVec 5) (i : BitVec 14) (s : State) : Out State Fault Refusal :=
  .next (s.load d a i 4 false)

/-! ### Stores -/

/-- The size code of a scalar store of n bytes (R328). -/
def sizeCode (n : Nat) : Nat := if n = 1 then 1 else if n = 2 then 2 else if n = 4 then 3 else 4

/-- The held entry of a scalar store, or of a store a class 15 instruction makes (R152, R285). -/
def State.heldScalar (s : State) (va : Word) (loc : Nat) (bs : List Byte) : Held :=
  { seq := s.hart.nextSeq, elem := 0, vector := false, kind := .store, size := sizeCode bs.length, high := false,
    scope := BitVec.ofNat 2 (scopeOf s.hart.vcfg), ew := 0, fmt := 0, va := s.heldVa va,
    locs := [(loc, bs.length)], bytes := bs, addends := [] }

/-- A store of the executing hart after its checks: held in program mode (R152), performed at once in supervisor mode,
after the held entries that cover its bytes (R316). The flag says that the launch still runs. -/
def State.storeBytes (s : State) (va : Word) (loc : Nat) (bs : List Byte) : State × Bool :=
  if s.hart.sup then
    match s.performCovering s.cur loc bs.length with
    | (s, true) => ((s.writeMem loc bs).moves s.cur loc bs.length, true)
    | r => r
  else
    (s.modHart (fun h => { h with nextSeq := h.nextSeq + 1 })).enterScalar (s.heldScalar va loc bs)
      (hebCapacity s.hart.heblim)

/-- A scalar store of n bytes (R151). -/
def State.store (s : State) (g a : BitVec 5) (i : BitVec 14) (n : Nat) : State :=
  s.waitMem (fun s =>
    let va := s.address a i
    let x := s.hart.gget g.toNat
    if va.toNat % n ≠ 0 then s.trapAfter causeAlign va
    else if inControl va && s.hart.sup && n = 8 then
      if va.toNat = 0xC30000000010 && tlbinvOk x then s.advance else s.trapAfter causeAccess va
    else
      match s.xlate .scalar .store va with
      | .fault c => s.trapAfter c va
      | .damaged => s.killAfter va
      | .at loc _ =>
        match s.storeBytes va loc (leBytes n x.toNat) with
        | (s, true) => s.advance
        | (s, false) => s)

/-- STB (R151, R152). -/
def execStb (g a : BitVec 5) (i : BitVec 14) (s : State) : Out State Fault Refusal :=
  .next (s.store g a i 1)

/-- STH (R151, R152). -/
def execSth (g a : BitVec 5) (i : BitVec 14) (s : State) : Out State Fault Refusal :=
  .next (s.store g a i 2)

/-- STW (R151, R152). -/
def execStw (g a : BitVec 5) (i : BitVec 14) (s : State) : Out State Fault Refusal :=
  .next (s.store g a i 4)

/-- STD (R151, R152). -/
def execStd (g a : BitVec 5) (i : BitVec 14) (s : State) : Out State Fault Refusal :=
  .next (s.store g a i 8)

/-! ### Atomics (R154, R155) -/

/-- Bytes of an atomic (R87). -/
def atomicSize (w : BitVec 1) : Nat := if w = 1 then 8 else 4

/-- The held entries that an atomic performs first: all of them in program mode, which sets DRAINED; those that cover
its bytes in supervisor mode (R154, R316). -/
def State.atomicRelease (s : State) (loc n : Nat) : State × Bool :=
  if s.hart.sup then s.performCovering s.cur loc n
  else
    match s.drainHeld s.cur with
    | (s, true) => (s.modHart (fun h => { h with drained := true }), true)
    | r => r

/-- An atomic: `f` gives the new value from the old, the operand and the compare value; none writes nothing (R154). -/
def State.atomic (s : State) (d a b : BitVec 5) (w : BitVec 1) (f : Nat → Nat → Nat → Nat → Option Nat) : State :=
  s.afterQueue true (fun s =>
    let n := atomicSize w
    let va := s.hart.gget a.toNat
    let op := (s.hart.gget b.toNat).toNat % 2 ^ (8 * n)
    let cmp := (s.hart.gget d.toNat).toNat % 2 ^ (8 * n)
    match s.checkScalar .store va n with
    | .fault c => s.trapHere c va
    | .damaged => s.killMine 1 va
    | .at loc _ =>
      match s.atomicRelease loc n with
      | (s, false) => s
      | (s, true) =>
        if (List.range n).any (fun i => s.damagedAt (loc + i)) then
          if s.hart.sup then s.killMine 1 va
          else (((s.modHart (fun h => h.consume h.scalarPlace va)).spendTransit loc n).moves s.cur loc n).result d 0
        else
          let old := leNat (s.readMem loc n)
          let s := match f n old op cmp with
            | some new => (s.writeMem loc (leBytes n new)).moves s.cur loc (2 * n)
            | none => s.moves s.cur loc n
          s.result d (sext64 (8 * n) old))

/-- The lesser or greater of two values of n bytes. -/
def pickSigned (greater : Bool) (n x y : Nat) : Nat :=
  if toSigned (8 * n) x < toSigned (8 * n) y then (if greater then y else x) else (if greater then x else y)

/-- AADD (R154). -/
def execAadd (d a b : BitVec 5) (w : BitVec 1) (s : State) : Out State Fault Refusal :=
  .next (s.atomic d a b w (fun n old op _ => some ((old + op) % 2 ^ (8 * n))))

/-- ASWP (R154). -/
def execAswp (d a b : BitVec 5) (w : BitVec 1) (s : State) : Out State Fault Refusal :=
  .next (s.atomic d a b w (fun _ _ op _ => some op))

/-- ACAS (R154). -/
def execAcas (d a b : BitVec 5) (w : BitVec 1) (s : State) : Out State Fault Refusal :=
  .next (s.atomic d a b w (fun _ old op cmp => if old = cmp then some op else none))

/-- AMIN (R154). -/
def execAmin (d a b : BitVec 5) (w : BitVec 1) (s : State) : Out State Fault Refusal :=
  .next (s.atomic d a b w (fun n old op _ => some (pickSigned false n old op)))

/-- AMAX (R154). -/
def execAmax (d a b : BitVec 5) (w : BitVec 1) (s : State) : Out State Fault Refusal :=
  .next (s.atomic d a b w (fun n old op _ => some (pickSigned true n old op)))

/-- AMINZ (R154). -/
def execAminz (d a b : BitVec 5) (w : BitVec 1) (s : State) : Out State Fault Refusal :=
  .next (s.atomic d a b w (fun _ old op _ => some (Nat.min old op)))

/-- AMAXZ (R154). -/
def execAmaxz (d a b : BitVec 5) (w : BitVec 1) (s : State) : Out State Fault Refusal :=
  .next (s.atomic d a b w (fun _ old op _ => some (Nat.max old op)))

/-- AAND (R154). -/
def execAand (d a b : BitVec 5) (w : BitVec 1) (s : State) : Out State Fault Refusal :=
  .next (s.atomic d a b w (fun _ old op _ => some (old &&& op)))

/-- AOR (R154). -/
def execAor (d a b : BitVec 5) (w : BitVec 1) (s : State) : Out State Fault Refusal :=
  .next (s.atomic d a b w (fun _ old op _ => some (old ||| op)))

/-- AXOR (R154). -/
def execAxor (d a b : BitVec 5) (w : BitVec 1) (s : State) : Out State Fault Refusal :=
  .next (s.atomic d a b w (fun _ old op _ => some (old ^^^ op)))

end Sys2Proof.Machine
end

