-- ==== Sys2Proof/Machine/TokenScalar.lean ====
section
/-! DEFINITION. The S instructions of class 15 (R285): GADV, GSTAT, STOPM, the prefix instructions and the n-gram pool
(R297 to R300, R303 to R310). -/

namespace Sys2Proof.Machine

/-! ### The shared form (R285) -/

/-- A store that an instruction will make: address, location and bytes. -/
structure Put where
  va : Word
  loc : Nat
  bytes : List Byte
  deriving DecidableEq, Repr

/-- A store after its checks (R285, R151). -/
def tput (x : Src) (va : Word) (bs : List Byte) : TM Put := do
  let loc ← tcheck x .store va bs.length
  pure { va := va, loc := loc, bytes := bs }

/-- The checks of n stores of `size` bytes at consecutive addresses. -/
def tputs (x : Src) (va : Word) (size : Nat) : Nat → TM (List Nat)
  | 0 => pure []
  | k + 1 => do
    let loc ← tcheck x .store va size
    let rest ← tputs x (va + BitVec.ofNat 64 size) size k
    pure (loc :: rest)

/-- The stores of an instruction, one held entry each (R285). -/
def State.putAll (s : State) : List Put → State × Bool
  | [] => (s, true)
  | p :: ps =>
    match s.storeBytes p.va p.loc p.bytes with
    | (s, true) => s.putAll ps
    | r => r

/-- Stores of 4 bytes to one aligned dword make one entry (R285). -/
def mergePuts : List Put → List Put
  | p :: q :: ps =>
    if p.bytes.length = 4 && p.va.toNat % 8 = 0 && q.bytes.length = 4 && q.va = p.va + 4 then
      { p with bytes := p.bytes ++ q.bytes } :: mergePuts ps
    else p :: mergePuts (q :: ps)
  | ps => ps

/-- What follows the stores of an instruction while the launch runs. Where the buffer cannot take them all at once they
wait for the breaks in the queue (R185), and nothing of the instruction has happened before. -/
def State.afterPuts (s : State) (ps : List Put) (k : State → State) : State :=
  let full := !s.hart.hasRoom (hebCapacity s.hart.heblim) ps.length
  s.afterThose (fun e => full && isBreak e.instr) (fun s =>
    match s.putAll ps with
    | (s, true) => k s
    | (s, false) => s)

/-- An S instruction that reads memory operands: it traps before any effect, or goes on with the value and the damaged
reads consumed (R285, R428); a supervisor read of damaged data kills the launch (R316). -/
def State.readThen {α : Type} (s : State) (m : Src → TM α) (k : State → α → State) : State :=
  s.waitMem (fun s =>
    match m { s := s, who := .scalar, old := s.hart, view := s.view s.hart } [] with
    | .error (.fault cause va) => s.trapAfter cause va
    | .error (.damaged va) => s.killAfter va
    | .ok (a, l) =>
      match l.reverse.find? (fun x => s.hart.sup && x.bad) with
      | some x => s.killMine 1 x.va
      | none => k (s.commitAll s.hart.scalarPlace l) a)

/-- STRIP.DRAINED set: no rule that sets it for an operation of another kind than a store or atomic looks at the mode
(R257, R303, R367, R434). -/
def State.setDrained (s : State) : State := s.modHart (fun h => { h with drained := true })

/-- The release of R257: steps 1 to 3 of FENCE, which in supervisor mode leave the held entries (R316), and
STRIP.DRAINED. -/
def State.release (s : State) (k : State → State) : State :=
  s.afterQueue true (fun s =>
    let r := if s.hart.sup then (s, true) else s.drainHeld s.cur
    match r with
    | (s, true) => k s.setDrained
    | (s, false) => s)

/-- A 32-bit value that a register operand must be, or ACCESS with the whole register (R285). -/
def toperand (ok : Bool) (w : Word) : TM Unit := if ok then pure () else tfail (.fault causeAccess w)

/-! ### GADV and GSTAT (R297, R298) -/

/-- The result layout of GADV: status, depth and state. -/
def grammarResult (status depth q : Nat) : Word := BitVec.ofNat 64 (status + depth * 256 + q * 2 ^ 32)

/-- The aligned dwords of the stack that hold a symbol that changed: bottom first, at rising addresses. -/
def changedDwords (old new : List Nat) : List Nat :=
  ((List.range new.length).filter (fun d => old[d]? ≠ new[d]?)).map (· / 4) |>.eraseDups

/-- The dword stores of a changed stack (R285, R297); bytes of unchanged symbols are stored as they were. -/
def stackPuts (x : Src) (gs : Word) (new : List Nat) : List Nat → TM (List Put)
  | [] => pure []
  | w :: ws => do
    let va := gs + BitVec.ofNat 64 (0x40 + 8 * w)
    let old ← tread x va 8
    let bs := (List.range 4).flatMap (fun i =>
      match new[4 * w + i]? with
      | some y => leBytes 2 y
      | none => leBytes 2 (old / 2 ^ (16 * i)))
    let p ← tput x va bs
    let rest ← stackPuts x gs new ws
    pure (p :: rest)

/-- GADV: the result and the stores. -/
def gadvSteps (x : Src) (gs : Word) (t : Nat) : TM (Word × List Put) := do
  let (i, c) ← readGrammar x gs
  if t = i.endTok then
    let ok ← accepting x i c
    pure (grammarResult (if ok then 1 else 3) c.stack.length c.q, [])
  else
    match ← stepToken x i c t with
    | none => pure (grammarResult 3 c.stack.length c.q, [])
    | some c' =>
      let st ← grammarStatus x i c'
      let head ← tput x (gs + 8) (leBytes 4 c'.q ++ leBytes 2 c'.stack.length ++ leBytes 2 st)
      let rest ← stackPuts x gs c'.stack.reverse (changedDwords c.stack.reverse c'.stack.reverse)
      pure (grammarResult st c'.stack.length c'.q, head :: rest)

/-- GADV (R297). -/
def execGadv (d a : BitVec 6) (g : BitVec 5) (s : State) : Out State Fault Refusal :=
  .next (s.readThen (fun x => gadvSteps x (x.s.hart.gget g.toNat) (x.s.hart.gget a.toNat).toNat)
    (fun s r => s.afterPuts r.2 (fun s => (s.gset d.toNat r.1).advance)))

/-- GSTAT (R298). -/
def execGstat (d : BitVec 6) (g : BitVec 5) (s : State) : Out State Fault Refusal :=
  .next (s.readThen (fun x => do
      let (i, c) ← readGrammar x (x.s.hart.gget g.toNat)
      let st ← grammarStatus x i c
      pure (grammarResult st c.stack.length c.q))
    (fun s r => (s.gset d.toNat r).advance))

/-! ### STOPM (R299, R300) -/

/-- A run of the automaton over bytes from offset b on: the last state, and the match with its length and offset. -/
def runStops (x : Src) (auto : Word) (nstates : Nat) : Nat → Nat → List Nat → TM (Nat × Option (Nat × Nat))
  | q, _, [] => pure (q, none)
  | q, b, y :: ys => do
    let va := auto + BitVec.ofNat 64 (0x40 + 512 * q + 2 * y)
    let q' ← tread x va 2
    if nstates ≤ q' then tbad va
    else
      let l ← tread x (auto + BitVec.ofNat 64 (0x40 + 512 * nstates + q')) 1
      if 0 < l then pure (q', some (l, b)) else runStops x auto nstates q' (b + 1) ys

/-- STOPM: the result and the store of the record. -/
def stopmSteps (x : Src) (gs : Word) (t : Nat) : TM (Word × Put) := do
  taligned gs 16
  let a ← tread x gs 8
  let w ← tread x (gs + 8) 8
  let auto := BitVec.ofNat 64 a
  let q := w % 65536
  let flags := w / 65536 % 256
  if a % 64 ≠ 0 || 3 < flags || w / 2 ^ 24 ≠ 0 then tbad gs
  let loc ← tcheck x .load auto 8
  if !(inDev loc || inSpad loc) then tbad gs
  let r ← treads x auto 8 8
  let nstates := r.getD 0 0 % 2 ^ 32
  let ntok := r.getD 2 0 % 2 ^ 32
  if nstates = 0 || 65535 < nstates || r.getD 0 0 / 2 ^ 32 ≠ 0 || r.getD 2 0 / 2 ^ 32 ≠ 0 || (r.drop 3).any (· ≠ 0)
      || r.getD 1 0 % 64 ≠ 0
  then tbad auto
  if ntok ≤ t || nstates ≤ q then tbad gs
  let bs ← tokenBytes x auto (BitVec.ofNat 64 (r.getD 1 0)) t
  let (q', m) ← runStops x auto nstates q 0 bs
  let incl := flags % 2 = 1
  let keep : Int := match m with
    | none => bs.length
    | some (l, off) => if incl then off + 1 else off + 1 - l
  let low := match m with
    | none => 0
    | some (l, off) => off + l * 2 ^ 16 + 2 ^ 31
  let p ← tput x (gs + 8) (leBytes 2 q' ++ leBytes 1 (flags % 2 + 2 * b2n (2 ≤ flags || m.isSome)) ++ leBytes 5 0)
  pure (BitVec.ofNat 64 (low + (BitVec.ofInt 32 keep).toNat * 2 ^ 32), p)

/-- STOPM (R300). -/
def execStopm (d a : BitVec 6) (g : BitVec 5) (s : State) : Out State Fault Refusal :=
  .next (s.readThen (fun x => stopmSteps x (x.s.hart.gget g.toNat) (x.s.hart.gget a.toNat).toNat)
    (fun s r => s.afterPuts [r.2] (fun s => (s.gset d.toNat r.1).advance)))

/-! ### The prefix table (R303 to R307) -/

/-- PFXH (R304). -/
def execPfxh (d a : BitVec 6) (g : BitVec 5) (s : State) : Out State Fault Refusal :=
  .next (s.readThen (fun x => do
      let n := 16 <<< blkOf x.s.hart.vcfg
      let gs := x.s.hart.gget g.toNat
      taligned gs 4
      let ts ← treads x gs 4 n
      pure (mix (ts.foldl mix (x.s.hart.gget a.toNat).toNat) (2 ^ 63 + n)))
    (fun s r => (s.gset d.toNat (BitVec.ofNat 64 r)).advance))

/-- The most recent mark given to the entry with an index. -/
def State.markPrefix (s : State) (i : Nat) : State :=
  let (n, s) := s.takeStamp
  { s with prefixes := s.prefixes.map (fun e => if e.index = i then { e with mark := n } else e) }

/-- The leading hashes found, their entries marked in order: the pages (R305). -/
def State.lookupPrefixes (s : State) : List Word → State × List (BitVec 32)
  | [] => (s, [])
  | h :: hs =>
    match s.prefixes.find? (fun e => e.hash = h) with
    | none => (s, [])
    | some e =>
      let r := (s.markPrefix e.index).lookupPrefixes hs
      (r.1, e.page :: r.2)

/-- PFXLK (R305). -/
def execPfxlk (d a b : BitVec 6) (g : BitVec 5) (s : State) : Out State Fault Refusal :=
  .next (s.readThen (fun x => do
      let h := x.s.hart
      let ga := h.gget a.toNat
      let gb := h.gget b.toNat
      let gs := h.gget g.toNat
      taligned ga 8
      taligned gs 4
      toperand (decide (gb.toNat ≤ 4096)) gb
      let hs ← treads x ga 8 gb.toNat
      let ls ← tputs x gs 4 gb.toNat
      pure (hs.map (BitVec.ofNat 64), gs, ls))
    (fun s (r : List Word × Word × List Nat) => s.release (fun s =>
      let (s, ps) := s.lookupPrefixes r.1
      let puts := (ps.zip r.2.2).mapIdx (fun j p =>
        ({ va := r.2.1 + BitVec.ofNat 64 (4 * j), loc := p.2, bytes := leBytes 4 p.1.toNat } : Put))
      s.afterPuts (mergePuts puts) (fun s => (s.gset d.toNat (BitVec.ofNat 64 ps.length)).advance))))

/-- The entry to be replaced: the least recently marked unpinned one (R306). -/
def oldestUnpinned (ps : List PfxEntry) : Option PfxEntry :=
  ps.foldl (fun best e =>
    if e.pins ≠ 0 then best
    else
      match best with
      | none => some e
      | some b => if e.mark < b.mark then some e else best) none

/-- The lowest index that no entry has. -/
def freePrefix (ps : List PfxEntry) : Option Nat := (List.range 4096).find? (fun i => !ps.any (fun e => e.index = i))

/-- The step of PFXINS on the table (R306): the result. -/
def State.insertPrefix (s : State) (hash : Word) (page : BitVec 32) : State × Word :=
  let add := fun (s : State) (i : Nat) =>
    ({ s with prefixes := { index := i, hash := hash, page := page, pins := 1, mark := 0 } :: s.prefixes } :
      State).markPrefix i
  match s.prefixes.find? (fun e => e.hash = hash) with
  | some e => (s.markPrefix e.index, BitVec.ofNat 64 (2 + e.page.toNat * 2 ^ 32))
  | none =>
    if s.prefixes.any (fun e => e.page = page) then (s, 3)
    else
      match freePrefix s.prefixes with
      | some i => (add s i, 0)
      | none =>
        match oldestUnpinned s.prefixes with
        | none => (s, 4)
        | some e =>
          (add { s with prefixes := s.prefixes.filter (fun x => x.index ≠ e.index) } e.index,
           BitVec.ofNat 64 (1 + e.page.toNat * 2 ^ 32))

/-- PFXINS (R306). -/
def execPfxins (d a b : BitVec 6) (s : State) : Out State Fault Refusal :=
  .next (s.readThen (fun x =>
      let gb := x.s.hart.gget b.toNat
      toperand (decide (gb.toNat < 2 ^ 32)) gb)
    (fun s _ => s.release (fun s =>
      let (s, r) := s.insertPrefix (s.hart.gget a.toNat) ((s.hart.gget b.toNat).setWidth 32)
      (s.gset d.toNat r).advance)))

/-- The pages of a list pinned or unpinned in order, up to the first that fails: its index and code (R307). -/
def pinPages (up : Bool) (ps : List PfxEntry) (j : Nat) : List Nat → List PfxEntry × Option (Nat × Nat)
  | [] => (ps, none)
  | page :: rest =>
    match ps.find? (fun e => e.page.toNat = page) with
    | none => (ps, some (j, 1))
    | some e =>
      if (if up then e.pins = 65535 else e.pins = 0) then (ps, some (j, 2))
      else
        pinPages up (ps.map (fun x =>
          if x.index = e.index then { x with pins := if up then x.pins + 1 else x.pins - 1 } else x)) (j + 1) rest

/-- PFXPIN and PFXUNPIN (R307): all or nothing. -/
def State.pin (s : State) (up : Bool) (d a b : BitVec 6) : State :=
  s.readThen (fun x => do
      let ga := x.s.hart.gget a.toNat
      let gb := x.s.hart.gget b.toNat
      taligned ga 4
      toperand (decide (gb.toNat ≤ 4096)) gb
      treads x ga 4 gb.toNat)
    (fun s pages => s.release (fun s =>
      match pinPages up s.prefixes 0 pages with
      | (ps, none) => (({ s with prefixes := ps } : State).gset d.toNat 0).advance
      | (_, some (j, code)) => (s.gset d.toNat (BitVec.ofNat 64 (code + j * 2 ^ 32))).advance))

/-- PFXPIN (R307). -/
def execPfxpin (d a b : BitVec 6) (s : State) : Out State Fault Refusal := .next (s.pin true d a b)

/-- PFXUNPIN (R307). -/
def execPfxunpin (d a b : BitVec 6) (s : State) : Out State Fault Refusal := .next (s.pin false d a b)

/-! ### The n-gram pool (R308 to R310) -/

/-- The way that NGPUT fills in a set (R309). -/
def ngWay (es : List NgEntry) (key : Word) (first : BitVec 32) : Nat :=
  match es.find? (fun e => e.key = key && e.tokens.head? = some first) with
  | some e => e.way
  | none =>
    match (List.range 4).find? (fun w => !es.any (fun e => e.way = w)) with
    | some w => w
    | none =>
      ((es.foldl (fun best e =>
        match best with
        | none => some e
        | some b => if e.mark < b.mark then some e else best) none).map (·.way)).getD 0

/-- The step of NGPUT on the slice of hearth k (R309). -/
def State.ngPut (s : State) (k : Nat) (key : Word) (ts : List (BitVec 32)) : State :=
  let set := fld key 0 11
  let (n, s) := s.takeStamp
  s.modHearth k (fun x =>
    let w := ngWay (x.ngrams.filter (fun e => e.set = set)) key (ts.headD 0)
    { x with ngrams := { set := set, way := w, key := key, tokens := ts, mark := n } ::
        x.ngrams.filter (fun e => !(e.set = set && e.way = w)) })

/-- NGPUT (R309). -/
def execNgput (a b : BitVec 6) (s : State) : Out State Fault Refusal :=
  .next (s.readThen (fun x => do
      let gb := x.s.hart.gget b.toNat
      taligned gb 8
      let w ← tread x gb 8
      if w = 0 || 16 < w then tbad gb
      let ts ← treads x (gb + 8) 4 w
      pure (ts.map (BitVec.ofNat 32)))
    (fun s ts => (s.ngPut (hearthOf s.cur) (s.hart.gget a.toNat) ts).advance))

/-- An entry put among others, the most recently marked first. -/
def insertByMark (e : NgEntry) : List NgEntry → List NgEntry
  | [] => [e]
  | x :: xs => if x.mark < e.mark then e :: x :: xs else x :: insertByMark e xs

/-- The bytes of a pool record (R309, R310). -/
def poolRecord (e : NgEntry) : List Byte :=
  let bs := leBytes 8 e.tokens.length ++ e.tokens.flatMap (fun t => leBytes 4 t.toNat)
  bs ++ List.replicate (72 - bs.length) 0

/-- The dwords of some bytes. -/
def dwordsOf : Nat → List Byte → List (List Byte)
  | 0, _ => []
  | n + 1, bs => bs.take 8 :: dwordsOf n (bs.drop 8)

/-- NGGET (R310). -/
def execNgget (d a b : BitVec 6) (s : State) : Out State Fault Refusal :=
  .next (s.readThen (fun x => do
      let gb := x.s.hart.gget b.toNat
      taligned gb 8
      let ls ← tputs x gb 8 36
      pure (gb, ls))
    (fun s (r : Word × List Nat) =>
      let key := s.hart.gget a.toNat
      let es := ((s.hearth (hearthOf s.cur)).ngrams.filter (fun e => e.key = key)).foldr insertByMark []
      let ds := dwordsOf (9 * es.length) (es.flatMap poolRecord)
      let puts := (ds.zip r.2).mapIdx (fun j p =>
        ({ va := r.1 + BitVec.ofNat 64 (8 * j), loc := p.2, bytes := p.1 } : Put))
      s.afterPuts puts (fun s => (s.gset d.toNat (BitVec.ofNat 64 es.length)).advance)))

end Sys2Proof.Machine
end

