-- ==== Sys2Proof/Machine/Sync.lean ====
section
/-! DEFINITION. The S instructions of class 14 (R256 to R282): parked waits, timelines, the copy and kite engines,
launches, the iteration ring and the barriers. -/

namespace Sys2Proof.Machine

/-! ### Checks (R256) -/

/-- A register operand outside its limits: ACCESS with its whole value (R256). -/
def State.badOperand (s : State) (w : Word) : State := s.trapAfter causeAccess w

/-- An address that must lie in a scratchpad window or device memory and be aligned; the access is a store (R256,
R265, R271, R280). -/
def tplace (x : Src) (acc : Acc) (va : Word) (align : Nat) : TM Nat := do
  taligned va align
  let loc ← tcheck x acc va (min align 8)
  if inDev loc || inSpad loc then pure loc else tbad va

/-- The launch serial of the executing hart; 0 where it is not placed. -/
def State.mySerial (s : State) : BitVec 32 := (s.hart.place.map (·.serial)).getD 0

/-! ### Parked waits (R258) -/

/-- A parked hart that has been asked to stop stops at once, keeping its wait; not in supervisor mode (R389, R318). -/
def State.stopParked (s : State) : State := if s.hart.wait.isSome && !s.hart.sup then s.stopIfAsked 2 else s

/-- The executing hart begins to wait. -/
def State.startWait (s : State) (w : Wait) : State :=
  let (n, s) := s.takeStamp
  s.modHart (fun h => { h with wait := some w, parkedAt := n, parkedTsc := s.tsc })

/-- The executing hart parks. -/
def State.park (s : State) (w : Wait) : State := (s.startWait w).stopParked

/-- The ring of the gang of a hart. -/
def State.ringOfHart (s : State) (h : Hart) : List (Word × Word) := ((s.gangOf h).map (·.ring)).getD []

/-- Is a hart the first of its gang to have parked in WAIT on a number (R278)? -/
def State.firstWaiter (s : State) (h : Hart) (k : Word) : Bool :=
  match h.place with
  | none => true
  | some p =>
    s.contexts.all (fun x =>
      match x.place, x.wait with
      | some q, some (.ring j _) =>
        !(q.serial = p.serial && q.gang = p.gang && j = k) || h.parkedAt ≤ x.parkedAt
      | _, _ => true)

/-- Does the condition of a wait hold (R258, R262, R273, R277, R278)? -/
def State.waitOver (s : State) (h : Hart) : Wait → Bool
  | .tl t v _ => decide (v.toNat ≤ (s.timeline t).value.toNat)
  | .zone c z n _ =>
    match s.zone c z with
    | some x => decide (n ≤ (x.arrived + x.failed).toNat)
    | none => true
  | .slot => false
  | .post k _ => !(s.ringOfHart h).any (fun e => e.1 = k) && decide ((s.ringOfHart h).length < 16)
  | .ring k _ => (s.ringOfHart h).any (fun e => e.1 = k) && s.firstWaiter h k
  | .gbar _ => false
  | .bar _ _ => false
  | .done _ _ => true

/-- What the end of a wait does, with the result it writes (R262, R273, R278). -/
def State.waitEffect (s : State) : Wait → State × Option (BitVec 5 × Word)
  | .tl t _ d => (s, some (d, (s.timeline t).value))
  | .zone c z _ d =>
    (s, some (d, ((s.zone c z).map (fun x => BitVec.ofNat 64 (x.arrived.toNat + x.failed.toNat * 2 ^ 32))).getD 0))
  | .slot => (s, none)
  | .post k v => (s.modMyGang (fun g => { g with ring := g.ring ++ [(k, v)] }), none)
  | .ring k d =>
    ((s.modMyGang (fun g => { g with ring := g.ring.filter (fun e => e.1 ≠ k) })).setDrained,
     some (d, (((s.ringOfHart s.hart).find? (fun e => e.1 = k)).map (·.2)).getD 0))
  | .gbar _ => (s, none)
  | .bar _ _ => (s, none)
  | .done none _ => (s.setDrained, none)
  | .done (some d) v => (s, some (d, v))

/-- The wait of the executing hart ends, and the next word follows. -/
def State.endWait (s : State) (w : Wait) : State :=
  let (s, r) := s.waitEffect w
  let s := s.modHart (fun h => { h with wait := none })
  match r with
  | some (d, v) => s.result d v
  | none => s.advance

/-- A wait begins: it ends at once where its condition holds already. -/
def State.beginWait (s : State) (w : Wait) : State :=
  let s := s.startWait w
  if s.waitOver s.hart w then s.endWait w else s.stopParked

/-! ### Timelines (R259 to R263) -/

/-- The field of a timeline that a selector names (R261). -/
def Timeline.field (l : Timeline) (sel : Nat) : Word :=
  match sel with
  | 0 => l.value
  | 1 => l.next
  | 2 => BitVec.ofNat 64 (b2n l.err + l.ecode.toNat * 256 + l.ekind.toNat * 65536)
  | 3 => l.eticket
  | _ => l.eaddr

/-- TLRD (R261). -/
def execTlrd (d a : BitVec 5) (s : State) : Out State Fault Refusal :=
  .next (s.waitG (fun s =>
    let ga := s.hart.gget a.toNat
    let t := fld ga 0 16
    if !tlOk t || 4 < fld ga 16 3 || fld ga 19 45 ≠ 0 then s.badOperand ga
    else s.result d (if t = noTl then 0 else (s.timeline t).field (fld ga 16 3))))

/-- TLWAIT (R262). -/
def execTlwait (d a b : BitVec 5) (s : State) : Out State Fault Refusal :=
  .next (s.afterQueue true (fun s =>
    let ga := s.hart.gget a.toNat
    if !tlOk ga.toNat then s.badOperand ga
    else if ga.toNat = noTl then s.result d 0
    else s.beginWait (.tl ga.toNat (s.hart.gget b.toNat) d)))

/-- ERR and what goes with it cleared (R263). -/
def Timeline.clearErr (l : Timeline) : Timeline := { l with err := false, ecode := 0, ekind := 0, eticket := 0, eaddr := 0 }

/-- TLSIG (R263). -/
def execTlsig (a b : BitVec 5) (s : State) : Out State Fault Refusal :=
  .next (s.afterQueue true (fun s =>
    let ga := s.hart.gget a.toNat
    let gb := s.hart.gget b.toNat
    if !tlOk ga.toNat then s.badOperand ga
    else if 3 < gb.toNat then s.badOperand gb
    else
      s.release (fun s =>
        let t := ga.toNat
        let (n, s) := s.takeTicket t
        let s := s.finishTicket t n (if bit gb 0 then some (0, 3, 0) else none)
        let s := if bit gb 1 && t ≠ noTl then s.modTimeline t Timeline.clearErr else s
        s.advance)))

/-! ### The copy engine (R264, R267) -/

/-- CPY (R264). -/
def execCpy (d a b : BitVec 5) (c : BitVec 6) (s : State) : Out State Fault Refusal :=
  .next (s.afterQueue true (fun s =>
    let gc := s.hart.gget c.toNat
    let t := fld gc 48 16
    if !tlOk t then s.badOperand gc
    else
      s.release (fun s =>
        let len := fld gc 0 48
        let h := s.hart
        if len = 0 then
          let (n, s) := s.takeTicket t
          (s.finishTicket t n none).result d (BitVec.ofNat 64 n)
        else
          let (n, s) := s.issueCopy t (.bytes (h.gget a.toNat).toNat (h.gget b.toNat).toNat len)
          s.result d (BitVec.ofNat 64 n))))

/-- The 64 bytes of a structure read by the hart. -/
def tbytes (x : Src) (va : Word) : TM (List Byte) := do
  let ws ← treads x va 8 8
  pure (ws.flatMap (leBytes 8))

/-- CPYX (R267). -/
def execCpyx (d a : BitVec 5) (s : State) : Out State Fault Refusal :=
  .next (s.afterQueue true (fun s => s.readThen
    (fun x => do
      let ga := x.s.hart.gget a.toNat
      let _ ← tplace x .load ga 64
      let bs ← tbytes x ga
      pure (ga.toNat, descOf true bs))
    (fun s (r : Nat × Desc) => s.release (fun s =>
      let (desc, k) := r
      let (n, s) := s.issueCopy k.timeline
        (if k.bad then .bad desc
         else .listed desc k.dst k.dstride k.src k.sstride k.rowBytes k.idx k.count (k.idxw = 1))
      s.result d (BitVec.ofNat 64 n)))))

/-! ### Zones (R268 to R275) -/

/-- The zone that a KZONE declares: every slot FREE with GEN 0 (R270). -/
def newZone (base size n : Nat) : Zone :=
  { base := base, slotSize := size,
    slots := List.replicate n { state := .free, gen := 0, len := 0, owner := none, want := 0, landed := [] }, arrived := 0, failed := 0 }

/-- Does a range of a core's scratchpad meet a declared zone other than z? -/
def State.zoneOverlaps (s : State) (c z base n : Nat) : Bool :=
  (List.range 8).any (fun i => i ≠ z && (match s.zone c i with
    | some x => meets x.base (x.slotSize * x.slots.length) base n
    | none => false))

/-- Every KWAIT parked on a zone ends with its counts (R270). -/
def State.endKwaits (s : State) (c z : Nat) : State :=
  match s.zone c z with
  | none => s
  | some x =>
    let v := BitVec.ofNat 64 (x.arrived.toNat + x.failed.toNat * 2 ^ 32)
    s.mapContexts (fun h =>
      match h.wait with
      | some (.zone c' z' _ d) => if c' = c && z' = z then { h with wait := some (.done (some d) v) } else h
      | _ => h)

/-- The slots of a zone keep a KZONE away (R270). -/
def Zone.busy (x : Zone) : Bool :=
  x.slots.any (fun y => y.state = .reserved || y.state = .filling || y.state = .arrived)

/-- KZONE (R270): the limits of gc are checked before gb, whose range depends on them (DEDUCED, log 27). -/
def execKzone (a b : BitVec 5) (c : BitVec 6) (s : State) : Out State Fault Refusal :=
  .next (s.afterQueue true (fun s =>
    let ga := s.hart.gget a.toNat
    let gb := s.hart.gget b.toNat
    let gc := s.hart.gget c.toNat
    let k := coreOf s.cur
    let z := ga.toNat
    let size := fld gc 0 32
    let n := fld gc 32 16
    if 7 < z then s.badOperand ga
    else if ((s.zone k z).map Zone.busy).getD false then s.badOperand ga
    else if gc = 0 then ((s.endKwaits k z).setZone k z none).setDrained.advance
    else if fld gc 48 16 ≠ 0 || size % 64 ≠ 0 || size < 64 || 1048576 < size || n = 0 || 256 < n then s.badOperand gc
    else
      let base := gb.toNat - 0xC00000000000
      if gb.toNat % 64 ≠ 0 || gb.toNat < 0xC00000000000 || 0x200000 < base + size * n
          || s.zoneOverlaps k z base (size * n)
      then s.badOperand gb
      else ((s.endKwaits k z).setZone k z (some (newZone base size n))).setDrained.advance))

/-- KWAIT (R273). -/
def execKwait (d a b : BitVec 5) (s : State) : Out State Fault Refusal :=
  .next (s.afterQueue true (fun s =>
    let ga := s.hart.gget a.toNat
    let gb := s.hart.gget b.toNat
    let c := coreOf s.cur
    if 7 < ga.toNat || (s.zone c ga.toNat).isNone then s.badOperand ga
    else if fld gb 32 32 ≠ 0 then s.badOperand gb
    else s.beginWait (.zone c ga.toNat gb.toNat d)))

/-- KREL (R274): the hart's held stores to the slot are performed first. -/
def execKrel (a b : BitVec 5) (s : State) : Out State Fault Refusal :=
  .next (s.afterQueue true (fun s =>
    let ga := s.hart.gget a.toNat
    let gb := s.hart.gget b.toNat
    let c := coreOf s.cur
    let z := ga.toNat
    if 7 < z then s.badOperand ga
    else
      match s.zone c z with
      | none => s.badOperand gb
      | some x =>
        match x.slots[gb.toNat]? with
        | none => s.badOperand gb
        | some y =>
          match s.performCovering s.cur (spad c (x.base + gb.toNat * x.slotSize)) x.slotSize with
          | (s, false) => s
          | (s, true) =>
            let s := if y.state = .arrived || y.state = .failed then
                s.setSlot c z gb.toNat (fun y => { y with state := .free, gen := y.gen + 1, owner := none })
              else s
            s.setDrained.advance))

/-- The slot word (R275). -/
def Slot.word (y : Slot) : Word := BitVec.ofNat 64 (slotCode y.state + y.len % 2 ^ 24 * 256 + y.gen.toNat * 2 ^ 32)

/-- The zone word (R275). -/
def zoneWord : Option Zone → Word
  | none => 0
  | some x => BitVec.ofNat 64 (1 + (x.slots.length - 1) * 256 + x.slotSize / 64 * 65536)

/-- KSTAT (R275). -/
def execKstat (d a b : BitVec 5) (s : State) : Out State Fault Refusal :=
  .next (s.waitG (fun s =>
    let ga := s.hart.gget a.toNat
    let gb := s.hart.gget b.toNat
    if 7 < ga.toNat then s.badOperand ga
    else
      let x := s.zone (coreOf s.cur) ga.toNat
      if gb.toNat = 0x100 then s.result d (zoneWord x)
      else
        match x.bind (fun x => x.slots[gb.toNat]?) with
        | some y => s.result d y.word
        | none => s.badOperand gb))

/-! ### The kite engine (R271, R272) -/

/-- A target word without reserved bits and with a timeline within its limits (R271). -/
def targetOk (w : Word) : Bool := fld w 48 16 = 0 && fld w 28 4 = 0 && fld w 23 1 = 0 && tlOk (fld w 32 16)

/-- A kite operation of the executing hart, numbered and with its ticket. -/
def State.newKite (s : State) (w : Word) (port : Nat) (word : Option Nat) : KiteOp × State :=
  let t := fld w 32 16
  let (n, s) := s.takeTicket t
  let o : KiteOp :=
    { op := s.nextOp, hart := s.cur, place := s.hart.place, serial := s.mySerial, tl := t, ticket := n, dev := fld w 0 16, port := port,
      core := fld w 16 7, zone := fld w 24 3, word := word }
  (o, { s with nextOp := s.nextOp + 1, kites := s.kites ++ [o] })

/-- How the messages of an operation name their sender. -/
def State.originOf (s : State) (o : KiteOp) : Origin :=
  { dev := s.devnum.toNat, port := o.port, op := o.op, launch := o.serial }

/-- KRSV (R271, R411). -/
def execKrsv (d a b : BitVec 5) (s : State) : Out State Fault Refusal :=
  .next (s.afterQueue true (fun s => s.readThen
    (fun x => do
      let ga := x.s.hart.gget a.toNat
      let gb := x.s.hart.gget b.toNat
      toperand (targetOk ga) ga
      let _ ← tplace x .store gb 8
      pure (ga, gb))
    (fun s (r : Word × Word) => s.release (fun s =>
      let (w, va) := r
      let port := s.pathTo (fld w 0 16)
      let (o, s) := s.newKite w (port.getD portFailed) (some va.toNat)
      let s := s.result d (BitVec.ofNat 64 o.ticket)
      match port with
      | none => s.linkError o
      | some p => s.post p o.dev (.reserve (s.originOf o) o.core o.zone)))))

/-- The messages of a send go out: the header alone where no slot can hold the message (R272). -/
def State.sendMessage (s : State) (o : KiteOp) (port slot gen : Nat) (m : Message) : State :=
  let src := s.originOf o
  let s := (s.post port o.dev (.head src o.core o.zone slot gen m.len)).modHartAt o.hart
    (fun h => { h with moved := h.moved.send (portOf port) m.bytes.length })
  if 1048576 < m.len then s
  else ((dataMessages src o.core o.zone slot m).foldl (fun s x => s.post port o.dev x) s).post port o.dev
    (.last src o.core o.zone slot)

/-- KSEND (R272). -/
def execKsend (d a b : BitVec 5) (c : BitVec 6) (k : BitVec 2) (s : State) : Out State Fault Refusal :=
  .next (s.afterQueue true (fun s =>
    let w := s.hart.gget a.toNat
    if !targetOk w then s.badOperand w
    else
      s.release (fun s =>
        let h := s.hart
        let src := h.gget b.toNat
        let gc := h.gget c.toNat
        let slot := fld gc 32 16
        let gen := fld gc 48 16
        let port := s.pathOfSlot (fld w 0 16) (fld w 16 7) (fld w 24 3) slot gen
        let (o, s) := s.newKite w (port.getD portFailed) none
        let s := s.result d (BitVec.ofNat 64 o.ticket)
        let at' := fun (p : Nat) => (src + BitVec.ofNat 64 p * h.vpstr).toNat
        let (n, block, root) := (fld gc 0 32, 16 <<< blkOf h.vcfg, s.rootOf h)
        let (m, faults) := s.buildMessage s.cur root k.toNat n block (bit w 27) at' (at' 3)
        let s := s.spendSent s.cur root m (sendRanges k.toNat n block (bit w 27) at' (at' 3))
        match lowestFault faults with
        | some (va, code) => (s.spendFaults root faults).endKite o (some (code, BitVec.ofNat 64 va))
        | none =>
          match port with
          | none => s.linkError o
          | some p => s.sendMessage o p slot gen m)))

/-! ### Launches from programs (R276, R277) -/

/-- The source of a record that the executing hart offers (R333, R50, R372, R377). -/
def State.parentSource (s : State) : Source :=
  let l := s.launchOfHart s.hart
  { asid := (l.map (·.asid)).getD 0, root := (l.map (·.root)).getD 0, tvec := s.hart.trapvec
    priomax := (l.map (·.prio)).getD 0, queue := none, parentHearth := some (hearthOf s.cur) }

/-- LAUNCH (R276): a reservation is spent whatever the status. -/
def execLaunch (d a : BitVec 5) (s : State) : Out State Fault Refusal :=
  .next (s.afterQueue true (fun s => s.readThen
    (fun x => do
      let ga := x.s.hart.gget a.toNat
      taligned ga 64
      let bs ← tbytes x ga
      pure (lrecordOf bs))
    (fun s r => s.release (fun s =>
      let had := s.hart.slotRes
      if !had && r.reject.isNone && !s.poolFree then s.result d 1
      else
        let s := s.modHart (fun h => { h with slotRes := false })
        match s.takeRecord r s.parentSource with
        | (s, none) => (if had then s.grantSlot else s).result d 2
        | (s, some n) => s.result d (BitVec.ofNat 64 (n.toNat * 2 ^ 32))))))

/-- WAITSLOT (R277). -/
def execWaitslot (s : State) : Out State Fault Refusal :=
  .next (s.afterQueue true (fun s =>
    if s.hart.slotRes then s.advance
    else if s.poolFree then (s.modHart (fun h => { h with slotRes := true })).setDrained.advance
    else s.park .slot))

/-! ### The iteration ring (R278) -/

/-- POST (R278). -/
def execPost (a b : BitVec 5) (s : State) : Out State Fault Refusal :=
  .next (s.release (fun s => s.beginWait (.post (s.hart.gget a.toNat) (s.hart.gget b.toNat))))

/-- WAIT (R278). -/
def execWait (d a : BitVec 5) (s : State) : Out State Fault Refusal :=
  .next (s.afterQueue true (fun s => s.beginWait (.ring (s.hart.gget a.toNat) d)))

/-! ### Barriers (R279 to R282) -/

/-- The contexts of the gang of a place that wait at its GBAR end with a value (R279). -/
def State.endGbars (s : State) (p : Place) (v : Word) : State :=
  s.mapContexts (fun h =>
    match h.place, h.wait with
    | some q, some (.gbar d) =>
      if q.serial = p.serial && q.gang = p.gang then { h with wait := some (.done (some d) v) } else h
    | _, _ => h)

/-- GBARW (R279). -/
def execGbarw (d : BitVec 5) (s : State) : Out State Fault Refusal :=
  .next (s.release (fun s =>
    match s.hart.place, s.gangOf s.hart with
    | some p, some g =>
      if g.ranks.length ≤ g.arrived.toNat + 1 then
        let phase := g.phase + 1
        let s := s.modGang p.serial p.gang (fun g => { g with phase := phase, arrived := 0 })
        (s.endGbars p (phase.setWidth 64)).result d (phase.setWidth 64)
      else (s.modGang p.serial p.gang (fun g => { g with arrived := g.arrived + 1 })).park (.gbar d)
    | _, _ => s.result d 0))

/-- Every BARWAIT parked on the record at a location ends with a value (R281, R282). -/
def State.endBars (s : State) (loc : Nat) (v : Word) : State :=
  { s.mapContexts (fun h =>
      match h.wait with
      | some (.bar b d) => if b = loc then { h with wait := some (.done (some d) v) } else h
      | _ => h) with bars := s.bars.filter (· ≠ loc) }

/-- Bytes of a barrier record written by BARINIT or BARWAIT: no parked BARWAIT breaks (R282), and they were moved
(R458). -/
def State.writeBar (s : State) (loc : Nat) (bs : List Byte) : State := (s.putMem loc bs).moves s.cur loc bs.length

/-- What follows once the held entries that touch a barrier record have been performed (R355): in supervisor mode the
release leaves them (R316). -/
def State.coverBar (s : State) (loc : Nat) (k : State → State) : State :=
  if !s.hart.sup then k s
  else
    match s.performCovering s.cur loc 16 with
    | (s, true) => k s
    | (s, false) => s

/-- BARINIT (R281). It produces the record, whose reserved field it writes as zero (R6, R280). -/
def execBarinit (a b : BitVec 5) (s : State) : Out State Fault Refusal :=
  .next (s.afterQueue true (fun s => s.readThen
    (fun x => do
      let ga := x.s.hart.gget a.toNat
      let gb := x.s.hart.gget b.toNat
      let loc ← tplace x .store ga 16
      toperand (decide (gb.toNat < 65536)) gb
      pure (loc, gb.toNat))
    (fun s (r : Nat × Nat) => s.release (fun s => s.coverBar r.1 (fun s =>
      let (loc, n) := r
      let s := s.endBars loc (if n = 0 then 3 else 1)
      if n = 0 then ((s.writeBar loc (leBytes 4 0)).writeBar (loc + 12) (leBytes 4 0)).advance
      else ((s.writeBar loc (leBytes 4 n ++ leBytes 4 0)).writeBar (loc + 12) (leBytes 4 0xBA7E)).advance)))))

/-- BARWAIT after its release (R282): one read-modify-write of the record at a location. -/
def State.barwait (s : State) (d : BitVec 5) (va : Word) (loc : Nat) : State :=
  match s.loadBytes va loc 16 with
  | none => s.killMine 1 va
  | some (s, x) =>
    let count := x % 2 ^ 32
    let arrived := x / 2 ^ 32 % 2 ^ 32
    let phase := x / 2 ^ 64 % 2 ^ 32
    if x / 2 ^ 96 % 2 ^ 16 ≠ 0xBA7E || count = 0 then s.result d 3
    else if count ≤ arrived then s.result d 2
    else if arrived + 1 = count then
      let p := (phase + 1) % 2 ^ 32
      let s := s.writeBar (loc + 4) (leBytes 4 0 ++ leBytes 4 p)
      (s.endBars loc (BitVec.ofNat 64 (p * 2 ^ 32))).result d (BitVec.ofNat 64 (p * 2 ^ 32))
    else
      let s := s.writeBar (loc + 4) (leBytes 4 (arrived + 1))
      ({ s with bars := if s.bars.contains loc then s.bars else loc :: s.bars } : State).park (.bar loc d)

/-- BARWAIT (R282). -/
def execBarwait (d a : BitVec 5) (s : State) : Out State Fault Refusal :=
  .next (s.afterQueue true (fun s => s.readThen
    (fun x => do
      let ga := x.s.hart.gget a.toNat
      let loc ← tplace x .store ga 16
      pure (ga, loc))
    (fun s (r : Word × Nat) => s.release (fun s => s.coverBar r.2 (fun s => s.barwait d r.1 r.2)))))

end Sys2Proof.Machine
end

