-- ==== Sys2Proof/Machine/SeqEvents.lean ====
section
/-! DEFINITION. The events of the vector sequencers, the held-effects buffers and the stream fetch (R183, R185, R233,
R236, R348, R383, R384, R47). -/

namespace Sys2Proof.Machine

/-- An event that concerns a part: a fault where the device has no such part. Where what the specification says must hold
for the event does not hold, it does not occur, and the machine stays as it is (log 2). -/
def event (part ok : Bool) (s : State) (f : Unit → State) : Out State Fault Refusal :=
  if !part then .fault .noSuchPart else .next (if ok then f () else s)

/-- Does the device have hart n? -/
def isHart (n : Nat) : Bool := n < Config.harts

/-- Does the device have core n? -/
def isCore (n : Nat) : Bool := n < Config.cores

/-- Does the device have hearth n? -/
def isHearth (n : Nat) : Bool := n < 32

/-! ### Convoys -/

/-- The ready hart that a core picks (R383). -/
def State.picked (s : State) (c : Nat) : Option Nat := s.pickAmong s.convoyReady c

/-- The oldest unstarted convoy begins; what lies behind it starts a convoy of its own (R111 rule 6). -/
def Hart.beginConvoy (h : Hart) : Hart :=
  let rest := h.unstarted
  let c := headConvoy rest
  let seqs := c.map (·.seq)
  let behind := ((rest.drop c.length).head?).map (·.seq)
  { h.pick with
    queue := h.queue.map (fun e =>
      { e with begun := e.begun || seqs.contains e.seq, split := e.split || behind = some e.seq })
    split := h.split || behind.isNone }

/-- CONVOY_START (R383), one for a core in a clock: a hart whose registers hold an uncorrectable error loses its launch
(R430). -/
def execConvoyStart (h : Nat) (s : State) : Out State Fault Refusal :=
  let c := coreOf h
  event (isHart h) (!(s.core c).started && s.picked c = some h) s (fun _ =>
    if (s.hartAt h).regError then s.killForRegisters h
    else (s.modCore c (fun k => { k with started := true })).modHartAt h Hart.beginConvoy)

/-- Is a promotion of a ready hart due, with the core and with the tile unit (R383)? -/
def State.promotionDue (s : State) (h : Nat) : Bool × Bool :=
  let x := s.hartAt h
  (s.convoyReady h && x.promoted.isNone && 64 ≤ x.readyClocks,
   s.convoyReady h && s.wantsTiles h && x.tilePromoted.isNone && 64 ≤ x.tileReady)

/-- ISSUE_PROMOTION (R383). -/
def execIssuePromotion (h : Nat) (s : State) : Out State Fault Refusal :=
  let (core, tile) := s.promotionDue h
  event (isHart h) (core || tile) s (fun _ =>
    let (n, s) := s.takeStamp
    s.modHartAt h (fun x =>
      { x with promoted := if core then some n else x.promoted
               tilePromoted := if tile then some n else x.tilePromoted }))

/-- The oldest convoy of a hart where it has begun and the hart executes. -/
def State.oldestBegun (s : State) (h : Nat) : List QEntry :=
  let x := s.hartAt h
  let c := headConvoy x.queue
  if x.place.isSome && !x.sup && !x.dbg.halted && !x.stepDone && convoyBegun c then c else []

/-- BREAK_RESOLVE (R180, R183): the oldest convoy holds a break, whose exit becomes known. Elements at or above the
bound are annulled from then on, so nothing of theirs is left to discard. -/
def execBreakResolve (h : Nat) (s : State) : Out State Fault Refusal :=
  event (isHart h) (holdsBreak (s.oldestBegun h)) s (fun _ => s.asHart h (fun s => s.runConvoy.1))

/-- COMMIT_FRONT_ADVANCE (R47): the elements of the oldest convoy complete and commit, up to its end or its stop. -/
def execCommitFrontAdvance (h : Nat) (s : State) : Out State Fault Refusal :=
  let c := s.oldestBegun h
  event (isHart h) (!c.isEmpty && !holdsBreak c) s (fun _ => s.asHart h (fun s => s.runConvoy.1))

/-! ### The held-effects buffer -/

/-- May the waiting entry of hart h enter (R185)? There is room for it, or the oldest entry is drainable; a hart that is
halted by the debugger executes nothing (R444). -/
def State.entryEnters (s : State) (h : Nat) : Bool :=
  let x := s.hartAt h
  match x.waiting with
  | [] => false
  | e :: _ => !x.dbg.halted && !x.stepDone && (x.held.length < e.room || x.drainable)

/-- The waiting entry of hart h enters; at the capacity the oldest entries drain early, as far as they are drainable. -/
def State.enterWaiting (s : State) (h : Nat) : State :=
  match (s.hartAt h).waiting with
  | [] => s
  | e :: es =>
    match s.makeRoom false (s.hartAt h).held.length h e.room with
    | (s, true) =>
      if (s.hartAt h).held.length < e.room then
        s.modHartAt h (fun x => { x with held := insertHeld e x.held, waiting := es })
      else s
    | (s, false) => s

/-- HELD_ENTRY_ENTER (R185). -/
def execHeldEntryEnter (h : Nat) (s : State) : Out State Fault Refusal :=
  event (isHart h) (s.entryEnters h) s (fun _ => s.enterWaiting h)

/-! ### Streams -/

/-- The delivery that the first member of the oldest convoy of hart h waits for; none where it consumes nothing, or
where the delivery is a stop. -/
def State.delivery (s : State) (h : Nat) : Option State :=
  match s.oldestBegun h with
  | [] => none
  | q :: _ =>
    let s' : State := { s with cur := h }
    let bs := s'.hart.bindingsRead q
    if q.consumed || bs.isEmpty then none
    else
      let r := deliverAll s' q
      if r.stop.isSome || !r.alive then none else some { r.s with cur := s.cur }

/-- STREAM_DELIVERY (R236). -/
def execStreamDelivery (h : Nat) (s : State) : Out State Fault Refusal :=
  match s.delivery h with
  | some t => event (isHart h) true s (fun _ => t)
  | none => event (isHart h) false s (fun _ => s)

/-- Does the stream of binding b of hart h run, with compressed data or not? -/
def State.streamRuns (s : State) (h b : Nat) (packed : Bool) : Bool :=
  match (s.hartAt h).binds[b]? with
  | none => false
  | some x => x.status = 1 && x.packed = packed

/-- STREAM_BLOCK_DECODE (R348): the next blocks of a compressed stream. -/
def execStreamBlockDecode (h b : Nat) (s : State) : Out State Fault Refusal :=
  event (isHart h) (s.streamRuns h b true) s (fun _ => s.streamStep h b 0)

/-- STREAM_FETCH (R233): up to n further elements of a raw stream. -/
def execStreamFetch (h b n : Nat) (s : State) : Out State Fault Refusal :=
  event (isHart h) (s.streamRuns h b false && n ≠ 0) s (fun _ => s.streamStep h b n)

end Sys2Proof.Machine
end

