-- ==== Sys2Proof/Machine/EngineEvents.lean ====
section
/-! DEFINITION. The events of the copy and kite engines, the links and the Ethernet ports (R264, R269, R271, R272, R408,
R412 to R416). -/

namespace Sys2Proof.Machine

/-- COPY_FINISH (R264): operation k of the copy engine of core c ends. -/
def execCopyFinish (c k : Nat) (s : State) : Out State Fault Refusal :=
  event (isCore c) (k < (s.core c).copies.length) s (fun _ => s.finishCopy c k)

/-! ### Messages -/

/-- Is a path one that another device's messages can come over? -/
def State.linked (s : State) (path : Nat) : Bool := portOf path < 20 && (s.portAt (portOf path)).up

/-- Does a message fit the payload of a flit (R408)? -/
def KMsg.fitsFlit : KMsg → Bool
  | .data _ _ _ _ _ bytes _ => bytes.length ≤ 120
  | _ => true

/-- A message arrives: the oldest one on the internal fabric (R410), or one from another device over a port that is up,
on Ethernet one of the flits of the last frame taken in (R415, R416). -/
def State.arrive (s : State) (dev port : Nat) (m : KMsg) : Out State Fault Refusal :=
  if s.linked port then
    if !m.fitsFlit then .next s
    else if isEthernet port then
      let e := s.ethPath dev port
      if e.flits = 0 then .next s else .next ((s.modEth dev port (fun e => { e with flits := e.flits - 1 })).receive m)
    else .next (s.receive m)
  else if s.fabric.head? = some m then .next ({ s with fabric := s.fabric.drop 1 }.receive m)
  else .next s

/-- The device and port of the path of an operation of this device; the internal fabric where there is none. -/
def State.pathOfOp (s : State) (op : Nat) : Nat × Nat :=
  match s.kites.find? (fun o => o.op = op) with
  | some o => (o.dev, o.port)
  | none => (0, portSelf)

/-- RESERVATION (R271). -/
def execReservation (o : Origin) (core zone : Nat) (s : State) : Out State Fault Refusal :=
  s.arrive o.dev o.port (.reserve o core zone)

/-- REPLY (R271). -/
def execReply (op status slot gen : Nat) (s : State) : Out State Fault Refusal :=
  s.arrive (s.pathOfOp op).1 (s.pathOfOp op).2 (.reply op status slot gen)

/-- MESSAGE_HEAD (R269, R272). -/
def execMessageHead (o : Origin) (core zone slot gen len : Nat) (s : State) : Out State Fault Refusal :=
  s.arrive o.dev o.port (.head o core zone slot gen len)

/-- MESSAGE_DATA (R272, R426). -/
def execMessageData (o : Origin) (core zone slot off : Nat) (bytes : List (BitVec 8)) (bad : Bool) (s : State) :
    Out State Fault Refusal :=
  s.arrive o.dev o.port (.data o core zone slot off bytes bad)

/-- MESSAGE_LAST (R269). -/
def execMessageLast (o : Origin) (core zone slot : Nat) (s : State) : Out State Fault Refusal :=
  s.arrive o.dev o.port (.last o core zone slot)

/-- COMPLETION (R272). -/
def execCompletion (op : Nat) (s : State) : Out State Fault Refusal :=
  s.arrive (s.pathOfOp op).1 (s.pathOfOp op).2 (.completion op)

/-- KITE_REJECTION (R272). -/
def execKiteRejection (op : Nat) (long : Bool) (s : State) : Out State Fault Refusal :=
  s.arrive (s.pathOfOp op).1 (s.pathOfOp op).2 (.rejection op long)

/-! ### Paths and links -/

/-- The path to a device over a port. -/
def onPath (dev port : Nat) (d p : Nat) : Bool := d = dev && p = port

/-- Does a path carry an operation of this device, or hold a slot here? -/
def State.pathBusy (s : State) (dev port : Nat) : Bool :=
  s.kites.any (fun o => onPath dev port o.dev o.port)
    || !(s.slotsWhere (fun x => (x.state = .reserved || x.state = .filling) &&
        (match x.owner with
         | some o => onPath dev port o.dev o.port
         | none => false))).isEmpty

/-- A path fails, and its frames with it (R413, R416). -/
def State.dropPath (s : State) (dev port : Nat) : State :=
  { s with eth := s.eth.filter (fun e => e.1 ≠ pathKey dev port) }.failPath (onPath dev port)

/-- PATH_DOWN (R413): a path-down flit has arrived. -/
def execPathDown (dev port : Nat) (s : State) : Out State Fault Refusal :=
  event (portOf port < 20) (s.portAt (portOf port)).up s (fun _ => s.dropPath dev port)

/-- How long a path may be silent after the last flit sent on it, in nanoseconds (R413). -/
def pathLimit (port : Nat) : Nat := if isEthernet port then 2000000 else 200000

/-- Has a path been silent too long (R413): an operation of this device waits on it, and the last flit was sent so long
ago, or the device of a sender that holds a slot here says so? -/
def State.pathSilent (s : State) (dev port : Nat) : Bool :=
  let last := ((s.lastSent.find? (fun e => e.1 = pathKey dev port)).map (·.2)).getD 0
  s.pathBusy dev port
    && (!s.kites.any (fun o => onPath dev port o.dev o.port) || pathLimit port ≤ (s.tsc - last).toNat)

/-- PATH_TIMEOUT (R413). -/
def execPathTimeout (dev port : Nat) (s : State) : Out State Fault Refusal :=
  event (portOf port < 20) (s.pathSilent dev port) s (fun _ => s.dropPath dev port)

/-- The PORT trace record (R450). -/
def State.emitPort (s : State) (port up : Nat) : State := s.emit (0x301 + port) 9 (leBytes 1 up)

/-- A link is declared down (R412, R413, R421): every path over it fails. -/
def State.downLink (s : State) (port : Nat) : State :=
  let s := s.modPort port (fun p => { p with up := false, downs := p.downs + 1, replays := 0 })
  let s := s.failPath (fun _ p => portOf p = port)
  let s := { s with eth := s.eth.filter (fun e => portOf (e.1 / 65536) ≠ port)
                    svcreq := if 16 < (s.portAt port).downs then s.svcreq ||| 8 else s.svcreq }
  s.emitPort port 0

/-- FLIT_REPLAY (R408, R412): a replay changes only timing, but eight in a row that fail take the link down. -/
def execFlitReplay (x : Replay) (s : State) : Out State Fault Refusal :=
  event (x.port < 18) (s.portAt x.port).up s (fun _ =>
    let n := if x.ok then 0 else (s.portAt x.port).replays + 1
    if 8 ≤ n then s.downLink x.port else s.modPort x.port (fun p => { p with replays := n }))

/-- LINK_DOWN (R412): lane lock is lost. -/
def execLinkDown (port : Nat) (s : State) : Out State Fault Refusal :=
  event (port < 20) (s.portAt port).up s (fun _ => s.downLink port)

/-- LINK_UP (R412): paths that failed earlier stay failed. -/
def execLinkUp (port : Nat) (s : State) : Out State Fault Refusal :=
  event (port < 20) (!(s.portAt port).up) s (fun _ =>
    (s.modPort port (fun p => { p with up := true })).emitPort port 1)

/-! ### Ethernet -/

/-- A frame of a path that has not been acknowledged for 100 µs (R416). -/
def State.overdue (s : State) (dev port n : Nat) : Option Unacked :=
  (s.ethPath dev port).unacked.find? (fun u => u.frame.number = n && 100000 ≤ (s.tsc - u.since).toNat)

/-- A frame of a path goes out once more. -/
def State.resend (s : State) (dev path : Nat) (u : Unacked) : State :=
  (s.modEth dev path (fun e => { e with unacked := e.unacked.map (fun x =>
    if x.frame.number = u.frame.number then { x with since := s.tsc, resent := x.resent + 1 } else x) })).sendOut dev path
      (.frame (portOf path) dev u.frame)

/-- FRAME_RETRANSMIT (R416): after 16 retransmissions of one frame its path fails. -/
def execFrameRetransmit (dev : Nat) (f : FrameName) (s : State) : Out State Fault Refusal :=
  match s.overdue dev f.port f.number with
  | none => event (isEthernet f.port) false s (fun _ => s)
  | some u => event (isEthernet f.port) true s (fun _ =>
    let s := s.resend dev f.port u
    if 16 ≤ u.resent + 1 then s.dropPath dev f.port else s)

/-- A kite frame is taken in (R415, R416): it acknowledges frames of its path, and where it is the next in order, and
the flits of the last have arrived, its own may arrive. Any other has been taken in already, or comes again. A frame
with a number is acknowledged. -/
def State.takeFrame (s : State) (dev path n flits ack : Nat) : State :=
  let s := s.modEth dev path (fun e =>
    let e := { e with unacked := e.unacked.filter (fun u => ack < u.frame.number) }
    if n = e.taken + 1 && e.flits = 0 then { e with taken := n, flits := flits } else e)
  if n = 0 then s else s.postAck path dev

/-- ETHERNET_FRAME (R415): PAUSE and priority flow control change nothing here, and every frame that is neither these nor
a kite frame, of 1 to 64 flits, is dropped and counted. -/
def execEthernetFrame (port : Nat) (f : Frame) (s : State) : Out State Fault Refusal :=
  event (port = 18 || port = 19) (s.portAt port).up s (fun _ =>
    match f with
    | .typed src ty dev n flits ack =>
      if ty.toNat = fld s.ketype 0 16 && 1 ≤ flits && flits ≤ 64 then s.takeFrame dev (port + 32 * src.toNat) n flits ack
      else s.modPort port (fun p => { p with dropped := p.dropped + 1 })
    | .pause => s
    | .pfc => s)

end Sys2Proof.Machine
end

