-- ==== Sys2Proof/Machine/Sched.lean ====
section
/-! DEFINITION. The dispatch unit: candidates and their order (R376), fitting (R377, R255, R329), placement (R49, R377,
R387), blocking (R378), pre-emption (R388 to R390), swap-out (R391) and resumption (R392). -/

namespace Sys2Proof.Machine

/-! ### Candidates -/

/-- A candidate: the next gang of a launch, or a resumable gang of it. -/
structure Cand where
  serial : BitVec 32
  gang : Option Nat
  prio : Nat
  gsize : Nat
  /-- the hearths that rules 1 and 2 of R377 name, in that order -/
  wish : List Nat
  since : Option Word
  deriving DecidableEq, Repr

/-- A gang of a launch as a candidate (R376). -/
def Launch.gangCand (l : Launch) (g : Gang) : Option Cand :=
  if g.state = .resumable then
    some { serial := l.serial, gang := some g.index, prio := l.prio, gsize := l.gsize,
           wish := l.parentHearth.toList ++ [g.hearth], since := g.passedSince }
  else none

/-- A launch with gangs still to be placed as a candidate (R376). -/
def Launch.cand (l : Launch) : Option Cand :=
  if (l.state = .eligible || l.state = .dispatching) && l.nextGang < l.gcount then
    some { serial := l.serial, gang := none, prio := l.prio, gsize := l.gsize, wish := l.parentHearth.toList,
           since := l.passedSince }
  else none

/-- The candidates in the order of R376; launches are kept in the order of their acceptance. -/
def State.candidates (s : State) : List Cand :=
  (List.range 8).flatMap (fun i =>
    let ls := s.launches.filter (fun l => l.prio = 7 - i)
    ls.flatMap (fun l => l.gangs.filterMap l.gangCand) ++ ls.filterMap Launch.cand)

/-! ### Fitting -/

/-- Is a hart free (R377, R440)? -/
def State.hartFree (s : State) (h : Nat) : Bool := (s.hartAt h).place.isNone && !(s.core (coreOf h)).retired

/-- The free harts of a hearth in rising HARTID. -/
def State.freeHarts (s : State) (k : Nat) : List Nat := ((List.range 16).map (16 * k + ·)).filter s.hartFree

/-- The ranks of the gang of a candidate; none for a gang not yet placed. -/
def State.ranksOf (s : State) (c : Cand) : List Rank :=
  match c.gang with
  | none => []
  | some i =>
    (((s.launchOf c.serial).bind (fun l => l.gangs.find? (fun g => g.index = i))).map (·.ranks)).getD []

/-- Tiles that a context holds or keeps (R21, R242). -/
def Hart.tileCount (h : Hart) : Nat := h.tiles.length + h.keptTiles

/-- Does a saved context fit the hart it would take: no captured VL beyond its lanes (R329)? -/
def Hart.fitsLanes (h : Hart) (retired : BitVec 32) : Bool :=
  let x := { h with retiredLanes := retired }
  h.queue.all (fun q => vlOf q.cap.vcfg ≤ x.vlmax (ewOf q.cap.vcfg))

/-- The contexts that the ranks would bring to these harts. -/
def bringsTo (ranks : List Rank) (hs : List Nat) : List (Nat × Hart) :=
  (ranks.zip hs).filterMap (fun (r, h) =>
    match r with
    | .saved c => some (h, c)
    | _ => none)

/-- Can these harts take the ranks: tiles on each core (R255), and lanes (R329)? -/
def State.takes (s : State) (ranks : List Rank) (hs : List Nat) : Bool :=
  let bs := bringsTo ranks hs
  bs.all (fun (h, c) =>
    c.fitsLanes (s.core (coreOf h)).retiredLanes
      && ((bs.filter (fun e => coreOf e.1 = coreOf h)).map (fun e => e.2.tileCount)).sum ≤ s.freeTiles (coreOf h))

/-- Does a candidate fit on a hearth, given its free harts (R377)? -/
def State.fitsWith (s : State) (c : Cand) (free : List Nat) : Bool :=
  c.gsize ≤ free.length && s.takes (s.ranksOf c) (free.take c.gsize)

/-- Does a candidate fit on a hearth? -/
def State.fitsOn (s : State) (c : Cand) (k : Nat) : Bool := s.fitsWith c (s.freeHarts k)

/-- The hearth with the most free harts, the lowest-numbered on a tie (R378). -/
def State.emptiest (s : State) : Nat :=
  (List.range 32).foldl (fun b k => if (s.freeHarts b).length < (s.freeHarts k).length then k else b) 0

/-- The candidate that blocks (R378). -/
def State.blocker (s : State) : Option Cand :=
  match s.blocking with
  | none => none
  | some b => s.candidates.find? (fun c => c.serial = b.1 && c.gang = b.2)

/-- Does the block of R378 keep a candidate from a hearth? -/
def State.barred (s : State) (c : Cand) (k : Nat) : Bool :=
  match s.blocker with
  | none => false
  | some b => !(b.serial = c.serial && b.gang = c.gang) && c.prio ≤ b.prio && k = s.emptiest

/-- The hearth on which a candidate is placed (R377); none where it fits on none. -/
def State.hearthFor (s : State) (c : Cand) : Option Nat :=
  let ok := fun k => s.fitsOn c k && !s.barred c k
  (c.wish.filter (· < 32) ++ List.range 32).find? ok

/-- The first candidate that fits, with its hearth (R376). -/
def State.firstFit (s : State) : Option (Cand × Nat) :=
  s.candidates.findSome? (fun c => (s.hearthFor c).map (fun k => (c, k)))

/-! ### Placement -/

/-- The state of a hart at the start of a launch (R49, R50): the registers that R23 shows with a dash, LANEMAP among
them, the debug block and the soft errors to come stay. VEXIT has its Reset value, RESOLVED 0, which a program-mode read
before the first SETVL shows (DEDUCED, log 91). -/
def Hart.launchStart (h : Hart) (l : Launch) (p : Place) (tsc : Word) : Hart :=
  { Hart.reset with
    g := Hart.reset.g.setIfInBounds 1 l.param, pc := l.entry, mirror := l.mirror, psup := h.psup,
    trapcause := h.trapcause, trappc := h.trappc, trapmem := h.trapmem, trapelem := h.trapelem, trapval := h.trapval,
    trapspc := h.trapspc, sscratch := h.sscratch, trapvec := l.tvec, retiredLanes := h.retiredLanes, place := some p,
    placedTsc := tsc, dbg := h.dbg, regError := h.regError, mirrorError := h.mirrorError }

/-- The state of a hart that takes up a saved context again (R390, R392): the lanes are those of its core now (R439), and
the scalar unit goes on at RESUME of its image (R326). -/
def Hart.takeUp (h c : Hart) (retired : BitVec 32) (p : Place) (tsc : Word) : Hart :=
  { (c.clip retired c.miract) with
    pc := resumeOf c.image, image := []
    place := some p, placedTsc := tsc, dbg := h.dbg, regError := h.regError, mirrorError := h.mirrorError }

/-- Hart h asks for its first lane group ahead of every other (R387). -/
def State.askFirst (s : State) (h : Nat) : State :=
  let (t, s) := s.takeStamp
  (s.modHartAt h (fun x => { x with laneShort := 1, laneSince := some t })).shareFree (coreOf h)

/-- The next gang of a launch starts on these harts of a hearth (R49, R377, R379). -/
def State.startGang (s : State) (l : Launch) (k : Nat) (hs : List Nat) : State :=
  let i := l.nextGang
  let s := (hs.zipIdx).foldl (fun s (h, r) =>
    (s.modHartAt h (fun x => x.launchStart l { serial := l.serial, gang := i, rank := r } s.tsc)).askFirst h) s
  let g : Gang :=
    { index := i, hearth := k, ranks := hs.map Rank.on, state := .running, phase := 0, arrived := 0, ggrant := 0,
      ring := [], swapped := false, passedSince := none }
  let last := i + 1 = l.gcount
  let s := s.modLaunch l.serial (fun l =>
    { l with state := if last then .running else .dispatching, inPool := l.inPool && !last
             tstart := if i = 0 then s.tsc else l.tstart, gangs := l.gangs ++ [g], nextGang := i + 1
             passedSince := none })
  let s := s.emit 0x300 1 (leBytes 4 l.serial.toNat ++ leBytes 4 i ++ leBytes 1 k ++ leBytes 1 l.prio)
  if last && l.inPool then s.grantSlot else s

/-- A resumable gang takes up its saved contexts on these harts of a hearth; a halted rank takes none (R377, R392). -/
def State.resumeGang (s : State) (l : Launch) (g : Gang) (k : Nat) (hs : List Nat) : State :=
  let s := ((g.ranks.zip hs).zipIdx).foldl (fun s ((r, h), n) =>
    match r with
    | .saved c =>
      ((s.modHartAt h (fun x =>
        x.takeUp c (s.core (coreOf h)).retiredLanes { serial := l.serial, gang := g.index, rank := n } s.tsc)).movedImage h
          c.image.length).askFirst h
    | _ => s) s
  s.modGang l.serial g.index (fun g =>
    { g with hearth := k, state := .running, swapped := false, passedSince := none
             ranks := (g.ranks.zip hs).map (fun (r, h) =>
               match r with
               | .saved _ => .on h
               | r => r) })

/-- A candidate is placed on a hearth (R377); a block that was its own ends (R378). -/
def State.placeCand (s : State) (c : Cand) (k : Nat) : State :=
  let hs := (s.freeHarts k).take c.gsize
  let s := s.modHearth k (fun x => { x with gating := none, idleSince := none })
  let s := if s.blocking = some (c.serial, c.gang) then { s with blocking := none } else s
  match s.launchOf c.serial with
  | none => s
  | some l =>
    match c.gang with
    | none => s.startGang l k hs
    | some i =>
      match l.gangs.find? (fun g => g.index = i) with
      | none => s
      | some g => s.resumeGang l g k hs

/-- The placement that the dispatch unit makes next: none while a junction is too hot (R461), and none on a hearth that
is still power-gated (R464). -/
def State.nextPlacement (s : State) : Option (Cand × Nat) :=
  if s.noDispatch then none
  else
    match s.firstFit with
    | some (c, k) => if (s.hearth k).gated then none else some (c, k)
    | none => none

/-- GANG_DISPATCH (R377). -/
def execGangDispatch (s : State) : Out State Fault Refusal :=
  match s.nextPlacement with
  | some (c, k) => .next (s.placeCand c k)
  | none => .next s

/-! ### Passing over -/

/-- When a candidate was first passed over, at a timestamp at which it fits or does not. -/
def State.sinceNow (s : State) (c : Cand) : Option Word :=
  if (s.hearthFor c).isSome then none else some (c.since.getD s.tsc)

/-- The dispatch unit looks at the candidates (R376): those that do not fit are passed over. -/
def State.passOver (s : State) : State :=
  let cs := s.candidates
  if cs.isEmpty then s
  else
    let now := cs.map (fun c => (c, s.sinceNow c))
    let of' := fun (n : BitVec 32) (g : Option Nat) (old : Option Word) =>
      match now.find? (fun e => e.1.serial = n && e.1.gang = g) with
      | some e => e.2
      | none => old
    { s with launches := s.launches.map (fun l =>
        { l with passedSince := of' l.serial none l.passedSince
                 gangs := l.gangs.map (fun g => { g with passedSince := of' l.serial (some g.index) g.passedSince }) }) }

/-- Has a candidate been passed over for n nanoseconds? -/
def State.passedFor (s : State) (c : Cand) (n : Nat) : Bool :=
  match c.since with
  | some t => n ≤ (s.tsc - t).toNat
  | none => false

/-- CANDIDATE_BLOCKING (R378): the first candidate passed over for 10 µs blocks. -/
def execCandidateBlocking (s : State) : Out State Fault Refusal :=
  match s.candidates.find? (fun c => s.passedFor c 10000) with
  | none => .next s
  | some c =>
    if s.blocker.isSome then .next s else .next { s with blocking := some (c.serial, c.gang) }

/-! ### Making room -/

/-- A gang that could leave its harts: its launch, its index, and the harts it is on. -/
structure Leaver where
  serial : BitVec 32
  gang : Nat
  prio : Nat
  harts : List Nat
  deriving DecidableEq, Repr

/-- The harts that a gang is on. -/
def Gang.harts (g : Gang) : List Nat :=
  g.ranks.filterMap (fun r =>
    match r with
    | .on h => some h
    | _ => none)

/-- The running gangs on a hearth, the oldest launch first. -/
def State.gangsOn (s : State) (k : Nat) : List Leaver :=
  s.launches.flatMap (fun l => l.gangs.filterMap (fun g =>
    if g.state = .running && g.hearth = k && !g.harts.isEmpty && l.state ≠ .complete then
      some { serial := l.serial, gang := g.index, prio := l.prio, harts := g.harts }
    else none))

/-- May a gang be stopped: no hart of it is halted by the debugger (R444)? -/
def State.maySave (s : State) (v : Leaver) : Bool := v.harts.all (fun h => !(s.hartAt h).dbg.halted)

/-- Does a candidate fit on a hearth once some gangs have left it (R377)? Their harts and tiles count as free, but for
`spare` harts that others will take. -/
def State.fitsWithout (s : State) (c : Cand) (k spare : Nat) (vs : List Leaver) : Bool :=
  let gone := vs.flatMap (·.harts)
  let s' := { s with harts := gone.foldl (fun hs h =>
    hs.setIfInBounds h { s.hartAt h with place := none, tiles := [], keptTiles := 0 }) s.harts }
  s'.fitsWith c ((s'.freeHarts k).drop spare)

/-- The gangs that leave a hearth, taken in an order until the candidate fits; none where it never does. -/
def State.leaversFor (s : State) (c : Cand) (k spare : Nat) : List Leaver → List Leaver → Option (List Leaver)
  | took, [] => if s.fitsWithout c k spare took then some took else none
  | took, v :: vs => if s.fitsWithout c k spare took then some took else s.leaversFor c k spare (took ++ [v]) vs

/-- An element put before the first that is greater under a key. -/
def insertBy {α : Type} (key : α → Nat) (x : α) : List α → List α
  | [] => [x]
  | y :: ys => if key x < key y then x :: y :: ys else y :: insertBy key x ys

/-- Sorting by a key, in rising order and keeping the order of equals. -/
def sortBy {α : Type} (key : α → Nat) (xs : List α) : List α := xs.foldl (fun acc x => insertBy key x acc) []

/-- Save areas that a gang uses or has asked for. -/
def Gang.areas (g : Gang) : Nat :=
  g.ranks.countP (fun r =>
    match r with
    | .saved _ => true
    | .on _ => g.state = .stopping
    | .halted => false)

/-- Save areas in use or asked for (R390). -/
def State.areasUsed (s : State) : Nat := (s.launches.flatMap (fun (l : Launch) => l.gangs.map Gang.areas)).sum

/-- Are save areas free for the harts of these gangs (R390)? -/
def State.areasFree (s : State) (vs : List Leaver) : Bool :=
  s.areasUsed + (vs.map (fun v => v.harts.length)).sum ≤ Config.saveAreas

/-- The gangs on a hearth that are STOPPING. -/
def State.stoppingOn (s : State) (k : Nat) : List Leaver :=
  s.launches.flatMap (fun l => l.gangs.filterMap (fun g =>
    if g.state = .stopping && g.hearth = k && !g.harts.isEmpty then
      some { serial := l.serial, gang := g.index, prio := l.prio, harts := g.harts }
    else none))

/-- The victims of a pre-emption for a candidate on a hearth (R388), beyond those that are leaving it already: rising
priority, the youngest launch first. -/
def State.victimsOn (s : State) (c : Cand) (k spare : Nat) : Option (List Leaver) :=
  let vs := (s.gangsOn k).filter (fun v => v.prio < c.prio && s.maySave v)
  let leaving := s.stoppingOn k
  (s.leaversFor c k spare leaving (sortBy (·.prio) vs.reverse)).map (·.drop leaving.length)

/-- The better of two hearths for a pre-emption (R388): the least highest priority, then the fewest harts; the first of
equals stays. -/
def betterVictims (a b : List Leaver) : Bool :=
  let top := fun (vs : List Leaver) => (vs.map (·.prio)).foldl max 0
  let n := fun (vs : List Leaver) => (vs.map (fun v => v.harts.length)).sum
  top b < top a || (top b = top a && n b < n a)

/-- Harts of a hearth that earlier candidates will take. -/
def claimedOn (claimed : List (Nat × Nat)) (k : Nat) : Nat := ((claimed.filter (·.1 = k)).map (·.2)).sum

/-- The gangs that are removed for a candidate (R388), beside the harts that candidates before it have claimed. -/
def State.victims (s : State) (c : Cand) (claimed : List (Nat × Nat)) : Option (List Leaver) :=
  (List.range 32).foldl (fun best k =>
    match s.victimsOn c k (claimedOn claimed k) with
    | none => best
    | some vs =>
      match best with
      | none => some vs
      | some b => if betterVictims b vs then some vs else best) none

/-- Each hart of a gang is asked to stop (R389): a parked hart in program mode stops at once. -/
def State.stopGang (s : State) (v : Leaver) (swapped : Bool) : State :=
  let s := s.modGang v.serial v.gang (fun g => { g with state := .stopping, swapped := swapped })
  v.harts.foldl (fun s h =>
    if (s.hartAt h).wait.isSome && !(s.hartAt h).sup then s.saveHart h 2
    else s.modHartAt h (fun x => { x with stopping := some s.tsc })) s

/-- The hearth on which a candidate will fit once the gangs that are STOPPING there have left, beside what candidates
before it have claimed. -/
def State.roomComing (s : State) (c : Cand) (claimed : List (Nat × Nat)) : Option Nat :=
  (List.range 32).find? (fun k =>
    !(s.stoppingOn k).isEmpty && s.fitsWithout c k (claimedOn claimed k) (s.stoppingOn k))

/-- The pre-emption for the first of some candidates for which gangs of lower priority can make room (R388). A candidate
for which room is coming waits for it; the harts that it will take are not there for a later one. -/
def State.preemptFor (s : State) : List Cand → List (Nat × Nat) → Option (List Leaver)
  | [], _ => none
  | c :: cs, claimed =>
    match s.roomComing c claimed with
    | some k => s.preemptFor cs ((k, c.gsize) :: claimed)
    | none =>
      match s.victims c claimed with
      | some vs => if !vs.isEmpty && s.areasFree vs then some vs else s.preemptFor cs claimed
      | none => s.preemptFor cs claimed

/-- The pre-emption that the device makes among its passed-over candidates. -/
def State.nextPreemption (s : State) : Option (List Leaver) :=
  s.preemptFor (s.candidates.filter (·.since.isSome)) []

/-- PREEMPTION (R388, R389). -/
def execPreemption (s : State) : Out State Fault Refusal :=
  match s.nextPreemption with
  | some vs => .next (vs.foldl (fun s v => s.stopGang v false) s)
  | none => .next s

/-- PREEMPT_COMMIT_FRONT (R389, R318): no strip boundary within 20 µs. -/
def execPreemptCommitFront (h : Nat) (s : State) : Out State Fault Refusal :=
  let x := s.hartAt h
  event (isHart h)
    (match x.stopping with
     | some t => 20000 ≤ (s.tsc - t).toNat && !x.sup && !x.dbg.halted
     | none => false)
    s (fun _ => s.saveHart h 2)

/-! ### Swap-out -/

/-- Is a gang wholly parked for 2 µs (R391)? Harts in supervisor mode are not stopped there (R318). -/
def State.whollyParked (s : State) (v : Leaver) : Bool :=
  v.harts.all (fun h =>
    let x := s.hartAt h
    match x.wait with
    | none => false
    | some w => !s.waitOver x w && 2000 ≤ (s.tsc - x.parkedTsc).toNat && !x.sup && !x.dbg.halted)

/-- When a gang became wholly parked, by the order stamps: as the last of its harts parked, or halted. -/
def State.parkedSince (s : State) (v : Leaver) : Nat :=
  let halted := ((s.launchOf v.serial).bind (fun l => l.gangs.find? (fun g => g.index = v.gang))).map (·.haltedAt)
  (v.harts.map (fun h => (s.hartAt h).parkedAt)).foldl max (halted.getD 0)

/-- The gangs that leave a hearth by swap-out for a candidate (R391): the earliest parked first. -/
def State.swapsOn (s : State) (c : Cand) (k : Nat) : Option (List Leaver) :=
  s.leaversFor c k 0 [] (sortBy s.parkedSince ((s.gangsOn k).filter s.whollyParked))

/-- The swap-out that the device makes for a candidate: the hearth on which the fewest harts are freed. -/
def State.swaps (s : State) (c : Cand) : Option (List Leaver) :=
  let n := fun (vs : List Leaver) => (vs.map (fun v => v.harts.length)).sum
  (List.range 32).foldl (fun best k =>
    match s.swapsOn c k with
    | none => best
    | some vs =>
      match best with
      | none => some vs
      | some b => if n vs < n b then some vs else best) none

/-- The swap-out that the device makes: for the first passed-over candidate that it lets fit (R391). -/
def State.nextSwap (s : State) : Option (List Leaver) :=
  (s.candidates.filter (·.since.isSome)).findSome? (fun c =>
    match s.swaps c with
    | some vs => if !vs.isEmpty && s.areasFree vs then some vs else none
    | none => none)

/-- SWAP_OUT (R391). -/
def execSwapOut (s : State) : Out State Fault Refusal :=
  match s.nextSwap with
  | some vs => .next (vs.foldl (fun s v => s.stopGang v true) s)
  | none => .next s

/-- Is the wait of a saved rank over? -/
def State.rankReady (s : State) : Rank → Bool
  | .saved c =>
    (match c.wait with
     | some w => s.waitOver c w
     | none => false)
  | _ => false

/-- May a saved gang become resumable (R392)? -/
def State.gangWakes (s : State) (serial : BitVec 32) (gang : Nat) : Bool :=
  match (s.launchOf serial).bind (fun l => l.gangs.find? (fun g => g.index = gang)) with
  | none => false
  | some g => g.state = .saved && g.ranks.any s.rankReady

/-- GANG_RESUMABLE (R392). -/
def execGangResumable (serial : BitVec 32) (gang : Nat) (s : State) : Out State Fault Refusal :=
  event true (s.gangWakes serial gang) s (fun _ => s.modGang serial gang (fun g => { g with state := .resumable }))

/-! ### The first lane group -/

/-- A placed hart of a core that has waited 20 µs for its first group (R387). -/
def State.starved (s : State) (c : Nat) : Option Nat :=
  ((List.range 4).map (4 * c + ·)).find? (fun h =>
    let x := s.hartAt h
    x.place.isSome && s.lgrant h = 0 && 20000 ≤ (s.tsc - x.placedTsc).toNat)

/-- The hart of a core that holds the most groups, the lowest HARTID on a tie; one that the debugger has halted keeps its
groups (R444). -/
def State.mostGroups (s : State) (c : Nat) : Nat :=
  let n := fun h => if (s.hartAt h).dbg.halted then 0 else s.lgrant h
  (hartsOf c).foldl (fun b h => if n b < n h then h else b) (4 * c)

/-- The group of core c that a starved hart takes (R387): one of the hart that holds the most, which stops for it, not in
supervisor mode (R318); where none holds two, one that is earmarked for another requester (log 88). -/
def State.groupFor (s : State) (c : Nat) : Option Nat :=
  let gs := (s.core c).groups
  let held := fun (g : Group) => (List.range 4).filter (fun i => (gs[i]?).getD .free = g)
  let most := s.mostGroups c
  if (s.starved c).isNone then none
  else if 2 ≤ s.lgrant most && !(s.hartAt most).dbg.halted then
    if (s.hartAt most).sup then none else (held (.holds most)).getLast?
  else ((hartsOf c).flatMap (fun h => held (.earmarked h))).getLast?

/-- Group i of core c goes to the hart that is starved of its first; a requester for which it was earmarked asks again. -/
def State.giveGroup (s : State) (c i : Nat) : State :=
  match ((s.core c).groups[i]?).getD .free with
  | .earmarked h =>
    let (t, s) := s.takeStamp
    let s := s.freeGroup c i
    s.modHartAt h (fun x => { x with laneShort := x.laneShort + 1, laneSince := some (x.laneSince.getD t) })
  | _ => s.freeGroup c i

/-- LANE_GROUP_TIMEOUT (R387). -/
def execLaneGroupTimeout (c : Nat) (s : State) : Out State Fault Refusal :=
  match s.groupFor c with
  | none => event (isCore c) false s (fun _ => s)
  | some i => event (isCore c) true s (fun _ => s.giveGroup c i)

end Sys2Proof.Machine
end

