-- ==== Sys2Proof/Machine/LaunchEvents.lean ====
section
/-! DEFINITION. The host's launch queues (R373, R374), eligibility (R375), the end of a launch (R382, R459) and the
host's kill (R420). -/

namespace Sys2Proof.Machine

/-! ### Queues -/

/-- A launch queue. -/
def State.queueAt (s : State) (q : Nat) : LQueue := (s.queues[q]?).getD .reset

/-- The machine with a launch queue changed. -/
def State.modQueue (s : State) (q : Nat) (f : LQueue → LQueue) : State :=
  { s with queues := s.queues.setIfInBounds q (f (s.queueAt q)) }

/-- Is a queue enabled? -/
def LQueue.enabled (x : LQueue) : Bool := bit x.qenable 0

/-- Records written and not yet taken in: TAIL − HEAD (R373). -/
def LQueue.pending (x : LQueue) : Nat := (x.tail - x.head).toNat

/-- A queue becomes ERROR, with vector 65 (R374, R421). -/
def State.queueError (s : State) (q : Nat) : State := (s.modQueue q (fun x => { x with error := true })).raiseMsix 65

/-- The host writes TAIL (R374). -/
def State.writeTail (s : State) (q : Nat) (v : Word) : State :=
  let s := s.modQueue q (fun x => { x with tail := v.setWidth 32 })
  let x := s.queueAt q
  if x.enabled && !x.error && x.qsize.toNat < x.pending then s.queueError q else s

/-- Is a number a power of two from 1 to 65,536? -/
def ringSizeOk (n : Nat) : Bool := (List.range 17).any (fun i => n = 2 ^ i)

/-- The checks of a write of 1 to QENABLE (R374). -/
def LQueue.ringOk (x : LQueue) : Bool :=
  x.qbase.toNat % 64 = 0 && ringSizeOk x.qsize.toNat && x.qbase.toNat + 64 * x.qsize.toNat ≤ Config.fwBase
    && x.pending ≤ x.qsize.toNat

/-- The host writes QENABLE (R374): no queue is enabled while the device offers CXL.io only (R417). -/
def State.writeQenable (s : State) (q : Nat) (v : Word) : State :=
  if !bit v 0 then s.modQueue q (fun x => { x with qenable := 0, error := false })
  else if !(s.cxlmem && s.cxlcache) then s
  else
    let s := s.modQueue q (fun x => { x with qenable := 1, error := false })
    if (s.queueAt q).ringOk then s else s.queueError q

/-- TAIL_WRITE (R374). -/
def execTailWrite (q : Nat) (v : BitVec 64) (s : State) : Out State Fault Refusal :=
  event (q < 64) true s (fun _ => s.writeTail q v)

/-- QENABLE_WRITE (R374). -/
def execQenableWrite (q : Nat) (v : BitVec 64) (s : State) : Out State Fault Refusal :=
  event (q < 64) true s (fun _ => s.writeQenable q v)

/-! ### Intake -/

/-- Has a queue a record to take in? -/
def LQueue.hasRecord (x : LQueue) : Bool := x.enabled && !x.error && x.pending ≠ 0

/-- The queue from which the next record comes (R374). -/
def State.nextQueue (s : State) : Option Nat :=
  ((List.range 64).map (fun i => (s.servedLast + 1 + i) % 64)).find? (fun q => (s.queueAt q).hasRecord)

/-- Where the next record of a queue lies (R373). -/
def LQueue.recordAt (x : LQueue) : Nat := x.qbase.toNat + 64 * (x.head.toNat % x.qsize.toNat)

/-- The next record of a queue, read once (R369, R373). -/
def State.recordOf (s : State) (q : Nat) : LRecord := lrecordOf (s.readMem (s.queueAt q).recordAt 64)

/-- The source that a queue gives its records (R333, R50, R372). -/
def LQueue.source (x : LQueue) (q : Nat) : Source :=
  { asid := fld x.qasid 0 6, root := fld x.qroot 12 40 <<< 12, tvec := x.qtvec, priomax := x.priomax.toNat,
    queue := some q, parentHearth := none }

/-- May the next record of a queue be taken in: a pool entry is free, or it is rejected (R374)? -/
def State.mayTake (s : State) (q : Nat) : Bool :=
  s.nextQueue = some q && ((s.recordOf q).reject.isSome || s.poolFree)

/-- The next record of a queue is taken in, and HEAD moves on (R374); damage in transit is used up (R424). -/
def State.intake (s : State) (q : Nat) : State :=
  let s' := ((s.spendTransit (s.queueAt q).recordAt 64).takeRecord (s.recordOf q) ((s.queueAt q).source q)).1
  { s'.modQueue q (fun x => { x with head := x.head + 1 }) with servedLast := q }

/-- RECORD_INTAKE (R374). -/
def execRecordIntake (q : Nat) (s : State) : Out State Fault Refusal :=
  event (q < 64) (s.mayTake q) s (fun _ => s.intake q)

/-! ### Eligibility -/

/-- Is a wait of a record met (R375)? -/
def State.waitMet (s : State) (t : Nat) (v : Word) : Bool := t = noTl || v.toNat ≤ (s.timeline t).value.toNat

/-- May a launch become eligible (R375)? -/
def State.becomesEligible (s : State) (l : Launch) : Bool :=
  l.state = .pending && s.waitMet l.w0tl l.w0val && s.waitMet l.w1tl l.w1val

/-- LAUNCH_ELIGIBLE (R375). -/
def execLaunchEligible (serial : BitVec 32) (s : State) : Out State Fault Refusal :=
  event true (((s.launchOf serial).map s.becomesEligible).getD false) s (fun _ =>
    s.modLaunch serial (fun l => { l with state := .eligible }))

/-! ### The end of a launch -/

/-- Is an engine operation of a launch unfinished (R379)? -/
def State.enginesBusy (s : State) (serial : BitVec 32) : Bool :=
  s.cores.toList.any (fun c => c.copies.any (fun o => o.serial = serial)) || s.kites.any (fun o => o.serial = serial)

/-- Does a launch complete now (R379)? -/
def State.completes (s : State) (l : Launch) : Bool := l.state = .draining && !s.enginesBusy l.serial

/-- The completion record of a launch with an energy in microjoules (R380). -/
def Launch.completion (l : Launch) (tend : Word) (energy : Nat) : Completion :=
  { status := if l.kill.isSome then 1 else 0, reason := (l.kill.map (·.reason)).getD 0, launch := l.serial.toNat,
    tag := l.tag.toNat, tstart := l.tstart.toNat, tend := tend.toNat, energy := energy,
    fval := (l.kill.map (fun (k : Kill) => k.fval.toNat)).getD 0, fgang := (l.kill.map (·.fgang)).getD 0,
    frank := (l.kill.map (·.frank)).getD 0 }

/-- A share of an energy in picojoules, rounded down (R457). -/
def share (e part whole : Nat) : Nat := if whole = 0 then 0 else e * part / whole

/-- What a hart is charged for the bytes it moved, in picojoules, at the fixed rates of R458. Of those in device memory
`cached` were served by a memory-side cache, and `crossed` bytes crossed between dies; `other` is what the model does not
count (log 12). -/
def Moved.charge (m : Moved) (cached crossed other : Nat) : Nat :=
  let c := min cached m.dev
  (8 * (m.dev - c) + 2 * c + crossed + 16 * m.host + 12 * m.kite + 20 * m.eth) / 2 + other

/-- The charge for the bytes of a stay or a hart: what the caches served, what crossed, and what is not counted, are free
values. -/
def State.chargeMoved (s : State) (m : Moved) : Nat × State :=
  let (n, s) := s.takeFresh
  (m.charge (Config.freeEnergy (3 * n)) (Config.freeEnergy (3 * n + 1)) (Config.freeEnergy (3 * n + 2)), s)

/-- The stays of a hearth's window under way: of those that have left it, and of the harts placed there now (R456). -/
def State.staysOn (s : State) (k : Nat) : List Stay :=
  (s.hearth k).stays ++ ((List.range 16).map (16 * k + ·)).filterMap (fun h =>
    let x := s.hartAt h
    x.place.map (fun p => { place := p, ns := s.residency h, activity := x.activity, moved := x.moved, paid := false }))

/-- A stay's shares of the idle energy and of the dynamic energy of its window (R457). -/
def splitShare (stays : List Stay) (idle dyn : Nat) (x : Stay) : Nat :=
  let ns := (stays.map (·.ns)).sum
  let act := (stays.map (·.activity)).sum
  share idle x.ns ns + (if act = 0 then share dyn x.ns ns else share dyn x.activity act)

/-- The final partial window of a launch on a hearth (R459): the device measures the hearth's energy so far and its idle
energy, and the launch's stays are charged their shares and their bytes. -/
def State.finalWindow (s : State) (l : Launch) (k : Nat) : Nat × State :=
  let mine := fun (x : Stay) => x.place.serial = l.serial && !x.paid
  if !(s.hearth k).stays.any mine then (0, s)
  else
    let stays := s.staysOn k
    let (m, s) := s.takeFresh
    let (n, s) := s.takeFresh
    let (energy, idle) := (Config.freeEnergy (3 * m), Config.freeEnergy (3 * n))
    let (pj, s) := (stays.filter mine).foldl (fun (r : Nat × State) x =>
      let (b, s) := r.2.chargeMoved x.moved
      (r.1 + splitShare stays idle (energy - idle) x + b, s)) (0, s)
    (pj, s.modHearth k (fun y => { y with stays := y.stays.map (fun x => if mine x then { x with paid := true } else x) }))

/-- The energy of a launch with its final partial windows (R459): picojoules. -/
def State.finalEnergy (s : State) (l : Launch) : Nat × State :=
  (List.range 32).foldl (fun (r : Nat × State) k =>
    let (pj, s) := r.2.finalWindow l k
    (r.1 + pj, s)) (l.energy, s)

/-- A launch completes (R382): the record, the slots it owned (R269), its energy (R371, R459), CTL, and the trace and
interrupt that tell of it (R450, R419). -/
def State.complete (s : State) (l : Launch) : State :=
  let (pj, s) := s.finalEnergy l
  let uj := if l.charged then pj / 1000000 else 0
  let s := { s with unattr := s.unattr + (pj - 1000000 * uj) }
  let c := l.completion s.tsc uj
  let s := s.endOwner l.serial
  let (s, written) := if l.compl = 0 then (s, true) else s.writeCompletion l.root l.compl.toNat c
  let s := s.modLaunch l.serial (fun l => { l with state := .complete })
  let s := s.finishTicket l.ctl l.ticket (if l.kill.isSome || !written then some (0, 4, l.compl) else none)
  let s := s.emit 0x300 2 (leBytes 4 l.serial.toNat ++ leBytes 1 c.status ++ leBytes 1 c.reason ++ leBytes 8 uj)
  match l.queue with
  | some q => if bit (s.queueAt q).qirq 0 then s.raiseMsix q else s
  | none => s

/-- LAUNCH_COMPLETE (R382): a launch of this device completes; or one of another device, with whatever became of it, whose
slots here fail (R269). -/
def execLaunchComplete (l : LaunchName) (s : State) : Out State Fault Refusal :=
  if l.dev ≠ s.devnum.toNat then .next (s.failOwned l.dev l.serial)
  else
    match s.launchOf l.serial with
    | none => event true false s (fun _ => s)
    | some k => event true (s.completes k) s (fun _ => s.complete k)

/-- The host's kill (R420, R381): a serial that names no live launch has no effect. -/
def State.hostKill (s : State) (v : Word) : State :=
  s.killLaunch (v.setWidth 32) { reason := 4, fval := 0, fgang := 0, frank := 0 }

/-- KILL_WRITE (R420). -/
def execKillWrite (v : BitVec 64) (s : State) : Out State Fault Refusal := .next (s.hostKill v)

end Sys2Proof.Machine
end

