-- ==== Sys2Proof/Machine/TraceEvents.lean ====
section
/-! DEFINITION. Writing trace records to their rings (R448 to R454), samples (R446), the damper (R455, R463), energy
windows (R456 to R459), and the clocks (R42, R447). -/

namespace Sys2Proof.Machine

/-! ### Trace -/

/-- The 32 bytes of a trace record (R448). -/
def TraceRec.bytes (r : TraceRec) : List Byte :=
  leBytes 8 r.time.toNat ++ leBytes 2 r.src ++ leBytes 1 r.ty ++ [0] ++ r.payload.take 20
    ++ List.replicate (20 - r.payload.length) 0

/-- The records that wait for ring r. -/
def State.flueOf (s : State) (r : Nat) : List TraceRec := if r = 32 then s.devFlue else (s.hearth r).flue

/-- The first record in the order of TIME, then SRC, then emission (R452), with its place. -/
def firstRecord (rs : List TraceRec) : Option (TraceRec × Nat) :=
  (rs.zipIdx).foldl (fun best x =>
    match best with
    | none => some x
    | some b =>
      if x.1.time.toNat < b.1.time.toNat || (x.1.time = b.1.time && x.1.src < b.1.src) then some x else best) none

/-- The next record of ring r: no earlier one can follow, since its TIME has passed (R452). -/
def State.nextRecord (s : State) (r : Nat) : Option (TraceRec × Nat) :=
  match firstRecord (s.flueOf r) with
  | some x => if x.1.time.toNat < s.tsc.toNat then some x else none
  | none => none

/-- Has ring r room for a record (R452)? -/
def Ring.room (g : Ring) : Bool := (g.trhead - g.trtail).toNat < g.trsize.toNat

/-- The LOSS record of a hearth's flue that has room again (R453, R454). -/
def State.tellLoss (s : State) (k : Nat) : State :=
  let x := s.hearth k
  if x.lost = 0 || Config.flueCap ≤ x.flue.length || (s.ring k).trsize = 0 || !bit (s.ring k).trmask 7 then s
  else
    (s.emit (0x2C0 + k) 7 (leBytes 4 x.lost ++ leBytes 8 x.firstLost.toNat)).modHearth k
      (fun y => { y with lost := 0, firstLost := 0 })

/-- The scratchpads and the scalar data memories of a hearth read as zero (R464). -/
def State.eraseHearth (s : State) (k : Nat) : State :=
  let inside := fun (a : Nat) =>
    (spad (4 * k) 0 ≤ a && a < spad (4 * k + 4) 0)
      || (Config.sdmLoc + 4 * k * 0x10000 ≤ a && a < Config.sdmLoc + (4 * k + 4) * 0x10000)
  { s with
    mem := s.mem.filter (fun c => !inside c.1)
    poison := s.poison.filter (fun a => !inside a) }

/-- The n-gram slice, the scratchpads and the scalar data memories of a hearth lose their contents (R464). -/
def State.gate (s : State) (k : Nat) : State :=
  (s.modHearth k (fun x => { x with ngrams := [], gating := none, gated := true })).eraseHearth k

/-- A hearth whose flue has drained is gated (R454). -/
def State.gateDrained (s : State) (k : Nat) : State :=
  if (s.hearth k).gating.isSome && (s.hearth k).flue.isEmpty then s.gate k else s

/-- A record leaves its flue. -/
def State.dropRecord (s : State) (r i : Nat) : State :=
  if r = 32 then { s with devFlue := s.devFlue.eraseIdx i }
  else s.modHearth r (fun k => { k with flue := k.flue.eraseIdx i })

/-- The record at place i of its flue is written to ring r, and TRHEAD moves on (R452). -/
def State.writeRecord (s : State) (r i : Nat) (x : TraceRec) : State :=
  let g := s.ring r
  let s := s.writeMem (g.trbase.toNat + 32 * (g.trhead.toNat % g.trsize.toNat)) x.bytes
  let s := (s.modRing r (fun g => { g with trhead := g.trhead + 1 })).dropRecord r i
  if r = 32 then s else (s.tellLoss r).gateDrained r

/-- TRACE_RECORD_WRITE (R452, R453). -/
def execTraceRecordWrite (r : Nat) (s : State) : Out State Fault Refusal :=
  match s.nextRecord r with
  | none => event (r < 33) false s (fun _ => s)
  | some (x, i) => event (r < 33) (s.ring r).room s (fun _ => s.writeRecord r i x)

/-- TRHEAD_READ (R452). -/
def execTrheadRead (r : Nat) (s : State) : Out State Fault Refusal :=
  event (r < 33) true s (fun _ => { s with hostData := leBytes 8 (s.ring r).trhead.toNat })

/-- Has the flue of a hearth drained for 20 µs (R454)? -/
def State.drainOver (s : State) (k : Nat) : Bool :=
  match (s.hearth k).gating with
  | some t => 20000 ≤ (s.tsc - t).toNat
  | none => false

/-- FLUE_DRAIN_TIMEOUT (R454): what is still in the flue is lost, and the gating proceeds. -/
def execFlueDrainTimeout (k : Nat) (s : State) : Out State Fault Refusal :=
  event (isHearth k) (s.drainOver k) s (fun _ =>
    let rs := (s.hearth k).flue
    let first := ((firstRecord rs).map (fun x => x.1.time)).getD 0
    ((s.modHearth k (fun x =>
      { x with flue := [], lost := x.lost + rs.length, firstLost := if x.lost = 0 then first else x.firstLost })).modRing k
      (fun g => { g with trlost := g.trlost + BitVec.ofNat 64 rs.length })).gate k)

/-! ### Samples -/

/-- The state of a hart as a SAMPLE names it (R446). -/
def Hart.sampleState (h : Hart) : Nat :=
  if h.dbg.halted then 4 else if h.sup then 3 else if h.wait.isSome then 2 else if h.queue.isEmpty then 1 else 0

/-- The SAMPLE record of hart h (R446, R450). -/
def State.emitSample (s : State) (h : Nat) : State :=
  let x := s.hartAt h
  let pc := ((x.queue.head?).map (·.addr)).getD x.pc
  s.emit h 5 (leBytes 6 pc.toNat ++ leBytes 1 ((x.stopped.map (·.member)).getD 0) ++ leBytes 1 x.sampleState
    ++ leBytes 2 ((x.stopped.map (·.front)).getD 0) ++ leBytes 4 x.stripNo.toNat)

/-- Is a sample of a hart due (R446)? -/
def Hart.sampleDue (h : Hart) : Bool := fld h.dbg.dsample 0 32 ≠ 0 && fld h.dbg.dsample 0 32 ≤ h.dbg.since

/-- SAMPLE (R446). -/
def execSample (h : Nat) (s : State) : Out State Fault Refusal :=
  event (isHart h) (s.hartAt h).sampleDue s (fun _ =>
    (s.emitSample h).modHartAt h (fun x =>
      { x with dbg := { x.dbg with since := x.dbg.since - fld x.dbg.dsample 0 32 } }))

/-! ### The damper -/

/-- DAMPER_TRIP (R455, R463): a trip during a stretch only extends it. -/
def execDamperTrip (k : Nat) (s : State) : Out State Fault Refusal :=
  event (isHearth k) true s (fun _ =>
    let s := s.modHearth k (fun x => { x with tripped := s.tsc })
    if (s.hearth k).damper.isSome then s
    else (s.modHearth k (fun x => { x with damper := some s.tsc })).emit (0x2A0 + k) 6 (leBytes 1 0 ++ leBytes 4 0))

/-- DAMPER_RECOVER (R455, R463): the supply has stayed near its setpoint for 200 ns, so that no trip is later than that. -/
def execDamperRecover (k : Nat) (s : State) : Out State Fault Refusal :=
  match (s.hearth k).damper with
  | none => event (isHearth k) false s (fun _ => s)
  | some t => event (isHearth k) (200 ≤ (s.tsc - (s.hearth k).tripped).toNat) s (fun _ =>
    (s.modHearth k (fun x => { x with damper := none })).emit (0x2A0 + k) 6
      (leBytes 1 1 ++ leBytes 4 (s.tsc - t).toNat))

/-! ### Energy -/

/-- Picojoules charged to the rank at a place: to its hart or saved context, or to its launch where it has halted. -/
def State.creditPlace (s : State) (p : Place) (pj : Nat) : State :=
  if s.contexts.any (fun h => h.place = some p) then
    s.mapContexts (fun h => if h.place = some p then { h with charge := h.charge + pj } else h)
  else s.modLaunch p.serial (fun l => { l with energy := l.energy + pj })

/-- A stay charged its shares and its bytes; where its launch has completed, its final window has charged it. -/
def State.creditStay (s : State) (stays : List Stay) (idle dyn : Nat) (x : Stay) : State :=
  if x.paid then s
  else
    let (b, s) := s.chargeMoved x.moved
    s.creditPlace x.place (splitShare stays idle dyn x + b)

/-- A window of a hearth ends with its measured energy and idle energy in picojoules (R456, R457, R459), and the next
begins. -/
def State.window (s : State) (k energy idle : Nat) : State :=
  let stays := s.staysOn k
  let dyn := energy - idle
  let s := stays.foldl (fun s x => s.creditStay stays idle dyn x) s
  let s := ((List.range 16).map (16 * k + ·)).foldl (fun s h => s.modHartAt h (fun x =>
    { x with activity := 0, moved := { dev := 0, host := 0, kite := 0, eth := 0 } })) s
  let (n, s) := s.takeFresh
  let rest := idle + dyn - (stays.map (splitShare stays idle dyn)).sum
  { s.modHearth k (fun y => { y with winStart := s.tsc, stays := [] }) with
    unattr := s.unattr + rest + Config.freeEnergy (3 * n) }

/-- Is the energy window of a hearth full: 1 µs of the timestamp (R456)? -/
def State.windowFull (s : State) (k : Nat) : Bool := 1000 ≤ (s.tsc - (s.hearth k).winStart).toNat

/-- ENERGY_WINDOW (R456): a window ends after 1 µs with what was measured. -/
def execEnergyWindow (k energy idle : Nat) (s : State) : Out State Fault Refusal :=
  event (isHearth k) (s.windowFull k) s (fun _ => s.window k energy idle)

/-- The full windows end before the timestamp goes on, with free measurements where none has been told (R456; log 12). -/
def State.endWindows (s : State) : State :=
  (List.range 32).foldl (fun s k =>
    if s.windowFull k then
      let (n, s) := s.takeFresh
      s.window k (Config.freeEnergy (3 * n)) (Config.freeEnergy (3 * n + 1))
    else s) s

/-! ### Clocks -/

/-- One arithmetic clock of a hart (R43, R447): one of those that a convoy has been charged for, or every slot that the
hart holds stalls. The counts of R383 and R446 go on. -/
def State.clockHart (s : State) (h : Nat) : State :=
  let ready := s.convoyReady h
  let n := if (s.hartAt h).ahead = 0 then 8 * s.lgrant h else 0
  s.modHartAt h (fun x =>
    { x with
      lcstall := x.lcstall + BitVec.ofNat 64 n, ahead := x.ahead - 1
      readyClocks := if ready then x.readyClocks + 1 else 0
      tileReady := if ready && s.wantsTiles h then x.tileReady + 1 else 0
      dbg := { x.dbg with since := if fld x.dbg.dsample 0 32 = 0 then 0 else x.dbg.since + 1 } })

/-- ARITHMETIC_CLOCK (R43, R447): each core may start a convoy again (R383). -/
def execArithmeticClock (k : Nat) (s : State) : Out State Fault Refusal :=
  event (isHearth k) (!(s.hearth k).gated) s (fun _ =>
    let s := ((List.range 16).map (16 * k + ·)).foldl State.clockHart s
    ((List.range 4).map (4 * k + ·)).foldl (fun s c => s.modCore c (fun x => { x with started := false })) s)

/-- Is a hearth idle (R464)? -/
def State.hearthIdle (s : State) (k : Nat) : Bool :=
  let hs := (List.range 16).map (16 * k + ·)
  let cs := (List.range 4).map (4 * k + ·)
  hs.all (fun h => (s.hartAt h).place.isNone && (s.hartAt h).binds.isEmpty)
    && cs.all (fun c => (s.core c).copies.isEmpty && (s.core c).zones.all (·.isNone))
    && s.kites.all (fun o => hearthOf o.hart ≠ k)

/-- The hearths note from when on they have been idle (R464). -/
def State.noteIdle (s : State) : State :=
  { s with hearths := s.hearths.mapIdx (fun k x =>
      { x with idleSince := if s.hearthIdle k then some (x.idleSince.getD s.tsc) else none }) }

/-- The timestamp takes a value, the dispatch unit looks at its candidates (R376), and the hearths at their idleness. -/
def State.tickTo (s : State) (t : Word) : State := { s with tsc := t }.passOver.noteIdle

/-- The timestamp advances (R42). -/
def State.tick (s : State) : State :=
  let s := s.endWindows
  s.tickTo (s.tsc + 1)

/-- The times from which a hearth counts, moved on. -/
def Hearth.shift (x : Hearth) (d : Word) : Hearth :=
  { x with damper := x.damper.map (· + d), tripped := x.tripped + d, gating := x.gating.map (· + d)
           idleSince := x.idleSince.map (· + d), winStart := x.winStart + d }

/-- The times from which a hart counts, moved on. -/
def Hart.shift (x : Hart) (d : Word) : Hart :=
  { x with parkedTsc := x.parkedTsc + d, placedTsc := x.placedTsc + d, stopping := x.stopping.map (· + d) }

/-- The times from which a launch counts, moved on. -/
def Launch.shift (l : Launch) (d : Word) : Launch :=
  { l with passedSince := l.passedSince.map (· + d)
           gangs := l.gangs.map (fun g => { g with passedSince := g.passedSince.map (· + d) }) }

/-- The timestamp jumps by d, which is no time that has passed: what counts from a time counts from d later. -/
def State.shift (s : State) (d : Word) : State :=
  { s.mapContexts (·.shift d) with
    tsc := s.tsc + d
    hearths := s.hearths.map (·.shift d)
    launches := (s.mapContexts (·.shift d)).launches.map (·.shift d)
    lastSent := s.lastSent.map (fun e => (e.1, e.2 + d))
    eth := s.eth.map (fun e => (e.1, { e.2 with unacked := e.2.unacked.map (fun u => { u with since := u.since + d }) })) }

/-- TSC_INCREMENT (R42): at one of those after a device reset, the timestamp takes the synchronised value instead (R462,
R465); which one and what value is free (log 15). -/
def execTscIncrement (s : State) : Out State Fault Refusal :=
  .next (if s.tscSync then s.tick
    else
      let (n, s) := s.takeFresh
      match Config.freeSync n with
      | none => s.tick
      | some t =>
        let s := ({ s with tscSync := true } : State).endWindows
        (s.shift (t - (s.tsc + 1))).tick)

end Sys2Proof.Machine
end

