-- ==== Sys2Proof/Machine/DebugEvents.lean ====
section
/-! DEFINITION. The debugger's access to harts (R441 to R445). -/

namespace Sys2Proof.Machine

/-- The HALT cause of DCAUSE (R441). -/
def causeHalt : Nat := 32
/-- The STEP cause of DCAUSE (R441). -/
def causeStep : Nat := 33

/-- The executing hart halts before its next scalar word (R442). A store that waited for room has not happened yet. -/
def State.haltScalar (s : State) (cause : Nat) : State :=
  let s := if s.hart.sup then s else s.modHart Hart.freeze
  s.debugHalt { cause := cause, vec := false, pc := s.hart.pc, mem := 0, elem := 0, val := 0, spc := s.hart.pc }

/-- The executing hart halts for the debugger (R442): with vector work in flight in program mode, its oldest convoy
stops at its commit front; otherwise before the next scalar word. -/
def State.haltFor (s : State) (cause : Nat) : State :=
  let h := s.hart
  match h.queue with
  | [] => s.haltScalar cause
  | q :: _ =>
    if h.sup then s.haltScalar cause
    else
      let x := h.stopped.getD { member := 0, front := 0 }
      let s := s.modHart (fun h => h.stopAt (h.plan (headConvoy h.queue)) x.member x.front)
      s.debugHalt { cause := cause, vec := true, pc := q.addr, mem := x.member, elem := x.front, val := 0, spc := s.hart.pc }

/-- A request to halt hart h (R442): a hart that no launch holds halts once one is placed on it. -/
def State.requestHalt (s : State) (h : Nat) : State :=
  let x := s.hartAt h
  if x.dbg.halted then s
  else if x.place.isSome then s.asHart h (fun s => s.haltFor causeHalt)
  else s.modHartAt h (fun x => { x with dbg := { x.dbg with haltReq := true } })

/-- A halted hart goes on at DSPC (R444); `armed` halts it again after one retirement. A hart that was halted at its
handler's first word is still to fetch it (R319). -/
def State.resumeDebug (s : State) (h : Nat) (armed : Bool) : State :=
  let x := s.hartAt h
  if !x.dbg.halted then s
  else
    let a := x.dbg.dspc
    let s := s.modHartAt h (fun x =>
      { (x.takeBack.resume a) with
        entering := x.entering && x.pc = a, dbg := { x.dbg with halted := false, armed := armed, retired := false } })
    if a.toNat % 4 = 0 then s
    else s.asHart h (fun s => s.takeTrap
      { cause := causeAlignFetch, vec := false, pc := a, mem := 0, elem := 0, val := a, spc := a })

/-- DCTL.STEP as the host writes it with GO. -/
def State.setStep (s : State) (h : Nat) (b : Bool) : State :=
  s.modHartAt h (fun x => { x with dbg := { x.dbg with step := b } })

/-- DCTL_HALT (R442). -/
def execDctlHalt (h : Nat) (s : State) : Out State Fault Refusal :=
  event (isHart h) true s (fun _ => s.requestHalt h)

/-- DCTL_GO (R444): GO with STEP = 0. -/
def execDctlGo (h : Nat) (s : State) : Out State Fault Refusal :=
  event (isHart h) true s (fun _ => (s.setStep h false).resumeDebug h false)

/-- DCTL_STEP (R442): GO with STEP = 1. -/
def execDctlStep (h : Nat) (s : State) : Out State Fault Refusal :=
  event (isHart h) true s (fun _ => (s.setStep h true).resumeDebug h true)

/-- Is a halt by STEP due (R442)? -/
def Hart.stepDue (h : Hart) : Bool := h.dbg.armed && h.dbg.retired && !h.dbg.halted && h.place.isSome

/-- STEP_HALT (R442). -/
def execStepHalt (h : Nat) (s : State) : Out State Fault Refusal :=
  event (isHart h) (s.hartAt h).stepDue s (fun _ => s.asHart h (fun s => s.haltFor causeStep))

/-- A write of DCTL (R441): HALT and GO together have no effect. -/
def State.writeDctl (s : State) (h : Nat) (v : Word) : State :=
  if bit v 1 && bit v 2 then s
  else
    let s := s.modHartAt h (fun x => { x with dbg := { x.dbg with own := bit v 0, step := bit v 3 } })
    if bit v 1 then s.requestHalt h
    else if bit v 2 then s.resumeDebug h (bit v 3)
    else s

/-! ### Images (R445) -/

/-- The physical address that a write of DIMG names. -/
def imageAddr (v : Word) : Nat := fld v 12 40 <<< 12

/-- An image operation of the debugger begins, with its effect; a write that is not taken is ignored. -/
def State.imageOp (s : State) (h : Nat) (f : State → State × Bool) : State :=
  let x := s.hartAt h
  if !x.dbg.halted || x.dbg.imgBusy then s
  else
    let r := f s
    r.1.modHartAt h (fun x => { x with dbg := { x.dbg with imgBusy := true, imgErr := !r.2 } })

/-- The debugger writes the image of a hart. -/
def State.saveImage (s : State) (h : Nat) (v : Word) : State := s.imageOp h (fun s => s.debugSave h (imageAddr v))

/-- The debugger loads an image into a hart. -/
def State.loadImage (s : State) (h : Nat) (v : Word) : State := s.imageOp h (fun s => s.debugLoad h (imageAddr v))

/-- DIMG_SAVE (R445). -/
def execDimgSave (h : Nat) (v : BitVec 64) (s : State) : Out State Fault Refusal :=
  event (isHart h) true s (fun _ => s.saveImage h v)

/-- DIMG_LOAD (R445). -/
def execDimgLoad (h : Nat) (v : BitVec 64) (s : State) : Out State Fault Refusal :=
  event (isHart h) true s (fun _ => s.loadImage h v)

/-- DIMG_COMPLETE (R445). -/
def execDimgComplete (h : Nat) (s : State) : Out State Fault Refusal :=
  event (isHart h) (s.hartAt h).dbg.imgBusy s (fun _ =>
    s.modHartAt h (fun x => { x with dbg := { x.dbg with imgBusy := false } }))

end Sys2Proof.Machine
end

