-- ==== Sys2Proof/Machine/PowerEvents.lean ====
section
/-! DEFINITION. Power and temperature (R461), power gating (R464), reset (R465), the firmware load (R466), scrubbing and
the retirement of a core (R425, R439, R440). -/

namespace Sys2Proof.Machine

/-! ### Power and temperature -/

/-- One step of 100 MHz for a hearth's arithmetic clock, between 1.2 GHz and 2.5 GHz (R461): down while the average has
exceeded the cap and not fallen below it since, up where it is at least 5% below. -/
def stepRate (lowering : Bool) (rate watts cap : Nat) : Nat :=
  if lowering then max 1200 (rate - 100) else if 100 * watts ≤ 95 * cap then min 2500 (rate + 100) else rate

/-- POWER_CAP_STEP (R461): the average over the last millisecond is known, which PWRNOW shows in 12 bits. -/
def execPowerCapStep (watts : Nat) (s : State) : Out State Fault Refusal :=
  let w := watts % 4096
  let cap := fld s.pwrcap 0 12
  let lowering := cap < w || (s.lowering && cap ≤ w)
  .next { s with
    pwrnow := w, lowering := lowering
    hearths := s.hearths.map (fun k => { k with rate := stepRate lowering k.rate w cap }) }

/-- The arithmetic clock of a hearth in MHz (R461 to R463): the lower of the reductions in force. -/
def State.clockOf (s : State) (k : Nat) : Nat :=
  let x := s.hearth k
  let r := if s.hot then min x.rate 1200 else x.rate
  if x.damper.isSome then min r 1250 else r

/-- THERMAL_THRESHOLD (R461): the hottest junction, in tenths of a degree. -/
def execThermalThreshold (temp : Nat) (s : State) : Out State Fault Refusal :=
  let stop := 1150 ≤ temp
  .next { s with
    temp := temp
    hot := 1050 ≤ temp || (s.hot && 1000 ≤ temp)
    noDispatch := stop || (s.noDispatch && 1000 ≤ temp)
    svcreq := if stop then s.svcreq ||| 1 else s.svcreq }

/-! ### Power gating -/

/-- Has a hearth been idle for 50 µs (R464)? -/
def State.idleLong (s : State) (k : Nat) : Bool :=
  match (s.hearth k).idleSince with
  | some t => s.hearthIdle k && 50000 ≤ (s.tsc - t).toNat
  | none => false

/-- HEARTH_POWER_GATE (R464, R454): the flue drains first. -/
def execHearthPowerGate (k : Nat) (s : State) : Out State Fault Refusal :=
  let x := s.hearth k
  event (isHearth k) (bit s.pgate 0 && !x.gated && x.gating.isNone && s.idleLong k) s (fun _ =>
    (s.modHearth k (fun x => { x with gating := some s.tsc })).gateDrained k)

/-- A hearth is powered, and tells of what it lost at the gating (R454, R464). What was stored in its scratchpads while it
was gated is not there. -/
def State.powerUp (s : State) (k : Nat) : State :=
  if (s.hearth k).gated then ((s.modHearth k (fun x => { x with gated := false })).eraseHearth k).tellLoss k else s

/-- HEARTH_POWER_UP (R464): a placement waits for the hearth. -/
def execHearthPowerUp (k : Nat) (s : State) : Out State Fault Refusal :=
  event (isHearth k) ((s.hearth k).gated && !s.noDispatch && (s.firstFit.map (·.2)) = some k) s (fun _ => s.powerUp k)

/-- A write of PGATE (R464): EN = 0 powers up every gated hearth, and ends a gating that is under way. -/
def State.writePgate (s : State) (v : Word) : State :=
  let s := { s with pgate := v &&& 1 }
  if bit v 0 then s
  else (List.range 32).foldl (fun s k => (s.powerUp k).modHearth k (fun x => { x with gating := none })) s

/-- PGATE_WRITE (R464). -/
def execPgateWrite (v : BitVec 64) (s : State) : Out State Fault Refusal := .next (s.writePgate v)

/-! ### Reset -/

/-- A device reset (R465): memory, poison marks and retired lanes and cores stay, and so does what is the model's
own. -/
def State.resetDevice (s : State) : State :=
  { State.reset with
    mem := s.mem, poison := s.poison, transit := s.transit
    cores := s.cores.map (fun c => { Core.reset with retiredLanes := c.retiredLanes, retired := c.retired })
    harts := Vector.ofFn (fun h => { Hart.reset with retiredLanes := (s.core (coreOf h.val)).retiredLanes })
    msix := s.msix, cur := s.cur, inbox := s.inbox, turns := s.turns, ticked := s.ticked
    eager := s.eager, fresh := s.fresh, stamp := s.stamp }

/-- DEVICE_RESET (R465). -/
def execDeviceReset (s : State) : Out State Fault Refusal := .next s.resetDevice

/-- A write of RESET (R460). -/
def State.writeReset (s : State) (v : Word) : State := if v = 0x5245534554000001 then s.resetDevice else s

/-- RESET_WRITE (R460). -/
def execResetWrite (v : BitVec 64) (s : State) : Out State Fault Refusal := .next (s.writeReset v)

/-! ### Firmware -/

/-- A write of FWSTAT (R460, R466): GO is ignored while the state is LOADING. -/
def State.writeFwstat (s : State) (v : Word) : State := if bit v 0 && s.fw ≠ .loading then { s with fw := .loading } else s

/-- FIRMWARE_LOAD (R466). -/
def execFirmwareLoad (v : BitVec 64) (s : State) : Out State Fault Refusal := .next (s.writeFwstat v)

/-- The sum of the 4-byte words of some bytes modulo 2^32 (R466). -/
def wordSum : Nat → List Byte → Nat
  | 0, _ => 0
  | n + 1, bs => (leNat (bs.take 4) + wordSum n (bs.drop 4)) % 2 ^ 32

/-- Does a firmware image check (R466)? -/
def imageChecks (bs : List Byte) : Bool :=
  let sum := leNat ((bs.drop 4).take 4)
  leNat (bs.take 4) = 0x58465731 && (wordSum (bs.length / 4) bs + 2 ^ 32 - sum) % 2 ^ 32 = sum

/-- The firmware load ends (R466): `bad` says that the fetch faulted, as it does beyond the host memory of R418 (DEDUCED,
log 96). -/
def State.firmwareDone (s : State) (bad : Bool) : State :=
  if bad || Config.physEnd < Config.hostBase + fld s.fwsrc 0 52 + fld s.fwlen 0 32 then { s with fw := .failed 2 }
  else if imageChecks (s.readMem (Config.hostBase + fld s.fwsrc 0 52) (fld s.fwlen 0 32)) then
    { s with fw := .done, ready := true, cxlmem := true, cxlcache := true }
  else { s with fw := .failed 1 }

/-- FIRMWARE_LOAD_DONE (R466). -/
def execFirmwareLoadDone (bad : Bool) (s : State) : Out State Fault Refusal :=
  event true (s.fw = .loading) s (fun _ => s.firmwareDone bad)

/-! ### Errors -/

/-- The device finds an error (R424, R425, R439). -/
def State.find (s : State) : Found → State
  | .correctedMem => { s with cehbm := s.cehbm + 1 }
  | .correctedSram => { s with cesram := s.cesram + 1 }
  | .uncorrectable loc =>
    if granule loc = 0 || s.poisonedAt loc then s
    else if inDev loc then
      { s.markPoison loc with uecount := setFld s.uecount 0 32 (fld s.uecount 0 32 + 1) }
    else { s.markPoison loc with uecount := setFld s.uecount 32 32 (fld s.uecount 32 32 + 1) }
  | .laneAgain c p => { s with cesram := s.cesram + 1 }.retireLane c p

/-- Does what was found name parts that the device has? -/
def foundOk : Found → Bool
  | .laneAgain c p => isCore c && p < 32
  | _ => true

/-- SCRUB (R425). -/
def execScrub (x : Found) (s : State) : Out State Fault Refusal := event (foundOk x) true s (fun _ => s.find x)

/-- CORE_RETIRE (R440). -/
def execCoreRetire (c : Nat) (s : State) : Out State Fault Refusal := event (isCore c) true s (fun _ => s.retireCore c)

end Sys2Proof.Machine
end

