-- ==== Sys2Proof/Machine/HostEvents.lean ====
section
/-! DEFINITION. The host's window onto the device: the registers of BAR0 (R402, R411, R419 to R421, R425, R441, R451,
R460) and CXL.mem (R418, R426, R466); and TLBINV (R342). -/

namespace Sys2Proof.Machine

/-! ### Writes -/

/-- A write of TLRESET (R420): only while NEXT equals VALUE. -/
def State.resetTimeline (s : State) (t : Nat) (v : Word) : State :=
  let l := s.timeline t
  if l.next = l.value then s.modTimeline t (fun _ => { Timeline.reset with value := v, next := v }) else s

/-- A write of SVCREQ (R421): 1s clear. -/
def State.clearService (s : State) (v : Word) : State := { s with svcreq := s.svcreq &&& ~~~(v &&& 0xF) }

/-- A write of LANESTAT (R425, R438): 1s clear SUSPECT bits. -/
def State.clearSuspect (s : State) (c : Nat) (v : Word) : State :=
  s.modCore c (fun k => { k with suspect := k.suspect &&& ~~~(BitVec.ofNat 32 (fld v 32 32)) })

/-- A register of a launch queue that is locked while QENABLE is 1 (R419). -/
def State.writeLocked (s : State) (q : Nat) (f : LQueue → LQueue) : State :=
  if (s.queueAt q).enabled then s else s.modQueue q f

/-- A write to register `off` of the block of launch queue q (R419). -/
def State.writeQueue (s : State) (q off : Nat) (v : Word) : State :=
  match off with
  | 0x00 => s.writeLocked q (fun x => { x with qbase := v })
  | 0x08 => s.writeLocked q (fun x => { x with qsize := v })
  | 0x10 => s.writeLocked q (fun x => { x with qasid := v })
  | 0x18 => s.writeLocked q (fun x => { x with qroot := v })
  | 0x20 => s.modQueue q (fun x => { x with priomax := v &&& 7 })
  | 0x28 => s.writeQenable q v
  | 0x30 => s.writeTail q v
  | 0x48 => s.modQueue q (fun x => { x with qirq := v &&& 1 })
  | 0x50 => s.writeLocked q (fun x => { x with qtvec := v &&& 0xFFFFFFFFFFC0 })
  | _ => s

/-- A write to register `off` of the block of trace ring r (R451): the place of a ring changes only while it holds no
record. -/
def State.writeRing (s : State) (r off : Nat) (v : Word) : State :=
  let idle := (s.ring r).trhead = (s.ring r).trtail
  match off with
  | 0x00 => if idle then s.modRing r (fun g => { g with trbase := v }) else s
  | 0x08 => if idle then s.modRing r (fun g => { g with trsize := v }) else s
  | 0x10 => s.modRing r (fun g => { g with trmask := v })
  | 0x20 => s.modRing r (fun g => { g with trtail := v.setWidth 32 })
  | _ => s

/-- A write to register `off` of the debug block of hart h (R441). -/
def State.writeDebug (s : State) (h off : Nat) (v : Word) : State :=
  match off with
  | 0x00 => s.writeDctl h v
  | 0x30 => if bit v 0 then s.loadImage h v else s.saveImage h v
  | 0x38 => s.modHartAt h (fun x => { x with dbg := { x.dbg with dsample := v &&& 0xFFFFFFFF } })
  | _ => s

/-- A write of a route word (R411). -/
def State.writeRoute (s : State) (n : Nat) (v : Word) : State :=
  { s with routes := putSorted n (v &&& 0xFFFFFFFFFFFF003F) s.routes }

/-- A write of PWRCAP (R460): the limits are those of the field [11:0], and the reserved bits are ignored (R6). -/
def State.writePwrcap (s : State) (v : Word) : State :=
  let x := fld v 0 12
  if 600 ≤ x && x ≤ 2400 then { s with pwrcap := BitVec.ofNat 64 x } else s

/-- A write to one of the registers below the queue blocks (R419, R460). -/
def State.writeLow (s : State) (off : Nat) (v : Word) : State :=
  match off with
  | 0x08 => { s with devnum := v &&& 0xFFFF }
  | 0x18 => s.clearService v
  | 0x20 => s.hostKill v
  | 0x28 => { s with ketype := v &&& 0xFFFF }
  | 0x80 => s.writeReset v
  | 0x88 => { s with fwsrc := v &&& 0xFFFFFFFFFFFFF }
  | 0x90 => { s with fwlen := v &&& 0xFFFFFFFF }
  | 0x98 => s.writeFwstat v
  | 0xA0 => s.writePwrcap v
  | 0xB0 => s.writePgate v
  | _ => s

/-- A write of 8 bytes at an aligned offset of BAR0 (R419). A write to any other offset, to an offset not listed, or to
a register that the host only reads is ignored. -/
def State.barWrite (s : State) (off : Nat) (v : Word) : State :=
  if off % 8 ≠ 0 then s
  else if off < 0x10000 then s.writeLow off v
  else if off < 0x12000 then s.writeQueue ((off - 0x10000) / 128) ((off - 0x10000) % 128) v
  else if off < 0x20000 then s
  else if off < 0x20500 then
    let p := (off - 0x20000) / 64
    if (off - 0x20000) % 64 = 8 && 18 ≤ p then s.modPort p (fun x => { x with vlan := v &&& 0x1FFF }) else s
  else if off < 0x30000 then s
  else if off < 0x30400 then s.clearSuspect ((off - 0x30000) / 8) v
  else if off < 0x40000 then s
  else if off < 0x40840 then s.writeRing ((off - 0x40000) / 64) ((off - 0x40000) % 64) v
  else if off < 0x100000 then s
  else if off < 0x110000 then if off % 16 = 8 then s.resetTimeline ((off - 0x100000) / 16) v else s
  else if off < 0x400000 then s
  else if off < 0x600000 then s.writeRoute ((off - 0x400000) / 8) v
  else if off < 0x800000 then s
  else if off < 0x808000 then s.writeDebug ((off - 0x800000) / 64) ((off - 0x800000) % 64) v
  else s

/-! ### Reads -/

/-- What a read of an offset that is not listed returns. -/
def allOnes : Word := BitVec.allOnes 64

/-- DSTATUS (R419). -/
def State.dstatus (s : State) : Word :=
  let cores := s.cores.toList.countP (·.retired)
  let lanes := (s.cores.toList.map (fun c => (List.range 32).countP (fun i => c.retiredLanes.getLsbD i))).sum
  BitVec.ofNat 64 (b2n s.ready + 2 * b2n s.cxlmem + 4 * b2n s.cxlcache + cores % 256 * 256 + lanes % 65536 * 65536)

/-- CORERET0 and CORERET1 (R425). -/
def State.coreret (s : State) (n : Nat) : Word :=
  (List.range 64).foldl (fun w i => if (s.core (64 * n + i)).retired then w ||| BitVec.ofNat 64 (2 ^ i) else w) 0

/-- FWSTAT (R460). -/
def FwState.word : FwState → Word
  | .idle => 0
  | .loading => 2
  | .done => 4
  | .failed c => BitVec.ofNat 64 (6 + c % 256 * 256)

/-- QSTATUS (R374). -/
def LQueue.status (x : LQueue) : Word := if !x.enabled then 0 else if x.error then 2 else 1

/-- A read of register `off` of the block of launch queue q (R419). -/
def State.readQueue (s : State) (q off : Nat) : Word :=
  let x := s.queueAt q
  match off with
  | 0x00 => x.qbase
  | 0x08 => x.qsize
  | 0x10 => x.qasid
  | 0x18 => x.qroot
  | 0x20 => x.priomax
  | 0x28 => x.qenable
  | 0x30 => x.tail.setWidth 64
  | 0x38 => x.head.setWidth 64
  | 0x40 => x.status
  | 0x48 => x.qirq
  | 0x50 => x.qtvec
  | _ => allOnes

/-- A read of register `off` of the block of trace ring r (R451). -/
def State.readRing (s : State) (r off : Nat) : Word :=
  let g := s.ring r
  match off with
  | 0x00 => g.trbase
  | 0x08 => g.trsize
  | 0x10 => g.trmask
  | 0x18 => g.trhead.setWidth 64
  | 0x20 => g.trtail.setWidth 64
  | 0x28 => g.trlost
  | _ => allOnes

/-- DSTAT (R441). -/
def Hart.dstat (h : Hart) : Word :=
  BitVec.ofNat 64 (b2n h.dbg.halted + 2 * b2n h.place.isSome + 4 * b2n h.dbg.imgBusy + 8 * b2n h.dbg.imgErr
    + h.dbg.dcause % 256 * 256 + (h.place.map (fun (p : Place) => p.serial.toNat)).getD 0 * 2 ^ 32)

/-- A read of register `off` of the debug block of hart h (R441). -/
def State.readDebug (s : State) (h off : Nat) : Word :=
  let x := s.hartAt h
  match off with
  | 0x00 => BitVec.ofNat 64 (b2n x.dbg.own + 8 * b2n x.dbg.step)
  | 0x08 => x.dstat
  | 0x10 => x.dbg.dpc
  | 0x18 => x.dbg.dspc
  | 0x20 => x.dbg.dstop
  | 0x28 => x.dbg.dval
  | 0x30 => 0
  | 0x38 => x.dbg.dsample
  | _ => allOnes

/-- PFXENT: half n of prefix-table entry e (R402). -/
def State.readPrefix (s : State) (e n : Nat) : Word :=
  match s.prefixes.find? (fun p => p.index = e) with
  | none => 0
  | some p => if n = 0 then p.hash else BitVec.ofNat 64 (p.page.toNat + p.pins % 65536 * 2 ^ 32 + 2 ^ 48)

/-- A read of one of the registers below the queue blocks (R419, R425, R460). -/
def State.readLow (s : State) (off : Nat) : Word :=
  match off with
  | 0x00 => 0x585400800001
  | 0x08 => s.devnum
  | 0x10 => s.dstatus
  | 0x18 => s.svcreq
  | 0x20 => 0
  | 0x28 => s.ketype
  | 0x30 => s.tsc
  | 0x38 => BitVec.ofNat 64 (s.unattr / 1000000)
  | 0x40 => s.cehbm
  | 0x48 => s.cesram
  | 0x50 => s.uecount
  | 0x58 => s.ueaddr
  | 0x60 => s.coreret 0
  | 0x68 => s.coreret 1
  | 0x80 => 0
  | 0x88 => s.fwsrc
  | 0x90 => s.fwlen
  | 0x98 => s.fw.word
  | 0xA0 => s.pwrcap
  | 0xA8 => BitVec.ofNat 64 (s.pwrnow % 4096 + s.temp % 4096 * 65536)
  | 0xB0 => s.pgate
  | _ => allOnes

/-- A read of a port register (R419). -/
def State.readPort (s : State) (p off : Nat) : Word :=
  let x := s.portAt p
  if off = 0 then
    BitVec.ofNat 64 (b2n x.up + x.downs % 256 * 256 + (if 18 ≤ p then x.dropped % 65536 * 65536 else 0))
  else if off = 8 && 18 ≤ p then x.vlan
  else allOnes

/-- What a read of 8 bytes at an aligned offset of BAR0 returns (R419). -/
def State.barRead (s : State) (off : Nat) : Word :=
  if off % 8 ≠ 0 then allOnes
  else if off < 0x10000 then s.readLow off
  else if off < 0x12000 then s.readQueue ((off - 0x10000) / 128) ((off - 0x10000) % 128)
  else if off < 0x20000 then allOnes
  else if off < 0x20500 then s.readPort ((off - 0x20000) / 64) ((off - 0x20000) % 64)
  else if off < 0x30000 then allOnes
  else if off < 0x30400 then
    let c := s.core ((off - 0x30000) / 8)
    BitVec.ofNat 64 (c.retiredLanes.toNat + c.suspect.toNat * 2 ^ 32)
  else if off < 0x40000 then allOnes
  else if off < 0x40840 then s.readRing ((off - 0x40000) / 64) ((off - 0x40000) % 64)
  else if off < 0x100000 then allOnes
  else if off < 0x110000 then
    if off % 16 = 0 then (s.timeline ((off - 0x100000) / 16)).value else 0
  else if off < 0x200000 then allOnes
  else if off < 0x210000 then s.readPrefix ((off - 0x200000) / 16) (off % 16 / 8)
  else if off < 0x400000 then allOnes
  else if off < 0x600000 then
    ((s.routes.find? (fun e => e.1 = (off - 0x400000) / 8)).map (·.2)).getD 0
  else if off < 0x800000 then allOnes
  else if off < 0x808000 then s.readDebug ((off - 0x800000) / 64) ((off - 0x800000) % 64)
  else allOnes

/-! ### The events -/

/-- TLRESET_WRITE (R420). -/
def execTlresetWrite (t : Nat) (v : BitVec 64) (s : State) : Out State Fault Refusal :=
  event (t < 4096) true s (fun _ => s.resetTimeline t v)

/-- TLVALUE_READ (R420). -/
def execTlvalueRead (t : Nat) (s : State) : Out State Fault Refusal :=
  event (t < 4096) true s (fun _ => { s with hostData := leBytes 8 (s.timeline t).value.toNat })

/-- SVCREQ_CLEAR (R421). -/
def execSvcreqClear (v : BitVec 64) (s : State) : Out State Fault Refusal := .next (s.clearService v)

/-- LANESTAT_CLEAR (R438). -/
def execLanestatClear (c : Nat) (v : BitVec 64) (s : State) : Out State Fault Refusal :=
  event (isCore c) true s (fun _ => s.clearSuspect c v)

/-- HOST_REGISTER_WRITE (R419). -/
def execHostRegisterWrite (off : Nat) (v : BitVec 64) (s : State) : Out State Fault Refusal := .next (s.barWrite off v)

/-- HOST_MEM_READ (R418): the firmware region reads as ones (R466), and a poisoned granule as the poison indication
(R426), for which no data comes. -/
def execHostMemRead (addr n : Nat) (s : State) : Out State Fault Refusal :=
  event (addr + n ≤ Config.devBytes) s.cxlmem s (fun _ =>
    if (List.range n).any (fun i => inUsableDev (addr + i) && s.damagedAt (addr + i)) then
      { s.spendTransit addr n with hostData := [] }
    else
      { s with hostData := (List.range n).map (fun i =>
          if inUsableDev (addr + i) then Memory.read s.mem (addr + i) else 0xFF) })

/-- Do bytes lie in host memory (R332)? -/
def inHostMemory (addr n : Nat) : Bool := Config.hostBase ≤ addr && addr + n ≤ Config.physEnd

/-- HOST_MEM_WRITE (R418): a write of the firmware region is ignored (R466). The host writes its own memory, from which
the device reads, with or without CXL.mem (R466, log 5). -/
def execHostMemWrite (addr : Nat) (bytes : List (BitVec 8)) (s : State) : Out State Fault Refusal :=
  if inHostMemory addr bytes.length then .next (s.writeMem addr bytes)
  else event (addr + bytes.length ≤ Config.devBytes) s.cxlmem s (fun _ =>
    s.writeMem addr (bytes.take (Config.fwBase - addr)))

/-- TLBINV (R342): this model's translations are never stale, so their removal changes nothing (log 8). -/
def execTlbinv (h : Nat) (v : BitVec 64) (s : State) : Out State Fault Refusal :=
  event (isHart h) ((s.hartAt h).sup && tlbinvOk v) s (fun _ => s)

end Sys2Proof.Machine
end

