-- ==== Sys2Proof/Machine/Vector.lean ====
section
/-! DEFINITION. The vector instructions as the scalar unit meets them: each is checked and captured at issue, and enters
the command queue (R24, R45, R79, R114); the sequencer's part of each is its member function. -/

namespace Sys2Proof.Machine

/-- VADD (R200). -/
def execVadd (d : BitVec 6) (a : BitVec 6) (b : BitVec 6) (x : BitVec 1) (y : BitVec 1) (r : BitVec 3) (s : State) : Out State Fault Refusal :=
  .next (s.issueV (.vadd d a b x y r))

/-- VSUB (R200). -/
def execVsub (d : BitVec 6) (a : BitVec 6) (b : BitVec 6) (x : BitVec 1) (y : BitVec 1) (r : BitVec 3) (s : State) : Out State Fault Refusal :=
  .next (s.issueV (.vsub d a b x y r))

/-- VMUL (R200). -/
def execVmul (d : BitVec 6) (a : BitVec 6) (b : BitVec 6) (x : BitVec 1) (y : BitVec 1) (r : BitVec 3) (s : State) : Out State Fault Refusal :=
  .next (s.issueV (.vmul d a b x y r))

/-- VMULH (R200). -/
def execVmulh (d : BitVec 6) (a : BitVec 6) (b : BitVec 6) (x : BitVec 1) (y : BitVec 1) (r : BitVec 3) (s : State) : Out State Fault Refusal :=
  .next (s.issueV (.vmulh d a b x y r))

/-- VMULHZ (R200). -/
def execVmulhz (d : BitVec 6) (a : BitVec 6) (b : BitVec 6) (x : BitVec 1) (y : BitVec 1) (r : BitVec 3) (s : State) : Out State Fault Refusal :=
  .next (s.issueV (.vmulhz d a b x y r))

/-- VMADD (R200). -/
def execVmadd (d : BitVec 6) (a : BitVec 6) (b : BitVec 6) (x : BitVec 1) (y : BitVec 1) (r : BitVec 3) (s : State) : Out State Fault Refusal :=
  .next (s.issueV (.vmadd d a b x y r))

/-- VMSUB (R200). -/
def execVmsub (d : BitVec 6) (a : BitVec 6) (b : BitVec 6) (x : BitVec 1) (y : BitVec 1) (r : BitVec 3) (s : State) : Out State Fault Refusal :=
  .next (s.issueV (.vmsub d a b x y r))

/-- VAND (R200). -/
def execVand (d : BitVec 6) (a : BitVec 6) (b : BitVec 6) (x : BitVec 1) (y : BitVec 1) (r : BitVec 3) (s : State) : Out State Fault Refusal :=
  .next (s.issueV (.vand d a b x y r))

/-- VOR (R200). -/
def execVor (d : BitVec 6) (a : BitVec 6) (b : BitVec 6) (x : BitVec 1) (y : BitVec 1) (r : BitVec 3) (s : State) : Out State Fault Refusal :=
  .next (s.issueV (.vor d a b x y r))

/-- VXOR (R200). -/
def execVxor (d : BitVec 6) (a : BitVec 6) (b : BitVec 6) (x : BitVec 1) (y : BitVec 1) (r : BitVec 3) (s : State) : Out State Fault Refusal :=
  .next (s.issueV (.vxor d a b x y r))

/-- VSLL (R200). -/
def execVsll (d : BitVec 6) (a : BitVec 6) (b : BitVec 6) (x : BitVec 1) (y : BitVec 1) (r : BitVec 3) (s : State) : Out State Fault Refusal :=
  .next (s.issueV (.vsll d a b x y r))

/-- VSRL (R200). -/
def execVsrl (d : BitVec 6) (a : BitVec 6) (b : BitVec 6) (x : BitVec 1) (y : BitVec 1) (r : BitVec 3) (s : State) : Out State Fault Refusal :=
  .next (s.issueV (.vsrl d a b x y r))

/-- VSRA (R200). -/
def execVsra (d : BitVec 6) (a : BitVec 6) (b : BitVec 6) (x : BitVec 1) (y : BitVec 1) (r : BitVec 3) (s : State) : Out State Fault Refusal :=
  .next (s.issueV (.vsra d a b x y r))

/-- VMIN (R200). -/
def execVmin (d : BitVec 6) (a : BitVec 6) (b : BitVec 6) (x : BitVec 1) (y : BitVec 1) (r : BitVec 3) (s : State) : Out State Fault Refusal :=
  .next (s.issueV (.vmin d a b x y r))

/-- VMAX (R200). -/
def execVmax (d : BitVec 6) (a : BitVec 6) (b : BitVec 6) (x : BitVec 1) (y : BitVec 1) (r : BitVec 3) (s : State) : Out State Fault Refusal :=
  .next (s.issueV (.vmax d a b x y r))

/-- VMINZ (R200). -/
def execVminz (d : BitVec 6) (a : BitVec 6) (b : BitVec 6) (x : BitVec 1) (y : BitVec 1) (r : BitVec 3) (s : State) : Out State Fault Refusal :=
  .next (s.issueV (.vminz d a b x y r))

/-- VMAXZ (R200). -/
def execVmaxz (d : BitVec 6) (a : BitVec 6) (b : BitVec 6) (x : BitVec 1) (y : BitVec 1) (r : BitVec 3) (s : State) : Out State Fault Refusal :=
  .next (s.issueV (.vmaxz d a b x y r))

/-- VSADD (R200). -/
def execVsadd (d : BitVec 6) (a : BitVec 6) (b : BitVec 6) (x : BitVec 1) (y : BitVec 1) (r : BitVec 3) (s : State) : Out State Fault Refusal :=
  .next (s.issueV (.vsadd d a b x y r))

/-- VSSUB (R200). -/
def execVssub (d : BitVec 6) (a : BitVec 6) (b : BitVec 6) (x : BitVec 1) (y : BitVec 1) (r : BitVec 3) (s : State) : Out State Fault Refusal :=
  .next (s.issueV (.vssub d a b x y r))

/-- VSADDZ (R200). -/
def execVsaddz (d : BitVec 6) (a : BitVec 6) (b : BitVec 6) (x : BitVec 1) (y : BitVec 1) (r : BitVec 3) (s : State) : Out State Fault Refusal :=
  .next (s.issueV (.vsaddz d a b x y r))

/-- VSSUBZ (R200). -/
def execVssubz (d : BitVec 6) (a : BitVec 6) (b : BitVec 6) (x : BitVec 1) (y : BitVec 1) (r : BitVec 3) (s : State) : Out State Fault Refusal :=
  .next (s.issueV (.vssubz d a b x y r))

/-- VABSD (R200). -/
def execVabsd (d : BitVec 6) (a : BitVec 6) (b : BitVec 6) (x : BitVec 1) (y : BitVec 1) (r : BitVec 3) (s : State) : Out State Fault Refusal :=
  .next (s.issueV (.vabsd d a b x y r))

/-- VFADD (R201). -/
def execVfadd (d : BitVec 6) (a : BitVec 6) (b : BitVec 6) (x : BitVec 1) (y : BitVec 1) (r : BitVec 3) (s : State) : Out State Fault Refusal :=
  .next (s.issueV (.vfadd d a b x y r))

/-- VFSUB (R201). -/
def execVfsub (d : BitVec 6) (a : BitVec 6) (b : BitVec 6) (x : BitVec 1) (y : BitVec 1) (r : BitVec 3) (s : State) : Out State Fault Refusal :=
  .next (s.issueV (.vfsub d a b x y r))

/-- VFMUL (R201). -/
def execVfmul (d : BitVec 6) (a : BitVec 6) (b : BitVec 6) (x : BitVec 1) (y : BitVec 1) (r : BitVec 3) (s : State) : Out State Fault Refusal :=
  .next (s.issueV (.vfmul d a b x y r))

/-- VFMA (R201). -/
def execVfma (d : BitVec 6) (a : BitVec 6) (b : BitVec 6) (x : BitVec 1) (y : BitVec 1) (r : BitVec 3) (s : State) : Out State Fault Refusal :=
  .next (s.issueV (.vfma d a b x y r))

/-- VFMS (R201). -/
def execVfms (d : BitVec 6) (a : BitVec 6) (b : BitVec 6) (x : BitVec 1) (y : BitVec 1) (r : BitVec 3) (s : State) : Out State Fault Refusal :=
  .next (s.issueV (.vfms d a b x y r))

/-- VFNMA (R201). -/
def execVfnma (d : BitVec 6) (a : BitVec 6) (b : BitVec 6) (x : BitVec 1) (y : BitVec 1) (r : BitVec 3) (s : State) : Out State Fault Refusal :=
  .next (s.issueV (.vfnma d a b x y r))

/-- VFDIV (R201). -/
def execVfdiv (d : BitVec 6) (a : BitVec 6) (b : BitVec 6) (x : BitVec 1) (y : BitVec 1) (r : BitVec 3) (s : State) : Out State Fault Refusal :=
  .next (s.issueV (.vfdiv d a b x y r))

/-- VFSQRT (R201). -/
def execVfsqrt (d : BitVec 6) (a : BitVec 6) (x : BitVec 1) (s : State) : Out State Fault Refusal :=
  .next (s.issueV (.vfsqrt d a x))

/-- VFMIN (R201). -/
def execVfmin (d : BitVec 6) (a : BitVec 6) (b : BitVec 6) (x : BitVec 1) (y : BitVec 1) (r : BitVec 3) (s : State) : Out State Fault Refusal :=
  .next (s.issueV (.vfmin d a b x y r))

/-- VFMAX (R201). -/
def execVfmax (d : BitVec 6) (a : BitVec 6) (b : BitVec 6) (x : BitVec 1) (y : BitVec 1) (r : BitVec 3) (s : State) : Out State Fault Refusal :=
  .next (s.issueV (.vfmax d a b x y r))

/-- VFEXP2 (R204). -/
def execVfexp2 (d : BitVec 6) (a : BitVec 6) (x : BitVec 1) (s : State) : Out State Fault Refusal :=
  .next (s.issueV (.vfexp2 d a x))

/-- VFCVT (R207). -/
def execVfcvt (d : BitVec 6) (a : BitVec 6) (k : BitVec 5) (t : BitVec 5) (x : BitVec 1) (s : State) : Out State Fault Refusal :=
  .next (s.issueV (.vfcvt d a k t x))

/-- VFCLASS (R202). -/
def execVfclass (d : BitVec 6) (a : BitVec 6) (x : BitVec 1) (s : State) : Out State Fault Refusal :=
  .next (s.issueV (.vfclass d a x))

/-- VFSGNJ (R203). -/
def execVfsgnj (d : BitVec 6) (a : BitVec 6) (b : BitVec 6) (x : BitVec 1) (y : BitVec 1) (r : BitVec 3) (s : State) : Out State Fault Refusal :=
  .next (s.issueV (.vfsgnj d a b x y r))

/-- PAND (R178). -/
def execPand (d : BitVec 5) (a : BitVec 5) (b : BitVec 5) (s : State) : Out State Fault Refusal :=
  .next (s.issueV (.pand d a b))

/-- POR (R178). -/
def execPor (d : BitVec 5) (a : BitVec 5) (b : BitVec 5) (s : State) : Out State Fault Refusal :=
  .next (s.issueV (.por d a b))

/-- PXOR (R178). -/
def execPxor (d : BitVec 5) (a : BitVec 5) (b : BitVec 5) (s : State) : Out State Fault Refusal :=
  .next (s.issueV (.pxor d a b))

/-- PANDN (R178). -/
def execPandn (d : BitVec 5) (a : BitVec 5) (b : BitVec 5) (s : State) : Out State Fault Refusal :=
  .next (s.issueV (.pandn d a b))

/-- PSET (R178). -/
def execPset (d : BitVec 5) (s : State) : Out State Fault Refusal :=
  .next (s.issueV (.pset d))

/-- PCLR (R178). -/
def execPclr (d : BitVec 5) (s : State) : Out State Fault Refusal :=
  .next (s.issueV (.pclr d))

/-- PMOV (R178). -/
def execPmov (d : BitVec 5) (a : BitVec 5) (s : State) : Out State Fault Refusal :=
  .next (s.issueV (.pmov d a))

/-- PEXITB (R180). -/
def execPexitb (d : BitVec 5) (a : BitVec 5) (s : State) : Out State Fault Refusal :=
  .next (s.issueV (.pexitb d a))

/-- PEXITA (R180). -/
def execPexita (d : BitVec 5) (a : BitVec 5) (s : State) : Out State Fault Refusal :=
  .next (s.issueV (.pexita d a))

/-- PFIRST (R178). -/
def execPfirst (g : BitVec 5) (a : BitVec 5) (s : State) : Out State Fault Refusal :=
  .next (s.issueV (.pfirst g a))

/-- PCNT (R178). -/
def execPcnt (g : BitVec 5) (a : BitVec 5) (s : State) : Out State Fault Refusal :=
  .next (s.issueV (.pcnt g a))

/-- PIDX (R178). -/
def execPidx (d : BitVec 5) (g : BitVec 5) (s : State) : Out State Fault Refusal :=
  .next (s.issueV (.pidx d g))

/-- VCMP_EQ (R179). -/
def execVcmpEq (d : BitVec 5) (a : BitVec 6) (b : BitVec 6) (x : BitVec 1) (y : BitVec 1) (r : BitVec 3) (s : State) : Out State Fault Refusal :=
  .next (s.issueV (.vcmpEq d a b x y r))

/-- VCMP_NE (R179). -/
def execVcmpNe (d : BitVec 5) (a : BitVec 6) (b : BitVec 6) (x : BitVec 1) (y : BitVec 1) (r : BitVec 3) (s : State) : Out State Fault Refusal :=
  .next (s.issueV (.vcmpNe d a b x y r))

/-- VCMP_LT (R179). -/
def execVcmpLt (d : BitVec 5) (a : BitVec 6) (b : BitVec 6) (x : BitVec 1) (y : BitVec 1) (r : BitVec 3) (s : State) : Out State Fault Refusal :=
  .next (s.issueV (.vcmpLt d a b x y r))

/-- VCMP_LE (R179). -/
def execVcmpLe (d : BitVec 5) (a : BitVec 6) (b : BitVec 6) (x : BitVec 1) (y : BitVec 1) (r : BitVec 3) (s : State) : Out State Fault Refusal :=
  .next (s.issueV (.vcmpLe d a b x y r))

/-- VCMP_LTZ (R179). -/
def execVcmpLtz (d : BitVec 5) (a : BitVec 6) (b : BitVec 6) (x : BitVec 1) (y : BitVec 1) (r : BitVec 3) (s : State) : Out State Fault Refusal :=
  .next (s.issueV (.vcmpLtz d a b x y r))

/-- VCMP_LEZ (R179). -/
def execVcmpLez (d : BitVec 5) (a : BitVec 6) (b : BitVec 6) (x : BitVec 1) (y : BitVec 1) (r : BitVec 3) (s : State) : Out State Fault Refusal :=
  .next (s.issueV (.vcmpLez d a b x y r))

/-- VFCMP_EQ (R179). -/
def execVfcmpEq (d : BitVec 5) (a : BitVec 6) (b : BitVec 6) (x : BitVec 1) (y : BitVec 1) (r : BitVec 3) (s : State) : Out State Fault Refusal :=
  .next (s.issueV (.vfcmpEq d a b x y r))

/-- VFCMP_NE (R179). -/
def execVfcmpNe (d : BitVec 5) (a : BitVec 6) (b : BitVec 6) (x : BitVec 1) (y : BitVec 1) (r : BitVec 3) (s : State) : Out State Fault Refusal :=
  .next (s.issueV (.vfcmpNe d a b x y r))

/-- VFCMP_LT (R179). -/
def execVfcmpLt (d : BitVec 5) (a : BitVec 6) (b : BitVec 6) (x : BitVec 1) (y : BitVec 1) (r : BitVec 3) (s : State) : Out State Fault Refusal :=
  .next (s.issueV (.vfcmpLt d a b x y r))

/-- VFCMP_LE (R179). -/
def execVfcmpLe (d : BitVec 5) (a : BitVec 6) (b : BitVec 6) (x : BitVec 1) (y : BitVec 1) (r : BitVec 3) (s : State) : Out State Fault Refusal :=
  .next (s.issueV (.vfcmpLe d a b x y r))

/-- VFCMP_UN (R179). -/
def execVfcmpUn (d : BitVec 5) (a : BitVec 6) (b : BitVec 6) (x : BitVec 1) (y : BitVec 1) (r : BitVec 3) (s : State) : Out State Fault Refusal :=
  .next (s.issueV (.vfcmpUn d a b x y r))

/-- VSLUP (R209). -/
def execVslup (d : BitVec 6) (a : BitVec 6) (b : BitVec 5) (k : BitVec 5) (s : State) : Out State Fault Refusal :=
  .next (s.issueV (.vslup d a b k))

/-- VSLDN (R209). -/
def execVsldn (d : BitVec 6) (a : BitVec 6) (b : BitVec 5) (k : BitVec 5) (s : State) : Out State Fault Refusal :=
  .next (s.issueV (.vsldn d a b k))

/-- VCOMPRESS (R210). -/
def execVcompress (d : BitVec 6) (a : BitVec 6) (p : BitVec 6) (s : State) : Out State Fault Refusal :=
  .next (s.issueV (.vcompress d a p))

/-- VEXPAND (R210). -/
def execVexpand (d : BitVec 6) (a : BitVec 6) (p : BitVec 6) (s : State) : Out State Fault Refusal :=
  .next (s.issueV (.vexpand d a p))

/-- VPERM (R211). -/
def execVperm (d : BitVec 6) (a : BitVec 6) (b : BitVec 6) (s : State) : Out State Fault Refusal :=
  .next (s.issueV (.vperm d a b))

/-- VID (R212). -/
def execVid (d : BitVec 6) (s : State) : Out State Fault Refusal :=
  .next (s.issueV (.vid d))

/-- VIOTA (R212). -/
def execViota (d : BitVec 6) (p : BitVec 6) (s : State) : Out State Fault Refusal :=
  .next (s.issueV (.viota d p))

/-- VMERGE (R212). -/
def execVmerge (d : BitVec 6) (a : BitVec 6) (b : BitVec 6) (x : BitVec 1) (y : BitVec 1) (r : BitVec 3) (s : State) : Out State Fault Refusal :=
  .next (s.issueV (.vmerge d a b x y r))

/-- VBCAST (R212). -/
def execVbcast (d : BitVec 6) (g : BitVec 6) (s : State) : Out State Fault Refusal :=
  .next (s.issueV (.vbcast d g))

/-- VEXTR (R212). -/
def execVextr (g : BitVec 6) (a : BitVec 6) (b : BitVec 6) (s : State) : Out State Fault Refusal :=
  .next (s.issueV (.vextr g a b))

/-- VINS (R212). -/
def execVins (d : BitVec 6) (g : BitVec 6) (b : BitVec 6) (s : State) : Out State Fault Refusal :=
  .next (s.issueV (.vins d g b))

/-- VRSUM (R213). -/
def execVrsum (d : BitVec 6) (a : BitVec 6) (s : State) : Out State Fault Refusal :=
  .next (s.issueV (.vrsum d a))

/-- VRMAX (R213). -/
def execVrmax (d : BitVec 6) (a : BitVec 6) (s : State) : Out State Fault Refusal :=
  .next (s.issueV (.vrmax d a))

/-- VRMIN (R213). -/
def execVrmin (d : BitVec 6) (a : BitVec 6) (s : State) : Out State Fault Refusal :=
  .next (s.issueV (.vrmin d a))

/-- VFRSUM (R137). -/
def execVfrsum (d : BitVec 6) (a : BitVec 6) (s : State) : Out State Fault Refusal :=
  .next (s.issueV (.vfrsum d a))

/-- VFRSUMO (R139). -/
def execVfrsumo (d : BitVec 6) (a : BitVec 6) (s : State) : Out State Fault Refusal :=
  .next (s.issueV (.vfrsumo d a))

/-- VFRMAX (R213). -/
def execVfrmax (d : BitVec 6) (a : BitVec 6) (s : State) : Out State Fault Refusal :=
  .next (s.issueV (.vfrmax d a))

/-- VFRMIN (R213). -/
def execVfrmin (d : BitVec 6) (a : BitVec 6) (s : State) : Out State Fault Refusal :=
  .next (s.issueV (.vfrmin d a))

/-- VRSCL (R214). -/
def execVrscl (d : BitVec 6) (a : BitVec 6) (b : BitVec 6) (s : State) : Out State Fault Refusal :=
  .next (s.issueV (.vrscl d a b))

/-- VARGMAX (R215). -/
def execVargmax (d : BitVec 6) (a : BitVec 6) (s : State) : Out State Fault Refusal :=
  .next (s.issueV (.vargmax d a))

/-- VPSPLIT (R216). -/
def execVpsplit (d : BitVec 6) (a : BitVec 6) (l : BitVec 3) (s : State) : Out State Fault Refusal :=
  .next (s.issueV (.vpsplit d a l))

/-- VPJOIN (R216). -/
def execVpjoin (d : BitVec 6) (a : BitVec 6) (l : BitVec 3) (s : State) : Out State Fault Refusal :=
  .next (s.issueV (.vpjoin d a l))

/-- VPADD (R217). -/
def execVpadd (d : BitVec 6) (a : BitVec 6) (x : BitVec 1) (s : State) : Out State Fault Refusal :=
  .next (s.issueV (.vpadd d a x))

/-- VLD (R224). -/
def execVld (d : BitVec 6) (a : BitVec 5) (s : State) : Out State Fault Refusal :=
  .next (s.issueV (.vld d a))

/-- VLDS (R224). -/
def execVlds (d : BitVec 6) (a : BitVec 5) (s : State) : Out State Fault Refusal :=
  .next (s.issueV (.vlds d a))

/-- VLDX (R224). -/
def execVldx (d : BitVec 6) (a : BitVec 5) (i : BitVec 6) (c : BitVec 1) (k : BitVec 2) (s : State) : Out State Fault Refusal :=
  .next (s.issueV (.vldx d a i c k))

/-- VLDF (R225). -/
def execVldf (d : BitVec 6) (a : BitVec 5) (s : State) : Out State Fault Refusal :=
  .next (s.issueV (.vldf d a))

/-- VST (R222). -/
def execVst (k : BitVec 6) (a : BitVec 5) (c : BitVec 1) (s : State) : Out State Fault Refusal :=
  .next (s.issueV (.vst k a c))

/-- VSTS (R224). -/
def execVsts (k : BitVec 6) (a : BitVec 5) (c : BitVec 1) (s : State) : Out State Fault Refusal :=
  .next (s.issueV (.vsts k a c))

/-- VSTX (R224). -/
def execVstx (q : BitVec 6) (a : BitVec 5) (i : BitVec 6) (c : BitVec 1) (k : BitVec 2) (s : State) : Out State Fault Refusal :=
  .next (s.issueV (.vstx q a i c k))

/-- VSCADD (R226). -/
def execVscadd (q : BitVec 6) (a : BitVec 5) (i : BitVec 6) (c : BitVec 1) (f : BitVec 1) (k : BitVec 2) (s : State) : Out State Fault Refusal :=
  .next (s.issueV (.vscadd q a i c f k))

/-- VMERGET (R227). -/
def execVmerget (k : BitVec 6) (a : BitVec 5) (f : BitVec 1) (s : State) : Out State Fault Refusal :=
  .next (s.issueV (.vmerget k a f))

/-- VPLD (R229). -/
def execVpld (d : BitVec 6) (a : BitVec 5) (i : BitVec 6) (p : BitVec 2) (m : BitVec 2) (s : State) : Out State Fault Refusal :=
  .next (s.issueV (.vpld d a i p m))

/-- VPST (R230). -/
def execVpst (k : BitVec 6) (a : BitVec 5) (i : BitVec 6) (p : BitVec 2) (m : BitVec 1) (s : State) : Out State Fault Refusal :=
  .next (s.issueV (.vpst k a i p m))

/-- VXPAND (R232). -/
def execVxpand (d : BitVec 6) (a : BitVec 5) (p : BitVec 2) (s : State) : Out State Fault Refusal :=
  .next (s.issueV (.vxpand d a p))

/-- VBIND (R234). -/
def execVbind (d : BitVec 6) (a : BitVec 5) (s : State) : Out State Fault Refusal :=
  .next (s.issueV (.vbind d a))

/-- VUNBIND (R238). -/
def execVunbind (d : BitVec 6) (s : State) : Out State Fault Refusal :=
  .next (s.issueV (.vunbind d))

/-- MATTACH (R241). -/
def execMattach (n : BitVec 3) (s : State) : Out State Fault Refusal :=
  .next (s.issueV (.mattach n))

/-- MDETACH (R242). -/
def execMdetach (s : State) : Out State Fault Refusal :=
  .next (s.issueV (.mdetach))

/-- MZERO (R245). -/
def execMzero (t : BitVec 2) (s : State) : Out State Fault Refusal :=
  .next (s.issueV (.mzero t))

/-- MXACC (R247). -/
def execMxacc (t : BitVec 2) (a : BitVec 6) (b : BitVec 6) (x : BitVec 1) (y : BitVec 1) (f : BitVec 4) (k : BitVec 1) (s : State) : Out State Fault Refusal :=
  .next (s.issueV (.mxacc t a b x y f k))

/-- MXSUB (R247). -/
def execMxsub (t : BitVec 2) (a : BitVec 6) (b : BitVec 6) (x : BitVec 1) (y : BitVec 1) (f : BitVec 4) (k : BitVec 1) (s : State) : Out State Fault Refusal :=
  .next (s.issueV (.mxsub t a b x y f k))

/-- MROWV (R253). -/
def execMrowv (t : BitVec 2) (d : BitVec 6) (g : BitVec 6) (s : State) : Out State Fault Refusal :=
  .next (s.issueV (.mrowv t d g))

/-- MCOLV (R253). -/
def execMcolv (t : BitVec 2) (d : BitVec 6) (g : BitVec 6) (s : State) : Out State Fault Refusal :=
  .next (s.issueV (.mcolv t d g))

/-- MVROW (R253). -/
def execMvrow (t : BitVec 2) (a : BitVec 6) (g : BitVec 6) (s : State) : Out State Fault Refusal :=
  .next (s.issueV (.mvrow t a g))

/-- MTST (R254). -/
def execMtst (t : BitVec 2) (g : BitVec 6) (s : State) : Out State Fault Refusal :=
  .next (s.issueV (.mtst t g))

/-- MTLD (R254). -/
def execMtld (t : BitVec 2) (g : BitVec 6) (s : State) : Out State Fault Refusal :=
  .next (s.issueV (.mtld t g))

/-- CPYG (R266). -/
def execCpyg (d : BitVec 5) (a : BitVec 5) (v : BitVec 6) (s : State) : Out State Fault Refusal :=
  .next (s.issueV (.cpyg d a v))

/-- VSAMPLE (R289). -/
def execVsample (d : BitVec 6) (a : BitVec 6) (b : BitVec 6) (k : BitVec 5) (s : State) : Out State Fault Refusal :=
  .next (s.issueV (.vsample d a b k))

/-- VPEN (R291). -/
def execVpen (d : BitVec 6) (a : BitVec 6) (k : BitVec 5) (s : State) : Out State Fault Refusal :=
  .next (s.issueV (.vpen d a k))

/-- GMASK (R296). -/
def execGmask (p : BitVec 6) (b : BitVec 6) (k : BitVec 5) (s : State) : Out State Fault Refusal :=
  .next (s.issueV (.gmask p b k))

/-- VHLOOK (R302). -/
def execVhlook (d : BitVec 6) (a : BitVec 6) (c : BitVec 6) (k : BitVec 5) (s : State) : Out State Fault Refusal :=
  .next (s.issueV (.vhlook d a c k))

end Sys2Proof.Machine
end

