-- ==== Sys2Proof/Machine/Dispatch.lean ====
section
/-! DEFINITION. One arm for every instruction and event of the opcode table: a direct call of its meaning. -/

namespace Sys2Proof.Machine

/-- What an instruction or event does. -/
def exec (i : Instr) (s : State) : Host.Outcome State Fault Refusal :=
  match i with
  | .add x1 x2 x3 => Sys2Proof.Machine.execAdd x1 x2 x3 s
  | .sub x1 x2 x3 => Sys2Proof.Machine.execSub x1 x2 x3 s
  | .mul x1 x2 x3 => Sys2Proof.Machine.execMul x1 x2 x3 s
  | .mulh x1 x2 x3 => Sys2Proof.Machine.execMulh x1 x2 x3 s
  | .mulhz x1 x2 x3 => Sys2Proof.Machine.execMulhz x1 x2 x3 s
  | .div x1 x2 x3 => Sys2Proof.Machine.execDiv x1 x2 x3 s
  | .divz x1 x2 x3 => Sys2Proof.Machine.execDivz x1 x2 x3 s
  | .rem x1 x2 x3 => Sys2Proof.Machine.execRem x1 x2 x3 s
  | .remz x1 x2 x3 => Sys2Proof.Machine.execRemz x1 x2 x3 s
  | .and x1 x2 x3 => Sys2Proof.Machine.execAnd x1 x2 x3 s
  | .or x1 x2 x3 => Sys2Proof.Machine.execOr x1 x2 x3 s
  | .xor x1 x2 x3 => Sys2Proof.Machine.execXor x1 x2 x3 s
  | .andn x1 x2 x3 => Sys2Proof.Machine.execAndn x1 x2 x3 s
  | .sll x1 x2 x3 => Sys2Proof.Machine.execSll x1 x2 x3 s
  | .srl x1 x2 x3 => Sys2Proof.Machine.execSrl x1 x2 x3 s
  | .sra x1 x2 x3 => Sys2Proof.Machine.execSra x1 x2 x3 s
  | .slt x1 x2 x3 => Sys2Proof.Machine.execSlt x1 x2 x3 s
  | .sltz x1 x2 x3 => Sys2Proof.Machine.execSltz x1 x2 x3 s
  | .min x1 x2 x3 => Sys2Proof.Machine.execMin x1 x2 x3 s
  | .max x1 x2 x3 => Sys2Proof.Machine.execMax x1 x2 x3 s
  | .minz x1 x2 x3 => Sys2Proof.Machine.execMinz x1 x2 x3 s
  | .maxz x1 x2 x3 => Sys2Proof.Machine.execMaxz x1 x2 x3 s
  | .clz x1 x2 => Sys2Proof.Machine.execClz x1 x2 s
  | .ctz x1 x2 => Sys2Proof.Machine.execCtz x1 x2 s
  | .popc x1 x2 => Sys2Proof.Machine.execPopc x1 x2 s
  | .movnz x1 x2 x3 => Sys2Proof.Machine.execMovnz x1 x2 x3 s
  | .fadd x1 x2 x3 x4 => Sys2Proof.Machine.execFadd x1 x2 x3 x4 s
  | .fsub x1 x2 x3 x4 => Sys2Proof.Machine.execFsub x1 x2 x3 x4 s
  | .fmul x1 x2 x3 x4 => Sys2Proof.Machine.execFmul x1 x2 x3 x4 s
  | .fma x1 x2 x3 x4 => Sys2Proof.Machine.execFma x1 x2 x3 x4 s
  | .fdiv x1 x2 x3 x4 => Sys2Proof.Machine.execFdiv x1 x2 x3 x4 s
  | .fsqrt x1 x2 x3 => Sys2Proof.Machine.execFsqrt x1 x2 x3 s
  | .fmin x1 x2 x3 x4 => Sys2Proof.Machine.execFmin x1 x2 x3 x4 s
  | .fmax x1 x2 x3 x4 => Sys2Proof.Machine.execFmax x1 x2 x3 x4 s
  | .fcmpeq x1 x2 x3 x4 => Sys2Proof.Machine.execFcmpeq x1 x2 x3 x4 s
  | .fcmplt x1 x2 x3 x4 => Sys2Proof.Machine.execFcmplt x1 x2 x3 x4 s
  | .fcmple x1 x2 x3 x4 => Sys2Proof.Machine.execFcmple x1 x2 x3 x4 s
  | .fcvt x1 x2 x3 x4 => Sys2Proof.Machine.execFcvt x1 x2 x3 x4 s
  | .fclass x1 x2 x3 => Sys2Proof.Machine.execFclass x1 x2 x3 s
  | .addi x1 x2 x3 => Sys2Proof.Machine.execAddi x1 x2 x3 s
  | .andi x1 x2 x3 => Sys2Proof.Machine.execAndi x1 x2 x3 s
  | .ori x1 x2 x3 => Sys2Proof.Machine.execOri x1 x2 x3 s
  | .xori x1 x2 x3 => Sys2Proof.Machine.execXori x1 x2 x3 s
  | .slli x1 x2 x3 => Sys2Proof.Machine.execSlli x1 x2 x3 s
  | .srli x1 x2 x3 => Sys2Proof.Machine.execSrli x1 x2 x3 s
  | .srai x1 x2 x3 => Sys2Proof.Machine.execSrai x1 x2 x3 s
  | .slti x1 x2 x3 => Sys2Proof.Machine.execSlti x1 x2 x3 s
  | .sltzi x1 x2 x3 => Sys2Proof.Machine.execSltzi x1 x2 x3 s
  | .lhi x1 x2 => Sys2Proof.Machine.execLhi x1 x2 s
  | .addpc x1 x2 => Sys2Proof.Machine.execAddpc x1 x2 s
  | .beq x1 x2 x3 => Sys2Proof.Machine.execBeq x1 x2 x3 s
  | .bne x1 x2 x3 => Sys2Proof.Machine.execBne x1 x2 x3 s
  | .blt x1 x2 x3 => Sys2Proof.Machine.execBlt x1 x2 x3 s
  | .bge x1 x2 x3 => Sys2Proof.Machine.execBge x1 x2 x3 s
  | .bltz x1 x2 x3 => Sys2Proof.Machine.execBltz x1 x2 x3 s
  | .bgez x1 x2 x3 => Sys2Proof.Machine.execBgez x1 x2 x3 s
  | .bpany x1 x2 => Sys2Proof.Machine.execBpany x1 x2 s
  | .bpnone x1 x2 => Sys2Proof.Machine.execBpnone x1 x2 s
  | .jalr x1 x2 => Sys2Proof.Machine.execJalr x1 x2 s
  | .jal x1 x2 => Sys2Proof.Machine.execJal x1 x2 s
  | .ldb x1 x2 x3 => Sys2Proof.Machine.execLdb x1 x2 x3 s
  | .ldh x1 x2 x3 => Sys2Proof.Machine.execLdh x1 x2 x3 s
  | .ldw x1 x2 x3 => Sys2Proof.Machine.execLdw x1 x2 x3 s
  | .ldd x1 x2 x3 => Sys2Proof.Machine.execLdd x1 x2 x3 s
  | .ldbz x1 x2 x3 => Sys2Proof.Machine.execLdbz x1 x2 x3 s
  | .ldhz x1 x2 x3 => Sys2Proof.Machine.execLdhz x1 x2 x3 s
  | .ldwz x1 x2 x3 => Sys2Proof.Machine.execLdwz x1 x2 x3 s
  | .stb x1 x2 x3 => Sys2Proof.Machine.execStb x1 x2 x3 s
  | .sth x1 x2 x3 => Sys2Proof.Machine.execSth x1 x2 x3 s
  | .stw x1 x2 x3 => Sys2Proof.Machine.execStw x1 x2 x3 s
  | .std x1 x2 x3 => Sys2Proof.Machine.execStd x1 x2 x3 s
  | .aadd x1 x2 x3 x4 => Sys2Proof.Machine.execAadd x1 x2 x3 x4 s
  | .aswp x1 x2 x3 x4 => Sys2Proof.Machine.execAswp x1 x2 x3 x4 s
  | .acas x1 x2 x3 x4 => Sys2Proof.Machine.execAcas x1 x2 x3 x4 s
  | .amin x1 x2 x3 x4 => Sys2Proof.Machine.execAmin x1 x2 x3 x4 s
  | .amax x1 x2 x3 x4 => Sys2Proof.Machine.execAmax x1 x2 x3 x4 s
  | .aminz x1 x2 x3 x4 => Sys2Proof.Machine.execAminz x1 x2 x3 x4 s
  | .amaxz x1 x2 x3 x4 => Sys2Proof.Machine.execAmaxz x1 x2 x3 x4 s
  | .aand x1 x2 x3 x4 => Sys2Proof.Machine.execAand x1 x2 x3 x4 s
  | .aor x1 x2 x3 x4 => Sys2Proof.Machine.execAor x1 x2 x3 x4 s
  | .axor x1 x2 x3 x4 => Sys2Proof.Machine.execAxor x1 x2 x3 x4 s
  | .crr x1 x2 => Sys2Proof.Machine.execCrr x1 x2 s
  | .crw x1 x2 => Sys2Proof.Machine.execCrw x1 x2 s
  | .crset x1 x2 => Sys2Proof.Machine.execCrset x1 x2 s
  | .crclr x1 x2 => Sys2Proof.Machine.execCrclr x1 x2 s
  | .trap x1 => Sys2Proof.Machine.execTrap x1 s
  | .eret => Sys2Proof.Machine.execEret s
  | .fence => Sys2Proof.Machine.execFence s
  | .fences => Sys2Proof.Machine.execFences s
  | .errfence => Sys2Proof.Machine.execErrfence s
  | .yield => Sys2Proof.Machine.execYield s
  | .halt => Sys2Proof.Machine.execHalt s
  | .bkpt => Sys2Proof.Machine.execBkpt s
  | .ctxsave x1 => Sys2Proof.Machine.execCtxsave x1 s
  | .ctxload x1 => Sys2Proof.Machine.execCtxload x1 s
  | .setvl x1 x2 x3 x4 => Sys2Proof.Machine.execSetvl x1 x2 x3 x4 s
  | .setvlK x1 x2 x3 x4 => Sys2Proof.Machine.execSetvlK x1 x2 x3 x4 s
  | .setvlg x1 x2 x3 x4 => Sys2Proof.Machine.execSetvlg x1 x2 x3 x4 s
  | .vadd x1 x2 x3 x4 x5 x6 => Sys2Proof.Machine.execVadd x1 x2 x3 x4 x5 x6 s
  | .vsub x1 x2 x3 x4 x5 x6 => Sys2Proof.Machine.execVsub x1 x2 x3 x4 x5 x6 s
  | .vmul x1 x2 x3 x4 x5 x6 => Sys2Proof.Machine.execVmul x1 x2 x3 x4 x5 x6 s
  | .vmulh x1 x2 x3 x4 x5 x6 => Sys2Proof.Machine.execVmulh x1 x2 x3 x4 x5 x6 s
  | .vmulhz x1 x2 x3 x4 x5 x6 => Sys2Proof.Machine.execVmulhz x1 x2 x3 x4 x5 x6 s
  | .vmadd x1 x2 x3 x4 x5 x6 => Sys2Proof.Machine.execVmadd x1 x2 x3 x4 x5 x6 s
  | .vmsub x1 x2 x3 x4 x5 x6 => Sys2Proof.Machine.execVmsub x1 x2 x3 x4 x5 x6 s
  | .vand x1 x2 x3 x4 x5 x6 => Sys2Proof.Machine.execVand x1 x2 x3 x4 x5 x6 s
  | .vor x1 x2 x3 x4 x5 x6 => Sys2Proof.Machine.execVor x1 x2 x3 x4 x5 x6 s
  | .vxor x1 x2 x3 x4 x5 x6 => Sys2Proof.Machine.execVxor x1 x2 x3 x4 x5 x6 s
  | .vsll x1 x2 x3 x4 x5 x6 => Sys2Proof.Machine.execVsll x1 x2 x3 x4 x5 x6 s
  | .vsrl x1 x2 x3 x4 x5 x6 => Sys2Proof.Machine.execVsrl x1 x2 x3 x4 x5 x6 s
  | .vsra x1 x2 x3 x4 x5 x6 => Sys2Proof.Machine.execVsra x1 x2 x3 x4 x5 x6 s
  | .vmin x1 x2 x3 x4 x5 x6 => Sys2Proof.Machine.execVmin x1 x2 x3 x4 x5 x6 s
  | .vmax x1 x2 x3 x4 x5 x6 => Sys2Proof.Machine.execVmax x1 x2 x3 x4 x5 x6 s
  | .vminz x1 x2 x3 x4 x5 x6 => Sys2Proof.Machine.execVminz x1 x2 x3 x4 x5 x6 s
  | .vmaxz x1 x2 x3 x4 x5 x6 => Sys2Proof.Machine.execVmaxz x1 x2 x3 x4 x5 x6 s
  | .vsadd x1 x2 x3 x4 x5 x6 => Sys2Proof.Machine.execVsadd x1 x2 x3 x4 x5 x6 s
  | .vssub x1 x2 x3 x4 x5 x6 => Sys2Proof.Machine.execVssub x1 x2 x3 x4 x5 x6 s
  | .vsaddz x1 x2 x3 x4 x5 x6 => Sys2Proof.Machine.execVsaddz x1 x2 x3 x4 x5 x6 s
  | .vssubz x1 x2 x3 x4 x5 x6 => Sys2Proof.Machine.execVssubz x1 x2 x3 x4 x5 x6 s
  | .vabsd x1 x2 x3 x4 x5 x6 => Sys2Proof.Machine.execVabsd x1 x2 x3 x4 x5 x6 s
  | .vfadd x1 x2 x3 x4 x5 x6 => Sys2Proof.Machine.execVfadd x1 x2 x3 x4 x5 x6 s
  | .vfsub x1 x2 x3 x4 x5 x6 => Sys2Proof.Machine.execVfsub x1 x2 x3 x4 x5 x6 s
  | .vfmul x1 x2 x3 x4 x5 x6 => Sys2Proof.Machine.execVfmul x1 x2 x3 x4 x5 x6 s
  | .vfma x1 x2 x3 x4 x5 x6 => Sys2Proof.Machine.execVfma x1 x2 x3 x4 x5 x6 s
  | .vfms x1 x2 x3 x4 x5 x6 => Sys2Proof.Machine.execVfms x1 x2 x3 x4 x5 x6 s
  | .vfnma x1 x2 x3 x4 x5 x6 => Sys2Proof.Machine.execVfnma x1 x2 x3 x4 x5 x6 s
  | .vfdiv x1 x2 x3 x4 x5 x6 => Sys2Proof.Machine.execVfdiv x1 x2 x3 x4 x5 x6 s
  | .vfsqrt x1 x2 x3 => Sys2Proof.Machine.execVfsqrt x1 x2 x3 s
  | .vfmin x1 x2 x3 x4 x5 x6 => Sys2Proof.Machine.execVfmin x1 x2 x3 x4 x5 x6 s
  | .vfmax x1 x2 x3 x4 x5 x6 => Sys2Proof.Machine.execVfmax x1 x2 x3 x4 x5 x6 s
  | .vfexp2 x1 x2 x3 => Sys2Proof.Machine.execVfexp2 x1 x2 x3 s
  | .vfcvt x1 x2 x3 x4 x5 => Sys2Proof.Machine.execVfcvt x1 x2 x3 x4 x5 s
  | .vfclass x1 x2 x3 => Sys2Proof.Machine.execVfclass x1 x2 x3 s
  | .vfsgnj x1 x2 x3 x4 x5 x6 => Sys2Proof.Machine.execVfsgnj x1 x2 x3 x4 x5 x6 s
  | .pand x1 x2 x3 => Sys2Proof.Machine.execPand x1 x2 x3 s
  | .por x1 x2 x3 => Sys2Proof.Machine.execPor x1 x2 x3 s
  | .pxor x1 x2 x3 => Sys2Proof.Machine.execPxor x1 x2 x3 s
  | .pandn x1 x2 x3 => Sys2Proof.Machine.execPandn x1 x2 x3 s
  | .pset x1 => Sys2Proof.Machine.execPset x1 s
  | .pclr x1 => Sys2Proof.Machine.execPclr x1 s
  | .pmov x1 x2 => Sys2Proof.Machine.execPmov x1 x2 s
  | .pexitb x1 x2 => Sys2Proof.Machine.execPexitb x1 x2 s
  | .pexita x1 x2 => Sys2Proof.Machine.execPexita x1 x2 s
  | .pfirst x1 x2 => Sys2Proof.Machine.execPfirst x1 x2 s
  | .pcnt x1 x2 => Sys2Proof.Machine.execPcnt x1 x2 s
  | .pidx x1 x2 => Sys2Proof.Machine.execPidx x1 x2 s
  | .vcmpEq x1 x2 x3 x4 x5 x6 => Sys2Proof.Machine.execVcmpEq x1 x2 x3 x4 x5 x6 s
  | .vcmpNe x1 x2 x3 x4 x5 x6 => Sys2Proof.Machine.execVcmpNe x1 x2 x3 x4 x5 x6 s
  | .vcmpLt x1 x2 x3 x4 x5 x6 => Sys2Proof.Machine.execVcmpLt x1 x2 x3 x4 x5 x6 s
  | .vcmpLe x1 x2 x3 x4 x5 x6 => Sys2Proof.Machine.execVcmpLe x1 x2 x3 x4 x5 x6 s
  | .vcmpLtz x1 x2 x3 x4 x5 x6 => Sys2Proof.Machine.execVcmpLtz x1 x2 x3 x4 x5 x6 s
  | .vcmpLez x1 x2 x3 x4 x5 x6 => Sys2Proof.Machine.execVcmpLez x1 x2 x3 x4 x5 x6 s
  | .vfcmpEq x1 x2 x3 x4 x5 x6 => Sys2Proof.Machine.execVfcmpEq x1 x2 x3 x4 x5 x6 s
  | .vfcmpNe x1 x2 x3 x4 x5 x6 => Sys2Proof.Machine.execVfcmpNe x1 x2 x3 x4 x5 x6 s
  | .vfcmpLt x1 x2 x3 x4 x5 x6 => Sys2Proof.Machine.execVfcmpLt x1 x2 x3 x4 x5 x6 s
  | .vfcmpLe x1 x2 x3 x4 x5 x6 => Sys2Proof.Machine.execVfcmpLe x1 x2 x3 x4 x5 x6 s
  | .vfcmpUn x1 x2 x3 x4 x5 x6 => Sys2Proof.Machine.execVfcmpUn x1 x2 x3 x4 x5 x6 s
  | .vslup x1 x2 x3 x4 => Sys2Proof.Machine.execVslup x1 x2 x3 x4 s
  | .vsldn x1 x2 x3 x4 => Sys2Proof.Machine.execVsldn x1 x2 x3 x4 s
  | .vcompress x1 x2 x3 => Sys2Proof.Machine.execVcompress x1 x2 x3 s
  | .vexpand x1 x2 x3 => Sys2Proof.Machine.execVexpand x1 x2 x3 s
  | .vperm x1 x2 x3 => Sys2Proof.Machine.execVperm x1 x2 x3 s
  | .vid x1 => Sys2Proof.Machine.execVid x1 s
  | .viota x1 x2 => Sys2Proof.Machine.execViota x1 x2 s
  | .vmerge x1 x2 x3 x4 x5 x6 => Sys2Proof.Machine.execVmerge x1 x2 x3 x4 x5 x6 s
  | .vbcast x1 x2 => Sys2Proof.Machine.execVbcast x1 x2 s
  | .vextr x1 x2 x3 => Sys2Proof.Machine.execVextr x1 x2 x3 s
  | .vins x1 x2 x3 => Sys2Proof.Machine.execVins x1 x2 x3 s
  | .vrsum x1 x2 => Sys2Proof.Machine.execVrsum x1 x2 s
  | .vrmax x1 x2 => Sys2Proof.Machine.execVrmax x1 x2 s
  | .vrmin x1 x2 => Sys2Proof.Machine.execVrmin x1 x2 s
  | .vfrsum x1 x2 => Sys2Proof.Machine.execVfrsum x1 x2 s
  | .vfrsumo x1 x2 => Sys2Proof.Machine.execVfrsumo x1 x2 s
  | .vfrmax x1 x2 => Sys2Proof.Machine.execVfrmax x1 x2 s
  | .vfrmin x1 x2 => Sys2Proof.Machine.execVfrmin x1 x2 s
  | .vrscl x1 x2 x3 => Sys2Proof.Machine.execVrscl x1 x2 x3 s
  | .vargmax x1 x2 => Sys2Proof.Machine.execVargmax x1 x2 s
  | .vpsplit x1 x2 x3 => Sys2Proof.Machine.execVpsplit x1 x2 x3 s
  | .vpjoin x1 x2 x3 => Sys2Proof.Machine.execVpjoin x1 x2 x3 s
  | .vpadd x1 x2 x3 => Sys2Proof.Machine.execVpadd x1 x2 x3 s
  | .vld x1 x2 => Sys2Proof.Machine.execVld x1 x2 s
  | .vlds x1 x2 => Sys2Proof.Machine.execVlds x1 x2 s
  | .vldx x1 x2 x3 x4 x5 => Sys2Proof.Machine.execVldx x1 x2 x3 x4 x5 s
  | .vldf x1 x2 => Sys2Proof.Machine.execVldf x1 x2 s
  | .vst x1 x2 x3 => Sys2Proof.Machine.execVst x1 x2 x3 s
  | .vsts x1 x2 x3 => Sys2Proof.Machine.execVsts x1 x2 x3 s
  | .vstx x1 x2 x3 x4 x5 => Sys2Proof.Machine.execVstx x1 x2 x3 x4 x5 s
  | .vscadd x1 x2 x3 x4 x5 x6 => Sys2Proof.Machine.execVscadd x1 x2 x3 x4 x5 x6 s
  | .vmerget x1 x2 x3 => Sys2Proof.Machine.execVmerget x1 x2 x3 s
  | .vpld x1 x2 x3 x4 x5 => Sys2Proof.Machine.execVpld x1 x2 x3 x4 x5 s
  | .vpst x1 x2 x3 x4 x5 => Sys2Proof.Machine.execVpst x1 x2 x3 x4 x5 s
  | .vxpand x1 x2 x3 => Sys2Proof.Machine.execVxpand x1 x2 x3 s
  | .vbind x1 x2 => Sys2Proof.Machine.execVbind x1 x2 s
  | .vunbind x1 => Sys2Proof.Machine.execVunbind x1 s
  | .mattach x1 => Sys2Proof.Machine.execMattach x1 s
  | .mdetach => Sys2Proof.Machine.execMdetach s
  | .mzero x1 => Sys2Proof.Machine.execMzero x1 s
  | .mxacc x1 x2 x3 x4 x5 x6 x7 => Sys2Proof.Machine.execMxacc x1 x2 x3 x4 x5 x6 x7 s
  | .mxsub x1 x2 x3 x4 x5 x6 x7 => Sys2Proof.Machine.execMxsub x1 x2 x3 x4 x5 x6 x7 s
  | .mrowv x1 x2 x3 => Sys2Proof.Machine.execMrowv x1 x2 x3 s
  | .mcolv x1 x2 x3 => Sys2Proof.Machine.execMcolv x1 x2 x3 s
  | .mvrow x1 x2 x3 => Sys2Proof.Machine.execMvrow x1 x2 x3 s
  | .mtst x1 x2 => Sys2Proof.Machine.execMtst x1 x2 s
  | .mtld x1 x2 => Sys2Proof.Machine.execMtld x1 x2 s
  | .cpy x1 x2 x3 x4 => Sys2Proof.Machine.execCpy x1 x2 x3 x4 s
  | .cpyg x1 x2 x3 => Sys2Proof.Machine.execCpyg x1 x2 x3 s
  | .cpyx x1 x2 => Sys2Proof.Machine.execCpyx x1 x2 s
  | .kzone x1 x2 x3 => Sys2Proof.Machine.execKzone x1 x2 x3 s
  | .krsv x1 x2 x3 => Sys2Proof.Machine.execKrsv x1 x2 x3 s
  | .ksend x1 x2 x3 x4 x5 => Sys2Proof.Machine.execKsend x1 x2 x3 x4 x5 s
  | .kwait x1 x2 x3 => Sys2Proof.Machine.execKwait x1 x2 x3 s
  | .krel x1 x2 => Sys2Proof.Machine.execKrel x1 x2 s
  | .kstat x1 x2 x3 => Sys2Proof.Machine.execKstat x1 x2 x3 s
  | .tlrd x1 x2 => Sys2Proof.Machine.execTlrd x1 x2 s
  | .tlwait x1 x2 x3 => Sys2Proof.Machine.execTlwait x1 x2 x3 s
  | .tlsig x1 x2 => Sys2Proof.Machine.execTlsig x1 x2 s
  | .launch x1 x2 => Sys2Proof.Machine.execLaunch x1 x2 s
  | .waitslot => Sys2Proof.Machine.execWaitslot s
  | .post x1 x2 => Sys2Proof.Machine.execPost x1 x2 s
  | .wait x1 x2 => Sys2Proof.Machine.execWait x1 x2 s
  | .gbarw x1 => Sys2Proof.Machine.execGbarw x1 s
  | .barinit x1 x2 => Sys2Proof.Machine.execBarinit x1 x2 s
  | .barwait x1 x2 => Sys2Proof.Machine.execBarwait x1 x2 s
  | .vsample x1 x2 x3 x4 => Sys2Proof.Machine.execVsample x1 x2 x3 x4 s
  | .vpen x1 x2 x3 => Sys2Proof.Machine.execVpen x1 x2 x3 s
  | .gmask x1 x2 x3 => Sys2Proof.Machine.execGmask x1 x2 x3 s
  | .gadv x1 x2 x3 => Sys2Proof.Machine.execGadv x1 x2 x3 s
  | .gstat x1 x2 => Sys2Proof.Machine.execGstat x1 x2 s
  | .stopm x1 x2 x3 => Sys2Proof.Machine.execStopm x1 x2 x3 s
  | .vhlook x1 x2 x3 x4 => Sys2Proof.Machine.execVhlook x1 x2 x3 x4 s
  | .pfxh x1 x2 x3 => Sys2Proof.Machine.execPfxh x1 x2 x3 s
  | .pfxlk x1 x2 x3 x4 => Sys2Proof.Machine.execPfxlk x1 x2 x3 x4 s
  | .pfxpin x1 x2 x3 => Sys2Proof.Machine.execPfxpin x1 x2 x3 s
  | .pfxins x1 x2 x3 => Sys2Proof.Machine.execPfxins x1 x2 x3 s
  | .pfxunpin x1 x2 x3 => Sys2Proof.Machine.execPfxunpin x1 x2 x3 s
  | .ngput x1 x2 => Sys2Proof.Machine.execNgput x1 x2 s
  | .ngget x1 x2 x3 => Sys2Proof.Machine.execNgget x1 x2 x3 s
  | .convoyStart x1 => Sys2Proof.Machine.execConvoyStart x1 s
  | .issuePromotion x1 => Sys2Proof.Machine.execIssuePromotion x1 s
  | .breakResolve x1 => Sys2Proof.Machine.execBreakResolve x1 s
  | .commitFrontAdvance x1 => Sys2Proof.Machine.execCommitFrontAdvance x1 s
  | .heldEntryEnter x1 => Sys2Proof.Machine.execHeldEntryEnter x1 s
  | .streamDelivery x1 => Sys2Proof.Machine.execStreamDelivery x1 s
  | .streamBlockDecode x1 x2 => Sys2Proof.Machine.execStreamBlockDecode x1 x2 s
  | .copyFinish x1 x2 => Sys2Proof.Machine.execCopyFinish x1 x2 s
  | .reservation x1 x2 x3 => Sys2Proof.Machine.execReservation x1 x2 x3 s
  | .reply x1 x2 x3 x4 => Sys2Proof.Machine.execReply x1 x2 x3 x4 s
  | .messageHead x1 x2 x3 x4 x5 x6 => Sys2Proof.Machine.execMessageHead x1 x2 x3 x4 x5 x6 s
  | .messageData x1 x2 x3 x4 x5 x6 x7 => Sys2Proof.Machine.execMessageData x1 x2 x3 x4 x5 x6 x7 s
  | .messageLast x1 x2 x3 x4 => Sys2Proof.Machine.execMessageLast x1 x2 x3 x4 s
  | .completion x1 => Sys2Proof.Machine.execCompletion x1 s
  | .kiteRejection x1 x2 => Sys2Proof.Machine.execKiteRejection x1 x2 s
  | .pathDown x1 x2 => Sys2Proof.Machine.execPathDown x1 x2 s
  | .pathTimeout x1 x2 => Sys2Proof.Machine.execPathTimeout x1 x2 s
  | .flitReplay x1 => Sys2Proof.Machine.execFlitReplay x1 s
  | .linkDown x1 => Sys2Proof.Machine.execLinkDown x1 s
  | .linkUp x1 => Sys2Proof.Machine.execLinkUp x1 s
  | .frameRetransmit x1 x2 => Sys2Proof.Machine.execFrameRetransmit x1 x2 s
  | .ethernetFrame x1 x2 => Sys2Proof.Machine.execEthernetFrame x1 x2 s
  | .tailWrite x1 x2 => Sys2Proof.Machine.execTailWrite x1 x2 s
  | .qenableWrite x1 x2 => Sys2Proof.Machine.execQenableWrite x1 x2 s
  | .recordIntake x1 => Sys2Proof.Machine.execRecordIntake x1 s
  | .launchEligible x1 => Sys2Proof.Machine.execLaunchEligible x1 s
  | .gangDispatch => Sys2Proof.Machine.execGangDispatch s
  | .candidateBlocking => Sys2Proof.Machine.execCandidateBlocking s
  | .preemption => Sys2Proof.Machine.execPreemption s
  | .preemptCommitFront x1 => Sys2Proof.Machine.execPreemptCommitFront x1 s
  | .swapOut => Sys2Proof.Machine.execSwapOut s
  | .gangResumable x1 x2 => Sys2Proof.Machine.execGangResumable x1 x2 s
  | .laneGroupTimeout x1 => Sys2Proof.Machine.execLaneGroupTimeout x1 s
  | .launchComplete x1 => Sys2Proof.Machine.execLaunchComplete x1 s
  | .killWrite x1 => Sys2Proof.Machine.execKillWrite x1 s
  | .tlresetWrite x1 x2 => Sys2Proof.Machine.execTlresetWrite x1 x2 s
  | .tlvalueRead x1 => Sys2Proof.Machine.execTlvalueRead x1 s
  | .svcreqClear x1 => Sys2Proof.Machine.execSvcreqClear x1 s
  | .lanestatClear x1 x2 => Sys2Proof.Machine.execLanestatClear x1 x2 s
  | .hostRegisterWrite x1 x2 => Sys2Proof.Machine.execHostRegisterWrite x1 x2 s
  | .hostMemRead x1 x2 => Sys2Proof.Machine.execHostMemRead x1 x2 s
  | .hostMemWrite x1 x2 => Sys2Proof.Machine.execHostMemWrite x1 x2 s
  | .tlbinv x1 x2 => Sys2Proof.Machine.execTlbinv x1 x2 s
  | .scrub x1 => Sys2Proof.Machine.execScrub x1 s
  | .coreRetire x1 => Sys2Proof.Machine.execCoreRetire x1 s
  | .dctlHalt x1 => Sys2Proof.Machine.execDctlHalt x1 s
  | .dctlGo x1 => Sys2Proof.Machine.execDctlGo x1 s
  | .dctlStep x1 => Sys2Proof.Machine.execDctlStep x1 s
  | .stepHalt x1 => Sys2Proof.Machine.execStepHalt x1 s
  | .dimgSave x1 x2 => Sys2Proof.Machine.execDimgSave x1 x2 s
  | .dimgLoad x1 x2 => Sys2Proof.Machine.execDimgLoad x1 x2 s
  | .dimgComplete x1 => Sys2Proof.Machine.execDimgComplete x1 s
  | .sample x1 => Sys2Proof.Machine.execSample x1 s
  | .traceRecordWrite x1 => Sys2Proof.Machine.execTraceRecordWrite x1 s
  | .trheadRead x1 => Sys2Proof.Machine.execTrheadRead x1 s
  | .flueDrainTimeout x1 => Sys2Proof.Machine.execFlueDrainTimeout x1 s
  | .energyWindow x1 x2 x3 => Sys2Proof.Machine.execEnergyWindow x1 x2 x3 s
  | .damperTrip x1 => Sys2Proof.Machine.execDamperTrip x1 s
  | .damperRecover x1 => Sys2Proof.Machine.execDamperRecover x1 s
  | .powerCapStep x1 => Sys2Proof.Machine.execPowerCapStep x1 s
  | .thermalThreshold x1 => Sys2Proof.Machine.execThermalThreshold x1 s
  | .hearthPowerGate x1 => Sys2Proof.Machine.execHearthPowerGate x1 s
  | .hearthPowerUp x1 => Sys2Proof.Machine.execHearthPowerUp x1 s
  | .pgateWrite x1 => Sys2Proof.Machine.execPgateWrite x1 s
  | .deviceReset => Sys2Proof.Machine.execDeviceReset s
  | .resetWrite x1 => Sys2Proof.Machine.execResetWrite x1 s
  | .firmwareLoad x1 => Sys2Proof.Machine.execFirmwareLoad x1 s
  | .firmwareLoadDone x1 => Sys2Proof.Machine.execFirmwareLoadDone x1 s
  | .arithmeticClock x1 => Sys2Proof.Machine.execArithmeticClock x1 s
  | .tscIncrement => Sys2Proof.Machine.execTscIncrement s
  | .streamFetch x1 x2 x3 => Sys2Proof.Machine.execStreamFetch x1 x2 x3 s

end Sys2Proof.Machine
end

