-- ==== Sys2Proof/Machine/Agents.lean ====
section
/-! DEFINITION. Which agent of the device moves next when no event has come from outside (log 4): what the device does of
its own accord, then the harts in turn, then the timestamp. -/

namespace Sys2Proof.Machine

/-! ### The device -/

/-- The harts that launches are placed on. -/
def State.placed (s : State) : List Nat := s.launches.flatMap (fun (l : Launch) => l.gangs.flatMap Gang.harts)

/-- A halt that is due: by STEP, or by a request made before the hart was placed (R442). -/
def State.dueHalt (s : State) : Option State :=
  s.placed.findSome? (fun h =>
    let x := s.hartAt h
    if x.stepDue then some (s.asHart h (fun s => s.haltFor causeStep))
    else if x.dbg.haltReq && !x.dbg.halted then some (s.asHart h (fun s => s.haltFor causeHalt))
    else none)

/-- The oldest message of the internal fabric arrives. -/
def State.dueMessage (s : State) : Option State :=
  match s.fabric with
  | [] => none
  | m :: ms => some ({ s with fabric := ms }.receive m)

/-- The oldest operation of a copy engine ends. -/
def State.dueCopy (s : State) : Option State :=
  (s.cores.toList.findIdx? (fun c => !c.copies.isEmpty)).map (fun c => s.finishCopy c 0)

/-- The next record of a launch queue is taken in. -/
def State.dueIntake (s : State) : Option State :=
  if !s.ready then none
  else
    match s.nextQueue with
    | none => none
    | some q => if s.mayTake q then some (s.intake q) else none

/-- A launch becomes eligible, or completes. -/
def State.dueLaunch (s : State) : Option State :=
  s.launches.findSome? (fun l =>
    if s.becomesEligible l then some (s.modLaunch l.serial (fun l => { l with state := .eligible }))
    else if s.completes l then some (s.complete l)
    else none)

/-- A saved gang becomes resumable. -/
def State.dueWake (s : State) : Option State :=
  s.launches.findSome? (fun l => l.gangs.findSome? (fun g =>
    if s.gangWakes l.serial g.index then
      some (s.modGang l.serial g.index (fun g => { g with state := .resumable }))
    else none))

/-- A gang is placed, or its hearth is powered for it. -/
def State.duePlacement (s : State) : Option State :=
  if s.noDispatch then none
  else
    s.firstFit.map (fun (c, k) => if (s.hearth k).gated then s.powerUp k else s.placeCand c k)

/-- Room is made for a candidate: gangs that are wholly parked leave first. -/
def State.dueRoom (s : State) : Option State :=
  match s.nextSwap with
  | some vs => some (vs.foldl (fun s v => s.stopGang v true) s)
  | none => s.nextPreemption.map (fun vs => vs.foldl (fun s v => s.stopGang v false) s)

/-- A hart that has been asked to stop for 20 µs stops at its commit front. -/
def State.dueStop (s : State) : Option State :=
  s.placed.findSome? (fun h =>
    let x := s.hartAt h
    match x.stopping with
    | some t => if 20000 ≤ (s.tsc - t).toNat && !x.sup && !x.dbg.halted then some (s.saveHart h 2) else none
    | none => none)

/-- A candidate that has been passed over for 10 µs blocks. -/
def State.dueBlock (s : State) : Option State :=
  match s.candidates.find? (fun c => s.passedFor c 10000) with
  | none => none
  | some c => if s.blocker.isSome then none else some { s with blocking := some (c.serial, c.gang) }

/-- A placed hart that has waited 20 µs for its first lane group takes one. -/
def State.dueGroup (s : State) : Option State :=
  s.placed.findSome? (fun h => (s.groupFor (coreOf h)).map (fun g => s.giveGroup (coreOf h) g))

/-- A waiting entry enters its buffer (R185). -/
def State.dueEntry (s : State) : Option State :=
  (s.placed.find? s.entryEnters).map s.enterWaiting

/-- What the device does of its own accord. -/
def State.due (s : State) : Option State :=
  [s.dueHalt, s.dueMessage, s.dueCopy, s.dueIntake, s.dueLaunch, s.dueWake, s.duePlacement, s.dueStop, s.dueGroup,
    s.dueEntry, s.dueRoom, s.dueBlock].findSome? id

/-- A stream that runs while no hart can move goes on (R233). -/
def State.dueStream (s : State) : Option State :=
  s.placed.findSome? (fun h =>
    ((s.hartAt h).binds.findIdx? (fun b => b.status = 1)).map (fun i => s.streamStep h i 1))

/-! ### The harts -/

/-- Can a placed hart move: it holds a lane group (R387), is not halted, and is not parked in a wait that goes on? A hart
whose store waits for room in its buffer moves only to take up what it has queued (R185). -/
def State.runnable (s : State) (h : Nat) : Bool :=
  let x := s.hartAt h
  x.place.isSome && !x.dbg.halted && s.lgrant h ≠ 0 && (x.waiting.isEmpty || { s with cur := h }.convoyDue) &&
    (match x.wait with
     | none => true
     | some w => s.waitOver x w)

/-- The next hart in turn after the one that moved last. -/
def State.nextHart (s : State) : Option Nat :=
  let hs := s.placed.filter s.runnable
  match (hs.filter (fun h => s.cur < h)).min? with
  | some h => some h
  | none => hs.min?

/-- The core of the executing hart takes up the convoy that it picks (R383); none is due where it picks none. -/
def State.takeUpPicked (s : State) : State :=
  match s.convoyPick with
  | some p => s.asHart p State.takeUp
  | none => s

/-- The word at the pc has been fetched: a handler's first word is behind it (R319). -/
def State.fetched (s : State) : State := s.modHart (fun h => { h with entering := false })

/-- The executing hart meets a fetch that faults (R158, R319). -/
def State.fetchFault (s : State) (cause : Nat) : State :=
  if s.hart.entering then s.killMine 2 s.hart.pc else s.trapAfter cause s.hart.pc

/-- The executing hart runs the word at its pc. -/
def State.runWord (s : State) : Out State Fault Refusal :=
  match s.fetch s.hart.pc with
  | .word w =>
    match decode w with
    | some i => exec i s.fetched
    | none => .next (s.fetched.trapAfter causeIllegal (w.setWidth 64))
  | .fault c => .next (s.fetchFault c)
  | .poisoned => .next (s.killMine 1 s.hart.pc)
  | .damaged => .next (s.killMine 1 s.hart.pc)

/-- The executing hart moves: its wait ends, or an error in its registers takes its launch (R430), or its sequencer
takes up what is queued, or its next word runs. -/
def State.runHart (s : State) : Out State Fault Refusal :=
  match s.hart.wait with
  | some w => .next (s.endWait w)
  | none =>
    if s.hart.regError then .next (s.killForRegisters s.cur)
    else if s.convoyDue then .next s.takeUpPicked
    else s.runWord

/-- The machine with hart h moving. -/
def State.turn (s : State) (h : Nat) : State := { s with cur := h, ticked := false }

/-- The timestamp advances in its turn. -/
def State.tickTurn (s : State) : State := { s.tick with ticked := true }

/-- The hart that moves in this step; none where the timestamp does. -/
def State.mover (s : State) : Option Nat :=
  match s.nextHart with
  | none => none
  | some h => if h ≤ s.cur && !s.ticked then none else some h

/-- A step in which no event has come and the device has nothing due. -/
def State.runTurn (s : State) : Out State Fault Refusal :=
  match s.turns with
  | h :: hs =>
    if s.runnable h && s.placed.contains h then ({ s with turns := hs }.turn h).runHart
    else .next { s with turns := hs }
  | [] =>
    match s.mover with
    | some h => (s.turn h).runHart
    | none =>
      match s.nextHart, s.dueStream with
      | none, some t => .next t
      | _, _ => .next s.tickTurn

/-- One step of the machine: an event that has come, what the device has due, or a turn. -/
def State.advanceAgent (s : State) : Out State Fault Refusal :=
  match s.inbox with
  | i :: is => exec i { s with inbox := is }
  | [] =>
    match s.due with
    | some t => .next t
    | none => s.runTurn

/-! ### A program in place -/

/-- The location from which the next step fetches; none where the next step is no fetch of a word in memory. -/
def State.fetchLoc (s : State) : Option Nat :=
  if !s.inbox.isEmpty || s.due.isSome || !s.turns.isEmpty then none
  else
    match s.mover with
    | none => none
    | some h =>
      let t := s.turn h
      if t.hart.wait.isSome || t.hart.regError || t.convoyDue then none
      else
        match t.xlate .scalar .fetch t.hart.pc with
        | .at loc _ => some loc
        | _ => none

/-- A launch of one hart, running at an address under a translation root. -/
def soloLaunch (entry : Word) (root : Nat) : Launch :=
  { serial := 1, entry := entry, param := 0, compl := 0, w0tl := noTl, w0val := 0, w1tl := noTl, w1val := 0, ctl := noTl,
    ticket := 0, gsize := 1, gcount := 1, prio := 0, mirror := false, rewind := true, charged := false, tag := 0,
    asid := 0, root := root, tvec := 0, queue := none, parentHearth := none, state := .running, inPool := false,
    kill := none, tstart := 0
    gangs := [{ index := 0, hearth := 0, ranks := [.on 0], state := .running, phase := 0, arrived := 0, ggrant := 0,
                ring := [], swapped := false, passedSince := none }]
    nextGang := 1, energy := 0, passedSince := none }

/-- Where the program of `solo` lies, at a virtual and a physical address that are the same. -/
def soloEntry : Nat := 0x10000

/-- The tables of `solo`: a level-0 entry at 0x1000, and a leaf of 1 GiB at 0x2000 that maps the first GiB onto itself
with every permission (R334, R335). -/
def soloTables (m : List Host.Cell) : List Host.Cell :=
  Memory.writes (Memory.writes m 0x1000 (leBytes 8 0x2001)) 0x2000 (leBytes 8 0x3F)

/-- The machine with one launch running on hart 0 and nothing else under way: what a host's launch of a program comes to
(log 5). -/
def State.solo (s : State) : State :=
  let p : Place := { serial := 1, gang := 0, rank := 0 }
  let l := soloLaunch (BitVec.ofNat 64 soloEntry) 0x1000
  { s with
    harts := s.harts.setIfInBounds 0 { Hart.reset with
      pc := BitVec.ofNat 64 soloEntry, place := some p, sscratch := (s.hartAt 0).sscratch }
    cores := (s.cores.map (fun c => { c with copies := [] })).setIfInBounds 0
      { s.core 0 with copies := [], groups := (Core.reset.groups).setIfInBounds 0 (.holds 0), retired := false }
    mem := soloTables s.mem, poison := [], transit := [], launches := [l], fabric := [], inbox := [], turns := []
    kites := [], ready := false, blocking := none, cur := 0, ticked := true }

/-- Bytes put in place at a location. -/
def State.put (s : State) (loc : Nat) (bs : List Byte) : State := { s with mem := Memory.writes s.mem loc bs }

end Sys2Proof.Machine
end

