-- ==== Sys2Proof/Machine/Step.lean ====
section
/-! DEFINITION. One step of the machine, and a word put where the next step fetches. -/

namespace Sys2Proof.Machine

/-- One step (log 4): an event that has come, else what the device has due, else the next hart in turn. -/
def step (s : State) : Host.Outcome State Fault Refusal := s.advanceAgent

/-- The machine with a word where the next step fetches its instruction (log 5). -/
def State.withFetchWord (s : State) (_nbits w : Nat) : State :=
  match s.fetchLoc with
  | some loc => s.put loc (wordBytes (BitVec.ofNat 32 w))
  | none => s.solo.put soloEntry (wordBytes (BitVec.ofNat 32 w))

end Sys2Proof.Machine
end

