-- ==== Sys2Proof/Certificates/Slice0/Obligations.lean ====
section
/-! DEFINITION. The statements for the provers, and the words they are stated in. -/

namespace Sys2Proof.Stated

open Sys2Proof.Machine

/-! ### Words of the statements -/

/-- Instruction i, executed in s, answers a next state for which P holds. -/
def Completes (i : Instr) (s : State) (P : State → Prop) : Prop := ∃ t, exec i s = .next t ∧ P t

/-- The executing hart exists, and its next scalar word waits for no queued instruction: it is in supervisor mode, or
no entry of its command queue writes a g register (R79, R142). -/
structure Ready (s : State) : Prop where
  hart : s.cur < Config.harts
  free : s.hart.sup = true ∨ writesG s.hart.queue = false

/-- The executing hart exists, and no vector instruction of it is pending: it is in supervisor mode, where the frozen
queue counts as retired (R316), or its command queue is empty. -/
structure Quiet (s : State) : Prop where
  hart : s.cur < Config.harts
  idle : s.hart.sup = true ∨ s.hart.queue = []

/-- A hart whose scalar word has retired: only its g registers, pc and sticky flags may be new; the word counts for the
activity of R457 and for a single step. -/
def retired (h : Hart) (g : Vector Word 32) (pc fl : Word) : Hart :=
  { h with
    g := g, pc := pc, fpflags := fl, activity := h.activity + 8
    dbg := { h.dbg with retired := true } }

/-- t is s after a scalar word that wrote value v to register d (nothing where d is g0), left the sticky flags fl and
went on at pc. Every other register of the hart, every other hart, every byte of memory and everything else of the
device is as before. -/
structure Wrote (s : State) (d : Nat) (v pc fl : Word) (t : State) : Prop where
  dest : t.hart.gget d = if d = 0 then 0 else v
  others : ∀ r, r ≠ d → t.hart.gget r = s.hart.gget r
  frame : t = s.setHart (retired s.hart t.hart.g pc fl)
  memory : ∀ a, Memory.read t.mem a = Memory.read s.mem a

/-- A scalar result in gd, with the next word to follow and no flag touched. -/
abbrev Result (s : State) (d : BitVec 5) (v : Word) (t : State) : Prop :=
  Wrote s d.toNat v (s.hart.pc + 4) s.hart.fpflags t

/-- t is s after a scalar word that wrote nothing but the pc. -/
abbrev Went (s : State) (pc : Word) (t : State) : Prop := Wrote s 0 0 pc s.hart.fpflags t

/-- 1 for a true condition and 0 for a false one, as a register value. -/
def oneIf (c : Prop) [Decidable c] : Word := if c then 1 else 0

/-- The fetch block of an address (R91): the address rounded down to a multiple of 64. -/
def blockOf (a : Word) : Word := (a >>> 6) <<< 6

/-- n leading zero bits, and a one bit after them where n is below 64. -/
def LeadingZeros (x : Word) (n : Nat) : Prop :=
  n ≤ 64 ∧ (∀ i < n, x.getLsbD (63 - i) = false) ∧ (n < 64 → x.getLsbD (63 - n) = true)

/-- n trailing zero bits, and a one bit after them where n is below 64. -/
def TrailingZeros (x : Word) (n : Nat) : Prop :=
  n ≤ 64 ∧ (∀ i < n, x.getLsbD i = false) ∧ (n < 64 → x.getLsbD n = true)

end Sys2Proof.Stated

section Statements

open Sys2Proof Sys2Proof.Machine Sys2Proof.Stated

/-! ### Classes 0 to 2: scalar arithmetic -/

/-- R143, R144, R85, R11. The class 0 integer functions and the class 1 immediates: each writes gd with the value of
the table, whatever its operands, sets no flag, changes nothing else and goes on at the next word; MOVNZ with gb = 0
writes nothing. The 14-bit immediate is sign-extended; LHI and ADDPC count theirs of 22 bits in units of 2^14. g0
reads as zero, and an integer function with destination g0 changes no g register. -/
def Obligations.ScalarIntegersGiveTheirResults : Prop :=
  (∀ (s : State) (d a b : BitVec 5), Ready s →
      let x := s.hart.gget a.toNat
      let y := s.hart.gget b.toNat
      let sh := (y &&& 63).toNat
      Completes (.add d a b) s (Result s d (x + y))
      ∧ Completes (.sub d a b) s (Result s d (x - y))
      ∧ Completes (.mul d a b) s (Result s d (x * y))
      ∧ Completes (.mulh d a b) s (Result s d ((x.signExtend 128 * y.signExtend 128).extractLsb' 64 64))
      ∧ Completes (.mulhz d a b) s (Result s d ((x.setWidth 128 * y.setWidth 128).extractLsb' 64 64))
      ∧ Completes (.div d a b) s (Result s d (if y = 0 then 0xFFFFFFFFFFFFFFFF else x.sdiv y))
      ∧ Completes (.divz d a b) s (Result s d (if y = 0 then 0xFFFFFFFFFFFFFFFF else x / y))
      ∧ Completes (.rem d a b) s (Result s d (if y = 0 then x else x.srem y))
      ∧ Completes (.remz d a b) s (Result s d (if y = 0 then x else x % y))
      ∧ Completes (.and d a b) s (Result s d (x &&& y))
      ∧ Completes (.or d a b) s (Result s d (x ||| y))
      ∧ Completes (.xor d a b) s (Result s d (x ^^^ y))
      ∧ Completes (.andn d a b) s (Result s d (x &&& ~~~y))
      ∧ Completes (.sll d a b) s (Result s d (x <<< sh))
      ∧ Completes (.srl d a b) s (Result s d (x >>> sh))
      ∧ Completes (.sra d a b) s (Result s d (x.sshiftRight sh))
      ∧ Completes (.slt d a b) s (Result s d (oneIf (x.toInt < y.toInt)))
      ∧ Completes (.sltz d a b) s (Result s d (oneIf (x.toNat < y.toNat)))
      ∧ Completes (.min d a b) s (Result s d (if x.toInt ≤ y.toInt then x else y))
      ∧ Completes (.max d a b) s (Result s d (if x.toInt ≤ y.toInt then y else x))
      ∧ Completes (.minz d a b) s (Result s d (if x.toNat ≤ y.toNat then x else y))
      ∧ Completes (.maxz d a b) s (Result s d (if x.toNat ≤ y.toNat then y else x))
      ∧ (∃ n, LeadingZeros x n ∧ Completes (.clz d a) s (Result s d (BitVec.ofNat 64 n)))
      ∧ (∃ n, TrailingZeros x n ∧ Completes (.ctz d a) s (Result s d (BitVec.ofNat 64 n)))
      ∧ Completes (.popc d a) s (Result s d (BitVec.ofNat 64 ((List.range 64).countP x.getLsbD)))
      ∧ Completes (.movnz d a b) s (Result s d (if y = 0 then s.hart.gget d.toNat else x)))
  ∧ (∀ (s : State) (d a : BitVec 5) (i : BitVec 14) (n : BitVec 6) (j : BitVec 22), Ready s →
      let x := s.hart.gget a.toNat
      Completes (.addi d a i) s (Result s d (BitVec.ofInt 64 (x.toInt + i.toInt)))
      ∧ Completes (.andi d a i) s (Result s d (x &&& i.signExtend 64))
      ∧ Completes (.ori d a i) s (Result s d (x ||| i.signExtend 64))
      ∧ Completes (.xori d a i) s (Result s d (x ^^^ i.signExtend 64))
      ∧ Completes (.slli d a n) s (Result s d (x <<< n.toNat))
      ∧ Completes (.srli d a n) s (Result s d (x >>> n.toNat))
      ∧ Completes (.srai d a n) s (Result s d (x.sshiftRight n.toNat))
      ∧ Completes (.slti d a i) s (Result s d (oneIf (x.toInt < i.toInt)))
      ∧ Completes (.sltzi d a i) s (Result s d (oneIf (x.toNat < (i.signExtend 64).toNat)))
      ∧ Completes (.lhi d j) s (Result s d (BitVec.ofInt 64 (j.toInt * 2 ^ 14)))
      ∧ Completes (.addpc d j) s (Result s d (blockOf s.hart.pc + BitVec.ofInt 64 (j.toInt * 2 ^ 14))))
  ∧ (∀ (s : State) (a b : BitVec 5), Ready s →
      s.hart.gget 0 = 0
      ∧ Completes (.add 0 a b) s (fun t => ∀ r, t.hart.gget r = s.hart.gget r))
  ∧ decode 0x0190A006#32 = some (.div 3 4 5)
  ∧ decode 0x110D803F#32 = some (.srai 2 3 63)

/-! ### Scalar floating point -/

namespace Sys2Proof.Stated

/-- The format that fw names (R145). -/
def floatOf (w : BitVec 2) : Fmt := if w = 0 then fp32 else fp64

/-- The operand of a scalar floating instruction in register r: the low bits of the register (R145). -/
def operand (s : State) (w : BitVec 2) (r : BitVec 5) : Nat := (s.hart.gget r.toNat).toNat % 2 ^ (floatOf w).bits

/-- Its exact value (R118). -/
def value (s : State) (w : BitVec 2) (r : BitVec 5) : Val := decodeF (floatOf w) (operand s w r)

/-- The rounding mode in force (R37). -/
def mode (s : State) : Rm := rmOf s.hart.fpmode

/-- A floating result in gd: the code in the low bits, zero above it (R145, R11), and the flags it raises added to the
sticky flags (R37). -/
abbrev Floated (s : State) (d : BitVec 5) (r : Nat × Nat) (t : State) : Prop :=
  Wrote s d.toNat (BitVec.ofNat 64 r.1) (s.hart.pc + 4) (s.hart.fpflags ||| BitVec.ofNat 64 (r.2 % 32)) t

/-- x comes before y in the order of R147: it is less, or it is −0 and y is +0. -/
def before (x y : Val) : Bool := ltVal x y || (isZeroOf true x && isZeroOf false y)

/-- The class of a code by its sign, exponent and fraction fields (R150). -/
def classBit (f : Fmt) (x : Nat) : Nat :=
  let e := x / 2 ^ f.nf % 2 ^ f.ne
  let m := x % 2 ^ f.nf
  let neg := x / 2 ^ (f.nf + f.ne) % 2 = 1
  if e = 2 ^ f.ne - 1 then (if m ≠ 0 then 8 else if neg then 0 else 7)
  else if e = 0 then (if m = 0 then (if neg then 3 else 4) else if neg then 2 else 5)
  else if neg then 1 else 6

/-- Is a code finite in a format with infinities and NaNs? -/
def finiteCode (f : Fmt) (x : Nat) : Prop := x < 2 ^ f.bits ∧ x / 2 ^ f.nf % 2 ^ f.ne ≠ 2 ^ f.ne - 1

end Sys2Proof.Stated

/-- R146: the arithmetic functions give the exact value rounded once in the mode of FPMODE, with the flags of R126; FMA
rounds x × y + gd once. A NaN operand gives the canonical NaN; a finite value that is not zero, divided by zero, gives ∞
of the quotient's sign and sets DZ alone; √(−0) is −0.
Where the specification is silent this rests on the model's choices in log entry 22. -/
def Obligations.ScalarFloatsRoundTheExactResult : Prop :=
  ∀ (s : State) (d a b : BitVec 5) (w : BitVec 2), Ready s → w.toNat < 2 →
    let f := floatOf w
    let x := value s w a
    let y := value s w b
    Completes (.fadd d a b w) s (Floated s d (roundPair f (mode s) (addVal (mode s) x y)))
    ∧ Completes (.fsub d a b w) s (Floated s d (roundPair f (mode s) (addVal (mode s) x (negVal y))))
    ∧ Completes (.fmul d a b w) s (Floated s d (roundPair f (mode s) (mulVal x y)))
    ∧ Completes (.fdiv d a b w) s (Floated s d (roundPair f (mode s) (divVal x y)))
    ∧ Completes (.fma d a b w) s (Floated s d (roundPair f (mode s) (fmaVal (mode s) x y (value s w d))))
    ∧ Completes (.fsqrt d a w) s (Floated s d (roundPair f (mode s) (sqrtVal x)))
    ∧ (
      let nan := BitVec.ofNat 64 (if w = 0 then 0x7FC00000 else 0x7FF8000000000000)
      let sign := fun (r : BitVec 5) => (operand s w r) / 2 ^ (f.bits - 1)
      (value s w a = .nan ∨ value s w b = .nan →
        (∃ fl, Completes (.fadd d a b w) s (Wrote s d.toNat nan (s.hart.pc + 4) fl))
        ∧ (∃ fl, Completes (.fsub d a b w) s (Wrote s d.toNat nan (s.hart.pc + 4) fl))
        ∧ (∃ fl, Completes (.fmul d a b w) s (Wrote s d.toNat nan (s.hart.pc + 4) fl))
        ∧ (∃ fl, Completes (.fdiv d a b w) s (Wrote s d.toNat nan (s.hart.pc + 4) fl))
        ∧ (∃ fl, Completes (.fma d a b w) s (Wrote s d.toNat nan (s.hart.pc + 4) fl)))
      ∧ (∀ neg m e neg' e', value s w a = .fin neg m e → m ≠ 0 → value s w b = .fin neg' 0 e' →
        Completes (.fdiv d a b w) s (Wrote s d.toNat
          (BitVec.ofNat 64 ((sign a + sign b) % 2 * 2 ^ (f.bits - 1) + (2 ^ f.ne - 1) * 2 ^ f.nf)) (s.hart.pc + 4)
          (s.hart.fpflags ||| 8)))
      ∧ (operand s w a = 2 ^ (f.bits - 1) →
        Completes (.fsqrt d a w) s (Wrote s d.toNat (BitVec.ofNat 64 (2 ^ (f.bits - 1))) (s.hart.pc + 4) s.hart.fpflags)))

/-- R147 to R150. FMIN and FMAX, with −0 below +0, the other operand beside one NaN, the canonical NaN for two, and no
flag; the compares write 1 or 0 over the whole register, where a NaN operand gives 0, and sets NV for FCMPLT and FCMPLE
only. FCVT under its five codes, and FCLASS, which writes the one bit of the operand's class: code 0 takes its source
from the other width, codes 1 and 2 take all 64 bits as an integer, and codes 3 and 4 give a 64-bit integer: 0 with NV
for NaN, and the nearest end of the type with NV for an infinity. -/
def Obligations.ScalarComparesAndConversions : Prop :=
  (∀ (s : State) (d a b : BitVec 5) (w : BitVec 2), Ready s → w.toNat < 2 →
      let x := operand s w a
      let y := operand s w b
      let u := value s w a
      let v := value s w b
      let nan := u = .nan ∨ v = .nan
      let fl := if nan then s.hart.fpflags ||| 16 else s.hart.fpflags
      let pick := fun (second : Bool) =>
        BitVec.ofNat 64 (if u = .nan then (if v = .nan then nanOf (floatOf w) else y)
          else if v = .nan then x else if second then y else x)
      Completes (.fmin d a b w) s (Result s d (pick (before v u)))
      ∧ Completes (.fmax d a b w) s (Result s d (pick (before u v)))
      ∧ Completes (.fcmpeq d a b w) s (Result s d (oneIf (¬nan ∧ eqVal u v = true)))
      ∧ Completes (.fcmplt d a b w) s
          (Wrote s d.toNat (oneIf (¬nan ∧ ltVal u v = true)) (s.hart.pc + 4) fl)
      ∧ Completes (.fcmple d a b w) s
          (Wrote s d.toNat (oneIf (¬nan ∧ (ltVal u v = true ∨ eqVal u v = true))) (s.hart.pc + 4) fl))
  ∧ (∀ (s : State) (d a : BitVec 5) (w : BitVec 2), Ready s → w.toNat < 2 →
      let f := floatOf w
      let x := s.hart.gget a.toNat
      let other := if w = 0 then (1 : BitVec 2) else 0
      Completes (.fcvt d a 0 w) s (Floated s d (match value s other a with
        | .nan => (nanOf f, 0)
        | .inf neg => (infOf f neg, 0)
        | .fin neg m e => roundFin f (mode s) false neg m e))
      ∧ Completes (.fcvt d a 1 w) s (Floated s d (roundFin f (mode s) false (decide (x.toInt < 0)) x.toInt.natAbs 0))
      ∧ Completes (.fcvt d a 2 w) s (Floated s d (roundFin f (mode s) false false x.toNat 0))
      ∧ (value s w a = .nan →
        Completes (.fcvt d a 3 w) s (Floated s d (0, 16)) ∧ Completes (.fcvt d a 4 w) s (Floated s d (0, 16)))
      ∧ (∀ neg, value s w a = .inf neg →
        Completes (.fcvt d a 3 w) s (Floated s d (if neg then 2 ^ 63 else 2 ^ 63 - 1, 16))
        ∧ Completes (.fcvt d a 4 w) s (Floated s d (if neg then 0 else 2 ^ 64 - 1, 16)))
      ∧ (∀ neg m e, value s w a = .fin neg m e →
        let n := (toIntVal (mode s) neg m e).1
        let inexact := (toIntVal (mode s) neg m e).2
        (-2 ^ 63 ≤ n ∧ n < 2 ^ 63 →
          Completes (.fcvt d a 3 w) s (Wrote s d.toNat (BitVec.ofInt 64 n) (s.hart.pc + 4)
            (if inexact then s.hart.fpflags ||| 1 else s.hart.fpflags)))
        ∧ (n < -2 ^ 63 → Completes (.fcvt d a 3 w) s (Floated s d (2 ^ 63, 16)))
        ∧ (2 ^ 63 ≤ n → Completes (.fcvt d a 3 w) s (Floated s d (2 ^ 63 - 1, 16)))
        ∧ (0 ≤ n ∧ n < 2 ^ 64 →
          Completes (.fcvt d a 4 w) s (Wrote s d.toNat (BitVec.ofInt 64 n) (s.hart.pc + 4)
            (if inexact then s.hart.fpflags ||| 1 else s.hart.fpflags)))
        ∧ (n < 0 → Completes (.fcvt d a 4 w) s (Floated s d (0, 16)))
        ∧ (2 ^ 64 ≤ n → Completes (.fcvt d a 4 w) s (Floated s d (2 ^ 64 - 1, 16))))
      ∧ Completes (.fclass d a w) s (Result s d (BitVec.ofNat 64 (2 ^ classBit (floatOf w) (operand s w a)))))

/-- R124: rounding chooses among the values of the format, so a value that the format holds is kept, in every mode and
without a flag: every finite code of FP32, FP64, BF16, FP16 and E5M2 decodes to a value that rounds to that code. -/
def Obligations.RoundingKeepsEveryFiniteCode : Prop :=
  ∀ (rm : Rm), ∀ f ∈ [fp32, fp64, bf16, fp16, e5m2], ∀ x : Nat, finiteCode f x → roundVal f rm (decodeF f x) = (x, 0)

/-! ### Class 3: control transfer -/

namespace Sys2Proof.Stated

/-- t is s after the executing hart entered its handler (R311 to R313): the trap registers, the modes, the pc at the
cause's own block of the handler, and nothing else of the hart; no other hart and no byte of memory. A trace record may
have gone to the hart's ring. -/
structure Entered (s : State) (cause : Nat) (vec : Bool) (pc : Word) (mem elem : Nat) (val spc : Word) (t : State) :
    Prop where
  hart : t.hart = { s.hart with
    trapcause := BitVec.ofNat 64 (if vec then 256 + cause else cause)
    trappc := pc &&& 0xFFFFFFFFFFFF
    trapmem := BitVec.ofNat 64 mem
    trapelem := BitVec.ofNat 64 elem
    trapval := val
    trapspc := spc &&& 0xFFFFFFFFFFFF
    psup := s.hart.sup
    sup := true
    pc := s.hart.trapvec + BitVec.ofNat 64 (64 * cause)
    entering := true }
  frame : t = { s.setHart t.hart with hearths := t.hearths, rings := t.rings, devFlue := t.devFlue }
  memory : ∀ a, Memory.read t.mem a = Memory.read s.mem a

/-- A scalar trap of the word at the pc, with a value in TRAPVAL. -/
abbrev TrapsHere (s : State) (cause : Nat) (val : Word) (t : State) : Prop :=
  Entered s cause false s.hart.pc 0 0 val s.hart.pc t

/-- A relative target (R91). -/
def aheadBy (s : State) (blocks : Int) : Word := blockOf s.hart.pc + BitVec.ofInt 64 (64 * blocks)

/-- The register that LK names (R90). -/
def linkRegister (l : BitVec 2) : Nat := if l = 0 then 0 else if l = 1 then 29 else if l = 2 then 30 else 31

/-- Is any of the bits 0 to VL − 1 of a predicate 1? -/
def anyTrue (s : State) (p : BitVec 5) (vl : Nat) : Prop := ∃ i < vl, (s.hart.pget p.toNat).getLsbD i = true

end Sys2Proof.Stated

/-- R156, R157, R91, R92, R158. A branch goes to its target when its condition holds and to the next word otherwise; it
writes no register. BPANY is taken when a bit below VL of p is 1, BPNONE when none is (VL being that of VCFG when no
vector instruction is pending). JAL writes the link value to the register LK names and goes to its target; JALR goes to
the value ga held before it and writes the link value to gd. Where one of the bits 5 to 0 of that value is 1, JALR traps
ALIGN_FETCH: TRAPPC holds its address, TRAPVAL the value, and gd is not written. That BPANY and BPNONE take VCFG's VL over
a frozen queue in supervisor mode is DEDUCED (log 92). -/
def Obligations.BranchesAndJumpsGoWhereTheyShould : Prop :=
  (∀ (s : State) (a b : BitVec 5) (o : BitVec 15), Ready s →
      let x := s.hart.gget a.toNat
      let y := s.hart.gget b.toNat
      let taken := aheadBy s o.toInt
      let next := s.hart.pc + 4
      Completes (.beq a b o) s (Went s (if x = y then taken else next))
      ∧ Completes (.bne a b o) s (Went s (if x ≠ y then taken else next))
      ∧ Completes (.blt a b o) s (Went s (if x.toInt < y.toInt then taken else next))
      ∧ Completes (.bge a b o) s (Went s (if y.toInt ≤ x.toInt then taken else next))
      ∧ Completes (.bltz a b o) s (Went s (if x.toNat < y.toNat then taken else next))
      ∧ Completes (.bgez a b o) s (Went s (if y.toNat ≤ x.toNat then taken else next)))
  ∧ (∀ (s : State) (p : BitVec 5) (o : BitVec 15), Quiet s →
      let vl := s.hart.vcfg.toNat % 8192
      (anyTrue s p vl →
        Completes (.bpany p o) s (Went s (aheadBy s o.toInt)) ∧ Completes (.bpnone p o) s (Went s (s.hart.pc + 4)))
      ∧ (¬anyTrue s p vl →
        Completes (.bpany p o) s (Went s (s.hart.pc + 4)) ∧ Completes (.bpnone p o) s (Went s (aheadBy s o.toInt))))
  ∧ (∀ (s : State) (l : BitVec 2) (o : BitVec 23) (d a : BitVec 5), Ready s →
      let back := blockOf s.hart.pc + 64
      let x := s.hart.gget a.toNat
      Completes (.jal l o) s (Wrote s (linkRegister l) back (aheadBy s o.toInt) s.hart.fpflags)
      ∧ (x &&& 63 = 0 → Completes (.jalr d a) s (Wrote s d.toNat back x s.hart.fpflags))
      ∧ (x &&& 63 ≠ 0 → Quiet s → s.hart.trapvec ≠ 0 → Completes (.jalr d a) s (TrapsHere s 3 x)))

/-! ### Waiting for the vector sequencer -/

namespace Sys2Proof.Stated

/-- The scalar words that wait only for a queued writer of a g register: classes 0 to 2, the branches on g registers,
the jumps, TLRD and KSTAT. -/
def waitsForWriters : Instr → Bool
  | .add .. => true
  | .sub .. => true
  | .mul .. => true
  | .mulh .. => true
  | .mulhz .. => true
  | .div .. => true
  | .divz .. => true
  | .rem .. => true
  | .remz .. => true
  | .and .. => true
  | .or .. => true
  | .xor .. => true
  | .andn .. => true
  | .sll .. => true
  | .srl .. => true
  | .sra .. => true
  | .slt .. => true
  | .sltz .. => true
  | .min .. => true
  | .max .. => true
  | .minz .. => true
  | .maxz .. => true
  | .clz .. => true
  | .ctz .. => true
  | .popc .. => true
  | .movnz .. => true
  | .fadd .. => true
  | .fsub .. => true
  | .fmul .. => true
  | .fma .. => true
  | .fdiv .. => true
  | .fsqrt .. => true
  | .fmin .. => true
  | .fmax .. => true
  | .fcmpeq .. => true
  | .fcmplt .. => true
  | .fcmple .. => true
  | .fcvt .. => true
  | .fclass .. => true
  | .addi .. => true
  | .andi .. => true
  | .ori .. => true
  | .xori .. => true
  | .slli .. => true
  | .srli .. => true
  | .srai .. => true
  | .slti .. => true
  | .sltzi .. => true
  | .lhi .. => true
  | .addpc .. => true
  | .beq .. => true
  | .bne .. => true
  | .blt .. => true
  | .bge .. => true
  | .bltz .. => true
  | .bgez .. => true
  | .jal .. => true
  | .jalr .. => true
  | .tlrd .. => true
  | .kstat .. => true
  | _ => false

/-- The words that wait until every earlier vector instruction has retired: the atomics, TRAP, BKPT, and class 14 but
for TLRD, KSTAT and CPYG. -/
def waitsForAll : Instr → Bool
  | .aadd .. => true
  | .aswp .. => true
  | .acas .. => true
  | .amin .. => true
  | .amax .. => true
  | .aminz .. => true
  | .amaxz .. => true
  | .aand .. => true
  | .aor .. => true
  | .axor .. => true
  | .trap .. => true
  | .bkpt => true
  | .cpy .. => true
  | .cpyx .. => true
  | .kzone .. => true
  | .krsv .. => true
  | .ksend .. => true
  | .kwait .. => true
  | .krel .. => true
  | .tlwait .. => true
  | .tlsig .. => true
  | .launch .. => true
  | .waitslot => true
  | .post .. => true
  | .wait .. => true
  | .gbarw .. => true
  | .barinit .. => true
  | .barwait .. => true
  | _ => false

end Sys2Proof.Stated

/-- R25, R79, R312: in program mode a scalar word does not overtake the vector instructions whose results it may read.
Words of the first kind wait only for the queued writers of a g register, those of the second for every queued
instruction. Once those have retired, it has the effect it has in the machine so reached; a stop found in that wait is
taken in its place. Where a single step is then behind the hart, the word is executed in a later step (R442). -/
def Obligations.ScalarWordsWaitForTheQueue : Prop :=
  ∀ (i : Instr) (s t : State) (e : ConvoyEnd) (p : QEntry → Bool),
    (waitsForWriters i = true ∧ p = QEntry.writesG) ∨ (waitsForAll i = true ∧ p = fun _ => true) →
    s.hart.sup = false → s.hart.queue.any p = true → s.runQueue p = (t, e) →
    (e = .retired → t.hart.stepDone = false → t.hart.queue.any p = false → exec i s = exec i t)
    ∧ (e = .retired → t.hart.stepDone = true → exec i s = .next t)
    ∧ (e ≠ .retired → exec i s = .next t)

/-! ### Class 4: scalar memory -/

namespace Sys2Proof.Stated

/-- The address of a scalar load or store (R151). -/
def addressOf (s : State) (a : BitVec 5) (i : BitVec 14) : Word := s.hart.gget a.toNat + i.signExtend 64

/-- Byte k of a number, least significant first (R5). -/
def byteOf (x k : Nat) : Byte := BitVec.ofNat 8 (x / 256 ^ k)

/-- An aligned access of n bytes whose address translates to a location. -/
structure Reaches (s : State) (acc : Acc) (va : Word) (n loc : Nat) : Prop where
  aligned : va.toNat % n = 0
  found : ∃ dev, s.xlate .scalar acc va = .at loc dev

/-- The value of n bytes at a location as the executing hart's own loads see it: with its held entries over memory
(R153), least significant byte first (R5). -/
def seen (s : State) (loc n : Nat) : Nat := leNat (Memory.reads (s.view s.hart) loc n)

/-- Bits of a number: w from bit i up. -/
def bitField (x i w : Nat) : Nat := x / 2 ^ i % 2 ^ w

/-- The log of the size that a leaf of a level maps (R334). -/
def sizeAt (level : Nat) : Nat := 39 - 9 * level

/-- The index that a level of the walk takes from an address (R334). -/
def indexAt (a level : Nat) : Nat := bitField a (sizeAt level) (if level = 0 then 8 else 9)

/-- Entry i of the table at an address (R334). -/
def entryOfTable (s : State) (table i : Nat) : Nat := leNat (Memory.reads s.mem (table + 8 * i) 8)

/-- Is a byte of that entry damaged (R467)? -/
def damagedEntry (s : State) (table i : Nat) : Prop := ∃ k < 8, s.damagedAt (table + 8 * i + k) = true

/-- Does an entry map a page (R335)? -/
def mapsPage (e : Nat) : Prop := bitField e 1 1 = 1

/-- The address in an entry: the next table, or the base of the page (R335). -/
def frameOf (e : Nat) : Nat := bitField e 12 40 * 4096

/-- The entries that end a walk (R335). -/
def Unusable (e level : Nat) : Prop :=
  bitField e 0 1 = 0 ∨ bitField e 52 12 ≠ 0 ∨ bitField e 9 3 ≠ 0
  ∨ (mapsPage e ∧ (level = 0 ∨ bitField e 7 2 = 3 ∨ (bitField e 3 1 = 1
      ∧ bitField e 2 1 = 0) ∨ frameOf e % 2 ^ sizeAt level ≠ 0))
  ∨ (¬mapsPage e ∧ (level = 3 ∨ bitField e 2 7 ≠ 0 ∨ Config.devBytes ≤ frameOf e))

/-- Does a leaf permit an access (R337)? -/
def Permits (e : Nat) (sup : Bool) (who : Who) (acc : Acc) : Prop :=
  (bitField e 5 1 = 1 ∨ (sup = true ∧ who ≠ .engine ∧ who ≠ .kite))
  ∧ bitField e (match acc with
      | .load => 2
      | .store => 3
      | .fetch => 4) 1 = 1

/-- Does the walk of an address come to a table at a level (R334)? -/
def Arrives (s : State) (root a : Nat) : Nat → Nat → Prop
  | 0, table => table = root
  | level + 1, table => ∃ above, Arrives s root a level above ∧ ¬damagedEntry s above (indexAt a level)
      ∧ ¬Unusable (entryOfTable s above (indexAt a level)) level ∧ ¬mapsPage (entryOfTable s above (indexAt a level))
      ∧ table = frameOf (entryOfTable s above (indexAt a level))

/-- What a scalar access wants, its address and its bytes. -/
def accessOf (s : State) : Instr → Option (Acc × Word × Nat)
  | .ldb _ a i => some (.load, addressOf s a i, 1)
  | .ldh _ a i => some (.load, addressOf s a i, 2)
  | .ldw _ a i => some (.load, addressOf s a i, 4)
  | .ldd _ a i => some (.load, addressOf s a i, 8)
  | .ldbz _ a i => some (.load, addressOf s a i, 1)
  | .ldhz _ a i => some (.load, addressOf s a i, 2)
  | .ldwz _ a i => some (.load, addressOf s a i, 4)
  | .stb _ a i => some (.store, addressOf s a i, 1)
  | .sth _ a i => some (.store, addressOf s a i, 2)
  | .stw _ a i => some (.store, addressOf s a i, 4)
  | .std _ a i => some (.store, addressOf s a i, 8)
  | .aadd _ a _ w => some (.store, s.hart.gget a.toNat, if w = 1 then 8 else 4)
  | .aswp _ a _ w => some (.store, s.hart.gget a.toNat, if w = 1 then 8 else 4)
  | .acas _ a _ w => some (.store, s.hart.gget a.toNat, if w = 1 then 8 else 4)
  | .amin _ a _ w => some (.store, s.hart.gget a.toNat, if w = 1 then 8 else 4)
  | .amax _ a _ w => some (.store, s.hart.gget a.toNat, if w = 1 then 8 else 4)
  | .aminz _ a _ w => some (.store, s.hart.gget a.toNat, if w = 1 then 8 else 4)
  | .amaxz _ a _ w => some (.store, s.hart.gget a.toNat, if w = 1 then 8 else 4)
  | .aand _ a _ w => some (.store, s.hart.gget a.toNat, if w = 1 then 8 else 4)
  | .aor _ a _ w => some (.store, s.hart.gget a.toNat, if w = 1 then 8 else 4)
  | .axor _ a _ w => some (.store, s.hart.gget a.toNat, if w = 1 then 8 else 4)
  | _ => none

/-- Capacity of the held-effects buffer under HEBLIM (R35). -/
def capacity (s : State) : Nat :=
  let l := s.hart.heblim.toNat % 65536
  if l = 0 ∨ 4096 ≤ l then 4096 else l

/-- Nothing of the hart is held, and no BARWAIT of the device is parked (whose record a store would break, R282). -/
structure NothingHeld (s : State) : Prop where
  held : s.hart.held = []
  waiting : s.hart.waiting = []
  bars : s.bars = []

/-- No BARWAIT is parked on a record that n bytes at a location meet (R282). -/
def NoBarrierAt (s : State) (loc n : Nat) : Prop := ∀ b ∈ s.bars, loc + n ≤ b ∨ b + 16 ≤ loc

/-- No held entry of the hart has a byte in an aligned 8-byte word that n bytes at a location touch. -/
def NotHeldAt (s : State) (loc n : Nat) : Prop :=
  ∀ e ∈ s.hart.held ++ s.hart.waiting, ∀ p ∈ e.locs, (p.1 + p.2 + 7) / 8 * 8 ≤ loc ∨ loc + n ≤ p.1 / 8 * 8

/-- The machine once a store has taken the next place in program order. -/
def numbered (s : State) : State := s.setHart { s.hart with nextSeq := s.hart.nextSeq + 1 }

/-- t is u after a store in program mode: n bytes of x at a location enter the buffer as one entry. The hart's own loads
see them; memory, and with it every other agent, does not. -/
structure Holds (u : State) (loc n : Nat) (x : Word) (t : State) : Prop where
  one : t.hart.held.length = u.hart.held.length + 1
  own : ∀ k < n, Memory.read (t.view t.hart) (loc + k) = byteOf x.toNat k
  rest : ∀ a, a < loc ∨ loc + n ≤ a → Memory.read (t.view t.hart) a = Memory.read (u.view u.hart) a
  memory : ∀ a, Memory.read t.mem a = Memory.read u.mem a
  frame : t = u.setHart { retired u.hart u.hart.g (u.hart.pc + 4) u.hart.fpflags with held := t.hart.held }

/-- t is u after a store in supervisor mode: n bytes of x are in memory at a location, and a granule that they cover
wholly may have lost its poison mark. The bytes count as moved (R458). -/
structure Stores (u : State) (loc n : Nat) (x : Word) (t : State) : Prop where
  stored : ∀ k < n, Memory.read t.mem (loc + k) = byteOf x.toNat k
  rest : ∀ a, a < loc ∨ loc + n ≤ a → Memory.read t.mem a = Memory.read u.mem a
  marks : ∀ g, g ∈ t.poison ↔ g ∈ u.poison ∧ ¬(loc ≤ g ∧ g + granule g ≤ loc + n)
  frame : t = { u.setHart { retired u.hart u.hart.g (u.hart.pc + 4) u.hart.fpflags with
    moved := u.hart.moved.add loc n } with mem := t.mem, poison := t.poison }

/-- t is u after an atomic of n bytes at a location that found `old` and wrote `new`, or nothing. -/
structure Exchanged (u : State) (d : BitVec 5) (loc n old : Nat) (new : Option Nat) (t : State) : Prop where
  dest : t.hart.gget d.toNat =
    if d = 0 then 0 else if n = 8 then BitVec.ofNat 64 old else (BitVec.ofNat 32 old).signExtend 64
  others : ∀ r, r ≠ d.toNat → t.hart.gget r = u.hart.gget r
  stored : ∀ v, new = some v → ∀ k < n, Memory.read t.mem (loc + k) = byteOf v k
  rest : ∀ a, new = none ∨ a < loc ∨ loc + n ≤ a → Memory.read t.mem a = Memory.read u.mem a
  frame : t = { u.setHart { retired u.hart t.hart.g (u.hart.pc + 4) u.hart.fpflags with
    moved := u.hart.moved.add loc (if new.isSome then 2 * n else n) } with mem := t.mem, poison := t.poison }

/-- u is s once an atomic has had the hart's held entries performed (R154, R316): with nothing held, s itself, where
program mode marks the strip drained; otherwise what performing them leaves. -/
structure ReleasedFor (s : State) (loc n : Nat) (u : State) : Prop where
  done : s.atomicRelease loc n = (u, true)
  none : s.hart.held = [] → s.hart.waiting = [] →
    u = s.setHart { s.hart with drained := s.hart.drained || !s.hart.sup }
  kept : s.hart.sup = true → NotHeldAt s loc n → u = s
  drained : s.hart.sup = false → u.hart.drained = true ∧ u.hart.held = [] ∧ u.hart.waiting = []

/-- The location and the size for which a store may be stated: the translation found it, the memory list is in its one
form, and no barrier record is met. -/
structure Storable (s : State) (va : Word) (n loc : Nat) : Prop where
  found : Reaches s .store va n loc
  form : Memory.wf s.mem = true
  bars : NoBarrierAt s loc n

/-- The signed reading of n bytes. -/
def signedOf (n x : Nat) : Int := (BitVec.ofNat (8 * n) x).toInt

end Sys2Proof.Stated

/-- R152, R185, R316: in program mode a scalar store is not performed when it executes. It enters the held-effects
buffer as one entry, after the oldest entries have drained where the buffer is full; the hart's own loads see it, and
memory keeps every byte. That the entries in the buffer are older than the store is assumed. In supervisor mode it is
performed when it executes and takes no held entry; what is held stays held where it touches no aligned 8-byte word of
the store, and otherwise the entries that do are performed first, with those ordered before them (the model's choice,
log 78). Where performing an entry kills the launch, the store does nothing more. -/
def Obligations.ScalarStoresAreHeldOrPerformed : Prop :=
  ∀ (g a : BitVec 5) (i : BitVec 14) (p : Nat × Instr), p ∈ [(1, Instr.stb g a i), (2, .sth g a i), (4, .stw g a i),
      (8, .std g a i)] →
    ∀ (s : State) (loc : Nat), Quiet s → Storable s (addressOf s a i) p.1 loc →
    let x := s.hart.gget g.toNat
    (s.hart.sup = false → s.hart.waiting = [] → (∀ e ∈ s.hart.held, e.seq < s.hart.nextSeq) →
      (s.hart.held.length < capacity s → Completes p.2 s (Holds (numbered s) loc p.1 x))
      ∧ (capacity s ≤ s.hart.held.length → ∀ u,
        ((numbered s).makeRoom false s.hart.held.length s.cur (capacity s) = (u, true) →
          u.hart.drained = true ∧ Completes p.2 s (Holds u loc p.1 x))
        ∧ ((numbered s).makeRoom false s.hart.held.length s.cur (capacity s) = (u, false) → Completes p.2 s (· = u))))
    ∧ (s.hart.sup = true →
      (NotHeldAt s loc p.1 → Completes p.2 s (Stores s loc p.1 x))
      ∧ (∀ u, s.performCovering s.cur loc p.1 = (u, true) → Completes p.2 s (Stores u loc p.1 x))
      ∧ (∀ u, s.performCovering s.cur loc p.1 = (u, false) → Completes p.2 s (· = u)))

/-- R154, R316, R428: an atomic first has the hart's held entries performed; then it reads the old value, writes the new
one at once and returns the old value sign-extended. In program mode it sets STRIP.DRAINED. An ACAS that finds another
value than gd held writes nothing. In program mode an atomic that reads damaged data writes nothing and returns 0, and
the strip is poisoned; in supervisor mode it kills the launch. -/
def Obligations.AtomicsReadModifyAndWrite : Prop :=
  ∀ (s u : State) (d a b : BitVec 5) (w : BitVec 1) (loc : Nat), Quiet s →
    let n := if w = 1 then 8 else 4
    let op := (s.hart.gget b.toNat).toNat % 2 ^ (8 * n)
    let cmp := (s.hart.gget d.toNat).toNat % 2 ^ (8 * n)
    let va := s.hart.gget a.toNat
    let all := [Instr.aadd d a b w, .aswp d a b w, .acas d a b w, .amin d a b w, .amax d a b w, .aminz d a b w,
      .amaxz d a b w, .aand d a b w, .aor d a b w, .axor d a b w]
    Storable s va n loc →
    (s.atomicRelease loc n = (u, false) → ∀ i ∈ all, Completes i s (· = u))
    ∧ (s.atomicRelease loc n = (u, true) → ReleasedFor s loc n u)
    ∧ (s.atomicRelease loc n = (u, true) →
      let old := leNat (Memory.reads u.mem loc n)
      ((∀ k < n, u.damagedAt (loc + k) = false) →
        Completes (.aadd d a b w) s (Exchanged u d loc n old (some ((old + op) % 2 ^ (8 * n))))
        ∧ Completes (.aswp d a b w) s (Exchanged u d loc n old (some op))
        ∧ Completes (.acas d a b w) s (Exchanged u d loc n old (if old = cmp then some op else none))
        ∧ Completes (.amin d a b w) s
            (Exchanged u d loc n old (some (if signedOf n old ≤ signedOf n op then old else op)))
        ∧ Completes (.amax d a b w) s
            (Exchanged u d loc n old (some (if signedOf n old ≤ signedOf n op then op else old)))
        ∧ Completes (.aminz d a b w) s (Exchanged u d loc n old (some (min old op)))
        ∧ Completes (.amaxz d a b w) s (Exchanged u d loc n old (some (max old op)))
        ∧ Completes (.aand d a b w) s (Exchanged u d loc n old (some (old &&& op)))
        ∧ Completes (.aor d a b w) s (Exchanged u d loc n old (some (old ||| op)))
        ∧ Completes (.axor d a b w) s (Exchanged u d loc n old (some (old ^^^ op))))
      ∧ ((∃ k < n, u.damagedAt (loc + k) = true) → ∀ i ∈ all,
        (s.hart.sup = true → Completes i s (· = u.killMine 1 va))
        ∧ (s.hart.sup = false → Completes i s (fun t =>
            (∀ r, t.hart.gget r = if r = d.toNat then 0 else u.hart.gget r) ∧ t.hart.poisoned = true
            ∧ t.mem = u.mem ∧ t.poison = u.poison))))

/-- R151, R154: the checks of a scalar load, store or atomic, in their order. A misaligned address traps ALIGN_DATA;
an aligned one that does not translate traps what its translation found; TRAPVAL holds the address, and neither a
register nor memory is written. The device control window serves supervisor accesses of 8 bytes otherwise (R342). -/
def Obligations.MemoryChecksTrapInOrder : Prop :=
  ∀ (s : State) (i : Instr) (acc : Acc) (va : Word) (n : Nat), Quiet s → s.hart.trapvec ≠ 0 →
    accessOf s i = some (acc, va, n) →
    (va.toNat % n ≠ 0 → Completes i s (TrapsHere s 4 va))
    ∧ (∀ c, va.toNat % n = 0 → (s.hart.sup = true ∧ n = 8 → ¬(0xC30000000000 ≤ va.toNat ∧ va.toNat < 0xC30000001000)) →
      s.xlate .scalar acc va = .fault c → Completes i s (TrapsHere s c va))

/-- R330 to R337, R466: where an address leads. An address of more than 48 bits is a page fault. Below 2^47 the walk
over the four levels of the table decides: a damaged entry leads to R467, an invalid one to the page fault of the
access, and a leaf to its page where it permits the access and the page lies in memory, else to ACCESS. The local and
global scratchpad windows and the scalar data memory lead to their own storage, which no fetch reaches, and the global
window no kite engine; the control window is no memory. Every other address with bit 47 set, in each of the five ranges
around the windows, is a page fault. -/
def Obligations.TheWindowsOfTheAddressMap : Prop :=
  ∀ (s : State) (core root : Nat) (sup : Bool) (who : Who) (acc : Acc) (va : Word),
    let a := va.toNat
    let page := match acc with
      | .fetch => 5
      | .load => 6
      | .store => 7
    let at' := s.translate core root sup who acc va
    (2 ^ 48 ≤ a → at' = .fault page)
    ∧ (a < 2 ^ 47 → ∀ level < 4, ∀ table, Arrives s root a level table →
      let e := entryOfTable s table (indexAt a level)
      let to' := frameOf e + a % 2 ^ sizeAt level
      (damagedEntry s table (indexAt a level) → at' = .damaged)
      ∧ (¬damagedEntry s table (indexAt a level) → Unusable e level → at' = .fault page)
      ∧ (¬damagedEntry s table (indexAt a level) → ¬Unusable e level → mapsPage e →
        let open' := Permits e sup who acc ∧ (to' < Config.fwBase ∨ Config.hostBase ≤ to' ∧ to' < Config.physEnd)
        (open' → at' = .at to' (decide (bitField e 6 1 = 1))) ∧ (¬open' → at' = .fault 8)))
    ∧ (∀ k < 0x200000, a = 0xC00000000000 + k →
      at' = if acc = .fetch then .fault 8 else .at (spad core k) false)
    ∧ (∀ c k, c < 128 → k < 0x200000 → a = 0xC10000000000 + c * 0x200000 + k →
      at' = if acc = .fetch ∨ who = .kite ∨ (s.core c).retired = true then .fault 8 else .at (spad c k) false)
    ∧ (∀ k < 0x10000, a = 0xC20000000000 + k →
      at' = if acc = .fetch ∨ who ≠ .scalar then .fault 8 else .at (Config.sdmLoc + core * 0x10000 + k) false)
    ∧ (0xC30000000000 ≤ a → a < 0xC30000001000 → at' = .fault 8)
    ∧ (2 ^ 47 ≤ a → a < 0xC00000000000 → at' = .fault page)
    ∧ (0xC00000200000 ≤ a → a < 0xC10000000000 → at' = .fault page)
    ∧ (0xC10010000000 ≤ a → a < 0xC20000000000 → at' = .fault page)
    ∧ (0xC20000010000 ≤ a → a < 0xC30000000000 → at' = .fault page)
    ∧ (0xC30000001000 ≤ a → at' = .fault page)

namespace Sys2Proof.Stated

/-- t is s after a scalar load that wrote v to gd and moved n bytes from a location (R458): nothing else is new. -/
structure Loaded (s : State) (d : BitVec 5) (loc n : Nat) (v : Word) (t : State) : Prop where
  dest : t.hart.gget d.toNat = if d = 0 then 0 else v
  others : ∀ r, r ≠ d.toNat → t.hart.gget r = s.hart.gget r
  frame : t = s.setHart { retired s.hart t.hart.g (s.hart.pc + 4) s.hart.fpflags with
    moved := s.hart.moved.add loc n }

/-- The bytes of a load with the damaged ones as zero (R428). -/
def mended (s : State) (loc n : Nat) : Nat :=
  leNat ((List.range n).map (fun k =>
    if s.readsDamaged s.hart none (loc + k) = true then 0 else Memory.read (s.view s.hart) (loc + k)))

/-- Is an access of the next instruction younger than the one that PADDR holds (R428)? -/
def youngerThanKept (h : Hart) : Prop :=
  h.paddr.getLsbD 63 = true ∧ (h.paddrPlace.1 < h.nextSeq ∨ h.paddrPlace = (h.nextSeq, 0))

/-- t is s after a scalar load of program mode that met uncorrectable data (R427, R428): it wrote v to gd, marked the
strip, and put its address in PADDR where no older access stands there. Damage in transit is used up and counted. -/
structure Consumed (s : State) (d : BitVec 5) (loc n : Nat) (va v : Word) (t : State) : Prop where
  dest : t.hart.gget d.toNat = if d = 0 then 0 else v
  others : ∀ r, r ≠ d.toNat → t.hart.gget r = s.hart.gget r
  marked : t.hart.poisoned = true
  older : youngerThanKept s.hart → t.hart.paddr = s.hart.paddr
  oldest : ¬youngerThanKept s.hart → t.hart.paddr = 0x8000000000000000 ||| (va &&& 0xFFFFFFFFFFFF)
  frame : t = { s.setHart { retired s.hart t.hart.g (s.hart.pc + 4) s.hart.fpflags with
      poisoned := true, paddr := t.hart.paddr, paddrPlace := t.hart.paddrPlace, moved := s.hart.moved.add loc n }
    with transit := t.transit, uecount := t.uecount }

/-- The scalar loads with their sizes and their reading of the bytes (R151). -/
def loadsOf (d a : BitVec 5) (i : BitVec 14) : List (Instr × Nat × Bool) :=
  [(.ldb d a i, 1, true), (.ldh d a i, 2, true), (.ldw d a i, 4, true), (.ldd d a i, 8, false), (.ldbz d a i, 1, false),
    (.ldhz d a i, 2, false), (.ldwz d a i, 4, false)]

/-- A value of n bytes in a register, sign-extended or zero-extended (R151). -/
def extended (signed : Bool) (n x : Nat) : Word :=
  if signed then (BitVec.ofNat (8 * n) x).signExtend 64 else BitVec.ofNat 64 x

end Sys2Proof.Stated

/-- R151, R153, R316, R427, R428. A scalar load of undamaged data returns the bytes at its address, sign-extended or
zero-extended, and changes nothing else. In program mode a load that meets uncorrectable data goes on: the damaged bytes
read as zero, the strip is marked poisoned, and PADDR keeps the address of the oldest such access; in supervisor mode it
kills the launch with REASON 1 and its address. -/
def Obligations.LoadsReturnTheBytesAtTheirAddress : Prop :=
  ∀ (d a : BitVec 5) (i : BitVec 14), ∀ p ∈ loadsOf d a i, ∀ (s : State) (loc : Nat), Quiet s →
    let va := addressOf s a i
    let n := p.2.1
    Reaches s .load va n loc →
    ((∀ k < n, s.readsDamaged s.hart none (loc + k) = false) →
      Completes p.1 s (Loaded s d loc n (extended p.2.2 n (seen s loc n))))
    ∧ ((∃ k < n, s.readsDamaged s.hart none (loc + k) = true) →
      (s.hart.sup = false → Completes p.1 s (Consumed s d loc n va (extended p.2.2 n (mended s loc n))))
      ∧ (s.hart.sup = true → Completes p.1 s (· = s.killMine 1 va)))


/-! ### Class 5: control registers -/

namespace Sys2Proof.Stated

/-- CRR of register n gives v in any g register, and changes nothing else. -/
def Shows (s : State) (n : BitVec 12) (v : Word) : Prop := ∀ d, Completes (.crr d n) s (Result s d v)

/-- CRR of register n gives a value with these fields (highest bit, lowest bit, contents), and zero outside them. -/
def ShowsFields (s : State) (n : BitVec 12) (fs : List (Nat × Nat × Nat)) : Prop :=
  ∃ v, Shows s n v ∧ (∀ f ∈ fs, v.toNat / 2 ^ f.2.1 % 2 ^ (f.1 + 1 - f.2.1) = f.2.2)
    ∧ ∀ i < 64, (∀ f ∈ fs, i < f.2.1 ∨ f.1 < i) → v.getLsbD i = false

/-- 1 for true and 0 for false. -/
def one (b : Bool) : Nat := if b then 1 else 0

/-- How many of the 32 lanes a map of retired lanes leaves live. -/
def liveOf (m : BitVec 32) : Nat := (List.range 32).countP (fun i => !m.getLsbD i)

/-- VLMAXR (R28). -/
def longest (m : BitVec 32) (mirror : Bool) : Nat := if mirror then 8 * (liveOf m / 2) else 8 * liveOf m

/-- A field's range of bits, highest first. -/
abbrev Bits := Nat × Nat

/-- The fields that each mode may write, register by register, for the registers of a hart that a write changes only
by its own fields (R26 to R44). -/
def writableFields (sup : Bool) : Nat → List Bits
  | 0x001 => [(5, 0)]
  | 0x002 => [(63, 0)]
  | 0x003 => [(47, 0)]
  | 0x004 => if sup then [(12, 0)] else []
  | 0x005 => if sup then [(17, 16), (12, 0)] else []
  | 0x006 => if sup then [(24, 16), (12, 0)] else []
  | 0x008 => [(15, 0)]
  | 0x00B => [(29, 24), (22, 16), (12, 0)]
  | 0x00C => [(1, 0)]
  | 0x00D => [(4, 0)]
  | 0x020 => if sup then [(63, 0)] else []
  | 0x021 => if sup then [(63, 0)] else []
  | 0x022 => if sup then [(63, 0)] else []
  | 0x023 => if sup then [(63, 0)] else []
  | 0x024 => if sup then [(63, 0)] else []
  | 0x040 => if sup then [(8, 0)] else []
  | 0x041 => if sup then [(47, 0)] else []
  | 0x042 => if sup then [(1, 0)] else []
  | 0x043 => if sup then [(12, 0)] else []
  | 0x044 => if sup then [(63, 0)] else []
  | 0x045 => if sup then [(47, 0)] else []
  | 0x046 => if sup then [(47, 6)] else []
  | 0x047 => if sup then [(63, 0)] else []
  | _ => []

/-- May the mode write bit i of register n? -/
def mayWrite (sup : Bool) (n i : Nat) : Bool := (writableFields sup n).any (fun f => f.2 ≤ i && i ≤ f.1)

/-- What register n of `writableFields` holds. -/
def heldIn (h : Hart) : Nat → Word
  | 0x001 => h.vmsk
  | 0x002 => h.vstr
  | 0x003 => h.vpstr
  | 0x004 => h.vresume
  | 0x005 => h.vexit
  | 0x006 => h.vftrim
  | 0x008 => h.heblim
  | 0x00B => h.mscale
  | 0x00C => h.fpmode
  | 0x00D => h.fpflags
  | 0x020 => h.lcuse
  | 0x021 => h.lcmask
  | 0x022 => h.lctail
  | 0x023 => h.lcstart
  | 0x024 => h.lcstall
  | 0x040 => h.trapcause
  | 0x041 => h.trappc
  | 0x042 => h.trapmem
  | 0x043 => h.trapelem
  | 0x044 => h.trapval
  | 0x045 => h.trapspc
  | 0x046 => h.trapvec
  | 0x047 => h.sscratch
  | _ => 0

/-- The hart with that register holding v. -/
def holding (h : Hart) (n : Nat) (v : Word) : Hart :=
  match n with
  | 0x001 => { h with vmsk := v }
  | 0x002 => { h with vstr := v }
  | 0x003 => { h with vpstr := v }
  | 0x004 => { h with vresume := v }
  | 0x005 => { h with vexit := v }
  | 0x006 => { h with vftrim := v }
  | 0x008 => { h with heblim := v }
  | 0x00B => { h with mscale := v }
  | 0x00C => { h with fpmode := v }
  | 0x00D => { h with fpflags := v }
  | 0x020 => { h with lcuse := v }
  | 0x021 => { h with lcmask := v }
  | 0x022 => { h with lctail := v }
  | 0x023 => { h with lcstart := v }
  | 0x024 => { h with lcstall := v }
  | 0x040 => { h with trapcause := v }
  | 0x041 => { h with trappc := v }
  | 0x042 => { h with trapmem := v }
  | 0x043 => { h with trapelem := v }
  | 0x044 => { h with trapval := v }
  | 0x045 => { h with trapspc := v }
  | 0x046 => { h with trapvec := v }
  | 0x047 => { h with sscratch := v }
  | _ => h

/-- The executing hart after a scalar word that changed no g register and no flag. -/
def passed (s : State) : Hart := retired s.hart s.hart.g (s.hart.pc + 4) s.hart.fpflags

/-- t is s after register n took these bits, and nothing else but the pc changed. -/
def Rewrote (s : State) (n : Nat) (bits : Nat → Bool) (t : State) : Prop :=
  ∃ v : Word, (∀ i < 64, v.getLsbD i = bits i) ∧ t = s.setHart (holding (passed s) n v)

/-- The numbers of the map (R23). -/
def mapped : List Nat :=
  [0x000, 0x001, 0x002, 0x003, 0x004, 0x005, 0x006, 0x007, 0x008, 0x009, 0x00A, 0x00B, 0x00C, 0x00D, 0x00E, 0x00F,
    0x010, 0x011, 0x012, 0x013, 0x014, 0x015, 0x016, 0x018, 0x019, 0x01A, 0x020, 0x021, 0x022, 0x023, 0x024, 0x025,
    0x040, 0x041, 0x042, 0x043, 0x044, 0x045, 0x046, 0x047]

/-- The registers coded S. -/
def codedS : List Nat := [0x040, 0x041, 0x042, 0x043, 0x044, 0x045, 0x046, 0x047]

/-- The registers with a field that program mode may write: those coded RW, and HMODE. -/
def programWrites : List Nat := [0x001, 0x002, 0x003, 0x007, 0x008, 0x00B, 0x00C, 0x00D, 0x011, 0x013]

/-- The registers with a field that supervisor mode may write: those coded RW, R/SW or S, and HMODE. -/
def supervisorWrites : List Nat :=
  programWrites ++ codedS ++ [0x000, 0x004, 0x005, 0x006, 0x012, 0x020, 0x021, 0x022, 0x023, 0x024]

/-- An instruction's word as TRAPVAL shows it (R313). -/
def wordOf' (i : Instr) : Word := (wordOf i).setWidth 64

/-- The stored GSET of a value (R34): its bits 1 to 31, of which only the eight lowest stay. -/
def storedGset (w : Word) (i : Nat) : Bool :=
  1 ≤ i && w.getLsbD i && decide (((List.range i).filter (fun k => 1 ≤ k && w.getLsbD k)).length < 8)

/-- The bits that SCKM stores of a value (R34). -/
def storedSckm (w : Word) (i : Nat) : Bool :=
  if i < 32 then storedGset w i
  else if i = 39 then w.getLsbD 39 && decide (w.toNat / 2 ^ 33 % 64 < 48)
  else if i = 46 then w.getLsbD 46 && decide (w.toNat / 2 ^ 40 % 64 < 48)
  else (33 ≤ i && i ≤ 38 || 40 ≤ i && i ≤ 45) && w.getLsbD i

/-- A VCFG value with no reserved EW, FMT or BLK code (R26, R27). -/
def allowedConfig (w : Word) : Prop :=
  let ew := w.toNat / 2 ^ 13 % 8
  let fmt := w.toNat / 2 ^ 16 % 8
  let block := w.toNat / 2 ^ 21 % 4
  block < 3 ∧ ew < 5 ∧ ((ew = 1 ∨ ew = 2) ∧ fmt < 3 ∨ fmt = 0)

end Sys2Proof.Stated

/-- R23, R25, R26 to R44, R159: with no vector instruction pending, CRR gives each register of the map in its layout,
reserved bits reading as zero where the device forms the value. That VEXIT shows its Reset value before the first SETVL
of a launch, in program mode too, is DEDUCED (log 91). -/
def Obligations.ControlReadsGiveTheRegistersOfTheMap : Prop :=
  ∀ (s : State), Quiet s →
    let h := s.hart
    Shows s 0x000 h.vcfg ∧ Shows s 0x001 h.vmsk ∧ Shows s 0x002 h.vstr ∧ Shows s 0x003 h.vpstr
    ∧ Shows s 0x004 h.vresume ∧ Shows s 0x005 h.vexit ∧ Shows s 0x006 h.vftrim ∧ Shows s 0x007 h.sckm
    ∧ Shows s 0x008 h.heblim ∧ Shows s 0x009 4096 ∧ Shows s 0x00A (BitVec.ofNat 64 h.tiles.length)
    ∧ Shows s 0x00B h.mscale ∧ Shows s 0x00C h.fpmode ∧ Shows s 0x00D h.fpflags
    ∧ ShowsFields s 0x00E [(8, 0, longest h.retiredLanes h.miract)]
    ∧ ShowsFields s 0x00F [(31, 0, h.retiredLanes.toNat)]
    ∧ ShowsFields s 0x010 [(2, 0, (s.core (s.cur / 4)).groups.toList.countP (· = .holds s.cur))]
    ∧ ShowsFields s 0x011 [(0, 0, one h.sup), (1, 1, one h.psup), (2, 2, one h.mirror), (3, 3, one h.miract)]
    ∧ (∀ g, s.gangOf h = some g → g.ranks.length ≤ 16 →
        ShowsFields s 0x012 [(4, 0, g.ranks.length), (12, 8, g.arrived.toNat), (47, 16, g.phase.toNat)]
        ∧ Shows s 0x013 g.ggrant)
    ∧ ShowsFields s 0x014 [(47, 0, h.stripNo.toNat), (48, 48, one h.stripK), (49, 49, one h.drained),
        (50, 50, one h.poisoned)]
    ∧ Shows s 0x015 h.paddr ∧ Shows s 0x016 (if h.ckpt.isSome then h.kvcfg else 0)
    ∧ ShowsFields s 0x018 [(8, 0, s.cur)]
    ∧ (∀ p, h.place = some p → p.rank < 16 → p.gang < 2 ^ 24 →
        ShowsFields s 0x019 [(3, 0, p.rank), (31, 8, p.gang), (63, 32, p.serial.toNat)])
    ∧ Shows s 0x01A s.tsc
    ∧ Shows s 0x020 h.lcuse ∧ Shows s 0x021 h.lcmask ∧ Shows s 0x022 h.lctail ∧ Shows s 0x023 h.lcstart
    ∧ Shows s 0x024 h.lcstall ∧ Shows s 0x025 (BitVec.ofNat 64 (h.charge / 1000))
    ∧ (h.sup = true → Shows s 0x040 h.trapcause ∧ Shows s 0x041 h.trappc ∧ Shows s 0x042 h.trapmem
        ∧ Shows s 0x043 h.trapelem ∧ Shows s 0x044 h.trapval ∧ Shows s 0x045 h.trapspc ∧ Shows s 0x046 h.trapvec
        ∧ Shows s 0x047 h.sscratch)

/-- R22: an access to a number absent from the map traps ILLEGAL; in program mode one to a register coded S traps PRIV;
a write that the mode may not make traps PRIV where supervisor mode may write some field, and ILLEGAL otherwise. -/
def Obligations.ControlAccessesTrapAsTheirCodesSay : Prop :=
  ∀ (s : State) (a : BitVec 5) (n : BitVec 12), Quiet s → s.hart.trapvec ≠ 0 →
    let ws := [Instr.crw a n, Instr.crset a n, Instr.crclr a n]
    let sup := s.hart.sup
    (n.toNat ∉ mapped → ∀ i ∈ Instr.crr a n :: ws, Completes i s (TrapsHere s 1 (wordOf' i)))
    ∧ (sup = false → n.toNat ∈ codedS → ∀ i ∈ Instr.crr a n :: ws, Completes i s (TrapsHere s 2 (wordOf' i)))
    ∧ (sup = false → n.toNat ∈ mapped → n.toNat ∉ programWrites → n.toNat ∉ codedS → ∀ i ∈ ws,
        Completes i s (TrapsHere s (if n.toNat ∈ supervisorWrites then 2 else 1) (wordOf' i)))
    ∧ (sup = true → n.toNat ∈ mapped → n.toNat ∉ supervisorWrites → ∀ i ∈ ws,
        Completes i s (TrapsHere s 1 (wordOf' i)))

namespace Sys2Proof.Stated

/-- The gangs of a launch with one of them changed. -/
def withGang (s : State) (p : Place) (f : Gang → Gang) : List Launch :=
  s.launches.map (fun l => if l.serial = p.serial && l.state ≠ .complete then
    { l with gangs := l.gangs.map (fun g => if g.index = p.gang then f g else g) } else l)

/-- t is s after a write of GGRANT by a hart of gang p: the gang's one copy holds v, and in program mode the strip is
marked drained (R40, R367). -/
def Granted (s : State) (p : Place) (v : Word) (t : State) : Prop :=
  t = { s.setHart { passed s with drained := s.hart.drained || !s.hart.sup } with
    launches := withGang s p (fun g => { g with ggrant := v }) }

/-- A hart once a write of GBAR has ended the wait of a parked GBARW of gang p with RESET (R279). -/
def endedWait (p : Place) (phase : BitVec 32) (h : Hart) : Hart :=
  match h.place, h.wait with
  | some q, some (.gbar d) =>
    if q.serial = p.serial ∧ q.gang = p.gang then
      { h with wait := some (.done (some d) (BitVec.ofNat 64 (2 ^ 32 + phase.toNat))) }
    else h
  | _, _ => h

/-- t is s after a supervisor write of GBAR by a hart of gang p: the gang has this phase and these arrivals, every
parked GBARW of the gang has ended with RESET, and no other hart and no memory changes (R40, R279). -/
structure Rephased (s : State) (p : Place) (phase : BitVec 32) (arrived : BitVec 5) (t : State) : Prop where
  gang : ∃ g, t.gangOf t.hart = some g ∧ g.phase = phase ∧ g.arrived = arrived
  self : t.hart = passed s
  harts : ∀ k < Config.harts, k ≠ s.cur → t.hartAt k = endedWait p phase (s.hartAt k)
  frame : t = { s with harts := t.harts, launches := t.launches }

end Sys2Proof.Stated

/-- R22, R159, R34, R27, R39. CRW, CRSET and CRCLR change only the fields of the register that the mode may write, and
nothing else of the machine. GGRANT and GBAR act on the gang's one copy, where a write of GBAR ends its parked GBARWs.
SCKM stores at most eight registers of GSET and no enable for a register from 48 up; a
supervisor write that would put a reserved code into VCFG traps ILLEGAL, and any other is made; HMODE takes MIRROR in
both modes and PSUP in supervisor mode. -/
def Obligations.ControlWritesChangeOnlyWritableFields : Prop :=
  (∀ (s : State) (a : BitVec 5) (n : BitVec 12), Quiet s → writableFields s.hart.sup n.toNat ≠ [] →
      let x := s.hart.gget a.toNat
      let old := heldIn s.hart n.toNat
      let w := mayWrite s.hart.sup n.toNat
      Completes (.crw a n) s (Rewrote s n.toNat (fun i => if w i then x.getLsbD i else old.getLsbD i))
      ∧ Completes (.crset a n) s (Rewrote s n.toNat (fun i => old.getLsbD i || w i && x.getLsbD i))
      ∧ Completes (.crclr a n) s (Rewrote s n.toNat (fun i => old.getLsbD i && !(w i && x.getLsbD i))))
  ∧ (∀ (s : State) (a : BitVec 5), Quiet s →
      let h := s.hart
      let x := h.gget a.toNat
      let set := h.sckm ||| x
      let clear := h.sckm &&& ~~~x
      (h.sckm &&& ~~~0x7FFEFFFFFFFE = 0 →
        (∃ v : Word, (∀ i < 64, v.getLsbD i = storedSckm x i)
          ∧ Completes (.crw a 0x007) s (· = s.setHart { passed s with sckm := v }))
        ∧ (∃ v : Word, (∀ i < 64, v.getLsbD i = storedSckm set i)
          ∧ Completes (.crset a 0x007) s (· = s.setHart { passed s with sckm := v }))
        ∧ (∃ v : Word, (∀ i < 64, v.getLsbD i = storedSckm clear i)
          ∧ Completes (.crclr a 0x007) s (· = s.setHart { passed s with sckm := v })))
      ∧ (h.sup = true → h.trapvec ≠ 0 → ∀ p ∈
          [(Instr.crw a 0x000, h.vcfg &&& ~~~0x1FFFFFF ||| x &&& 0x1FFFFFF),
           (Instr.crset a 0x000, h.vcfg ||| x &&& 0x1FFFFFF),
           (Instr.crclr a 0x000, h.vcfg &&& ~~~(x &&& 0x1FFFFFF))],
          (allowedConfig p.2 → Completes p.1 s (· = s.setHart { passed s with vcfg := p.2 }))
          ∧ (¬allowedConfig p.2 → Completes p.1 s (TrapsHere s 1 (wordOf' p.1))))
      ∧ Completes (.crw a 0x011) s (· = s.setHart { passed s with
          psup := if h.sup then x.getLsbD 1 else h.psup, mirror := x.getLsbD 2 })
      ∧ Completes (.crset a 0x011) s (· = s.setHart { passed s with
          psup := h.psup || h.sup && x.getLsbD 1, mirror := h.mirror || x.getLsbD 2 })
      ∧ Completes (.crclr a 0x011) s (· = s.setHart { passed s with
          psup := h.psup && !(h.sup && x.getLsbD 1), mirror := h.mirror && !x.getLsbD 2 }))
  ∧ (∀ (s : State) (a : BitVec 5) (p : Place) (g : Gang), Quiet s → s.hart.place = some p → s.gangOf s.hart = some g →
      let x := s.hart.gget a.toNat
      let field := fun (w : Word) (i n : Nat) => w.toNat / 2 ^ i % 2 ^ n
      let phased := fun (w : Word) => Rephased s p (BitVec.ofNat 32 (field w 16 32)) (BitVec.ofNat 5 (field w 8 5))
      let bar := g.phase.setWidth 64 <<< 16 ||| g.arrived.setWidth 64 <<< 8
      Completes (.crw a 0x013) s (Granted s p x)
      ∧ Completes (.crset a 0x013) s (Granted s p (g.ggrant ||| x))
      ∧ Completes (.crclr a 0x013) s (Granted s p (g.ggrant &&& ~~~x))
      ∧ (s.hart.sup = true → s.hart.wait = none →
        Completes (.crw a 0x012) s (phased x)
        ∧ Completes (.crset a 0x012) s (phased (bar ||| x))
        ∧ Completes (.crclr a 0x012) s (phased (bar &&& ~~~x))))


/-! ### Class 5: traps, fences, strips and context images -/

namespace Sys2Proof.Stated

/-- y is hart h once its stopped convoy is to replay, as far as the convoy and the queue go: from the front that VRESUME
may have moved on, never back and never beyond its VL; members whose registers are kept apart leave out what a handler
has had skipped (R323; log 79). -/
def Replays (h y : Hart) : Prop :=
  (h.stopped = none → y.stopped = none ∧ y.queue = h.queue)
  ∧ (∀ x e es, h.stopped = some x → h.queue = e :: es →
      let vl := e.cap.vcfg.toNat % 8192
      let to' := min (max (h.vresume.toNat % 8192) x.front) vl
      let skipped := List.range' x.front (to' - x.front)
      y.stopped = some { x with front := to' }
      ∧ (x.base = [] → y.queue = h.queue)
      ∧ (x.base ≠ [] → y.queue = h.queue.map (fun q =>
          if q.seq ∈ (headConvoy h.queue).map (·.seq) then { q with gone := q.gone ++ skipped.filter (· ∉ q.ran) }
          else q)))

/-- The trace records that a step may have emitted: nothing else of the device is new but what is named. -/
abbrev Traced (t u : State) : Prop := t = { u with hearths := t.hearths, rings := t.rings, devFlue := t.devFlue }

/-- The held entries still translate to where they were placed when each one's turn to be performed comes (R341), and
no floating add is among them, whose order with others is open (R141). -/
def Performs (s : State) : List Held → Prop
  | [] => True
  | e :: es =>
    e.kind ≠ .addFlt ∧ (∃ loc d, (s.retranslate s.cur e).fin = .at loc d) ∧ (s.retranslate s.cur e).pieces = e.locs
    ∧ Performs ((s.performAt e e.locs).movedBy s.cur e e.locs) es

/-- The registers masked to what the lanes of a strip hold (R16, R19, R28): 8 × VLMAXR bytes and 16 × VLMAXR bits. -/
def clipped (h : Hart) (m : BitVec 32) (mirror : Bool) : Hart :=
  let n := longest m mirror
  { h with
    retiredLanes := m, miract := mirror
    v := h.v.map (· &&& BitVec.ofNat 16384 (2 ^ (64 * n) - 1))
    p := h.p.map (· &&& BitVec.ofNat 4096 (2 ^ (16 * n) - 1)) }

/-- The hart of a strip that opens with a VCFG image and a length (R173). -/
def opened (h : Hart) (img : Word) (vl : Nat) : Hart :=
  { h with
    vcfg := (img &&& 0x1FFE000) ||| BitVec.ofNat 64 vl
    vexit := BitVec.ofNat 64 (65536 + vl), vftrim := 0, ftrimPlace := 0, bound := none, fences := [], lastVl := vl
    stripK := false, drained := false, poisoned := false, paddr := 0, kvcfg := 0, ckpt := none
    stripNo := h.stripNo + 1, keptTiles := 0 }

/-- The least of the values present. -/
def leastOf (x : Nat) (cap : Option Nat) (m : Nat) : Nat := min (min x (cap.getD x)) m

/-- VLMAX of the strip to come, for an image (R28). -/
def roomFor (s : State) (img : Word) : Nat :=
  longest (s.core (s.cur / 4)).retiredLanes s.hart.mirror * 64 / 4 / 2 ^ (img.toNat / 2 ^ 13 % 8)

/-- A strip closes and opens in program mode: no vector instruction and no held entry is pending, nothing was poisoned,
and no pre-emption waits. -/
structure Closes (s : State) : Prop where
  hart : s.cur < Config.harts
  program : s.hart.sup = false
  idle : s.hart.queue = []
  clean : s.hart.poisoned = false
  held : s.hart.held = []
  waiting : s.hart.waiting = []
  stay : s.hart.stopping = none

/-- t is u but for the lane groups of the executing hart's core: which hart of it holds or asks for how many (R386), and
trace records. -/
def Settled (u t : State) : Prop :=
  t.hart = { u.hart with laneSince := t.hart.laneSince, laneShort := t.hart.laneShort }
  ∧ (∀ k, k ≠ u.cur → t.hartAt k = { u.hartAt k with
      laneSince := (t.hartAt k).laneSince, laneShort := (t.hartAt k).laneShort })
  ∧ (∀ k, k / 4 ≠ u.cur / 4 → t.hartAt k = u.hartAt k)
  ∧ (∀ c, c ≠ u.cur / 4 → t.core c = u.core c)
  ∧ t.core (u.cur / 4) = { u.core (u.cur / 4) with groups := (t.core (u.cur / 4)).groups }
  ∧ t = { u with harts := t.harts, cores := t.cores, stamp := t.stamp, hearths := t.hearths, rings := t.rings,
                 devFlue := t.devFlue }

/-- VCFG image of a SETVL: gc, or the present VCFG for g0. -/
def imageFor (s : State) (c : BitVec 5) : Word := if c = 0 then s.hart.vcfg else s.hart.gget c.toNat

/-- The cap of a SETVL: gb, or none for g0. -/
def capFor (s : State) (b : BitVec 5) : Option Nat := if b = 0 then none else some (s.hart.gget b.toNat).toNat

/-- The g registers that a checkpoint holds (R174). -/
def checkpointed (k : Checkpoint) : List Nat := (List.range 32).filter (fun r => r ≠ 0 && k.sckm.getLsbD r)

/-- Written g registers of a hart. -/
def withG (h : Hart) (r : BitVec 5) (v : Word) : Hart :=
  { h with g := if r = 0 then h.g else h.g.setIfInBounds r.toNat v }

end Sys2Proof.Stated

/-- R163, R164, R443, R50: TRAP enters the handler with cause TRAPI and ga in TRAPVAL, BKPT with cause BKPT and 0;
TRAPPC holds the word's own address and TRAPSPC that of the next. While a debugger owns the hart, BKPT halts it
instead and leaves the trap registers. With a handler base of 0, a trap kills the launch with REASON 6: FVAL holds the
TRAPPC it would have written, FGANG and FRANK name the hart, no trap register is written and the mode stays; that the
base is what TRAPVEC holds at the trap is the model's choice (log 89). -/
def Obligations.TrapAndBreakpointEnterTheirHandlers : Prop :=
  ∀ (s : State) (a : BitVec 5), Quiet s →
    let h := s.hart
    (h.trapvec ≠ 0 → Completes (.trap a) s (Entered s 17 false h.pc 0 0 (h.gget a.toNat) (h.pc + 4)))
    ∧ (h.trapvec ≠ 0 → h.dbg.own = false → Completes .bkpt s (Entered s 15 false h.pc 0 0 0 (h.pc + 4)))
    ∧ (h.dbg.own = true → Completes .bkpt s (fun t =>
        t.hart = { h with dbg := { h.dbg with
          halted := true, haltReq := false, armed := false, retired := false, dcause := 15
          dpc := h.pc &&& 0xFFFFFFFFFFFF, dspc := (h.pc + 4) &&& 0xFFFFFFFFFFFF, dstop := 0, dval := 0 } }
        ∧ Traced t (s.setHart t.hart)))
    ∧ (∀ (p : Place) (l : Launch), h.trapvec = 0 → h.place = some p → s.launchOf p.serial = some l → l.kill = none →
      Completes (.trap a) s (fun t =>
        (∃ k ∈ t.launches, k.serial = p.serial ∧ k.state = .draining ∧ k.kill = some
          { reason := 6, fval := h.pc &&& 0xFFFFFFFFFFFF, fgang := p.gang, frank := p.rank })
        ∧ t.hart.trapcause = h.trapcause ∧ t.hart.trappc = h.trappc ∧ t.hart.trapval = h.trapval
        ∧ t.hart.trapmem = h.trapmem ∧ t.hart.trapelem = h.trapelem ∧ t.hart.trapspc = h.trapspc
        ∧ t.hart.sup = h.sup))
    ∧ decode 0x50100004#32 = some (.trap 4)

/-- R165, R323, R168, R169: in supervisor mode ERET goes to TRAPSPC in the mode of PSUP. Back in program mode, a
stopped convoy will replay from the front that VRESUME may have moved on, never back and never beyond its VL, and
VRESUME is 0; members whose registers are kept apart leave out what the handler has had skipped (the model's way, log
79). Back in supervisor mode a stopped convoy stays frozen with its VRESUME, which is the model's choice (log 77). Where
the model's sequencer takes a queue up at once (log 6), an empty queue is assumed. In program mode ERET, CTXSAVE and
CTXLOAD trap PRIV. -/
def Obligations.EretReturnsToTheSavedModeAndWord : Prop :=
  ∀ (s : State), s.cur < Config.harts →
    let h := s.hart
    (h.sup = true → h.trapspc.toNat % 4 ≠ 0 → h.trapvec ≠ 0 → Completes .eret s (TrapsHere s 3 h.trapspc))
    ∧ (h.sup = true → h.trapspc.toNat % 4 = 0 → h.psup = true → Completes .eret s
        (· = s.setHart { passed s with pc := h.trapspc, entering := false, vresume := if h.stopped = none then 0 else h.vresume }))
    ∧ (h.sup = true → h.trapspc.toNat % 4 = 0 → h.psup = false → h.stopping = none → s.eager = false ∨ h.queue = [] →
        Completes .eret s (fun t =>
          t = s.setHart { passed s with
            sup := false, pc := h.trapspc, entering := false, vresume := 0, stopped := t.hart.stopped
            queue := t.hart.queue }
          ∧ Replays h t.hart))
    ∧ (∀ a, Quiet s → h.sup = false → h.trapvec ≠ 0 →
        ∀ i ∈ [Instr.eret, .ctxsave a, .ctxload a], Completes i s (TrapsHere s 2 (wordOf' i)))

/-- R160 to R162, R166, R316: FENCES and YIELD go on in every state, whatever is queued or held; FENCES leaves its
place among the stores of the strip where it has stores before it (the model's way to keep their order, log 78). With
nothing held and nothing poisoned, FENCE and ERRFENCE only go on, as they always do in supervisor mode. A FENCE with
held entries performs them in buffer order and sets STRIP.DRAINED. An ERRFENCE in a poisoned strip that cannot be
rewound traps POISON, with the address of the oldest damaged access in TRAPVAL. -/
def Obligations.FencesPerformWhatIsHeld : Prop :=
  (∀ (s : State), s.cur < Config.harts →
    Completes .fences s (· = s.setHart { passed s with
      fences := if s.hart.held ++ s.hart.waiting = [] ∧ s.hart.queue = [] then [] else s.hart.nextSeq :: s.hart.fences })
    ∧ Completes .yield s (· = s.setHart { passed s with yielded := true }))
  ∧ ∀ (s : State), Quiet s →
    let h := s.hart
    (h.sup = true ∨ (h.held = [] ∧ h.waiting = []) → Completes .fence s (Went s (h.pc + 4)))
    ∧ (h.sup = true ∨ h.poisoned = false → Completes .errfence s (Went s (h.pc + 4)))
    ∧ (h.sup = false → h.held ++ h.waiting ≠ [] → s.bars = [] →
        Performs (s.setHart { h with held := [], waiting := [], drained := true }) (h.held ++ h.waiting) →
        Completes .fence s (fun t =>
          t.hart = { passed s with held := [], waiting := [], drained := true, moved := t.hart.moved }
          ∧ (∀ a, Memory.read t.mem a = Memory.read (s.view h) a)
          ∧ t = { s.setHart t.hart with mem := t.mem, poison := t.poison, transit := t.transit, uecount := t.uecount }))
    ∧ (h.sup = false → h.poisoned = true → h.trapvec ≠ 0 → (h.stripK = false ∨ h.drained = true) →
        Completes .errfence s (TrapsHere s 12 (h.paddr &&& 0xFFFFFFFFFFFF)))

/-- R172, R173, R28: SETVL closes the strip and opens the next with VL the least of request, cap and VLMAX of the new
width, lanes and mirror state; it writes VL to gd and to VCFG with the fields of the image, and clears what belonged to
the old strip. SETVL.K does the same, and where the launch may rewind it keeps a checkpoint. In supervisor mode, and for
an image with a reserved code, SETVL, SETVL.K and SETVLG trap ILLEGAL and close nothing (R316, R173, R176). -/
def Obligations.SetvlOpensTheNextStrip : Prop :=
  (∀ (s : State) (d a b c : BitVec 5), Quiet s → s.hart.trapvec ≠ 0 → s.hart.sup = true ∨ ¬allowedConfig (imageFor s c) →
    ∀ i ∈ [Instr.setvl d a b c, .setvlK d a b c, .setvlg d a b c], Completes i s (TrapsHere s 1 (wordOf' i)))
  ∧ ∀ (s : State) (d a b c : BitVec 5), Closes s →
    let img := imageFor s c
    let vl := leastOf (s.hart.gget a.toNat).toNat (capFor s b) (roomFor s img)
    let new := opened (clipped (withG (passed s) d (BitVec.ofNat 64 vl)) (s.core (s.cur / 4)).retiredLanes
      s.hart.mirror) img vl
    allowedConfig img →
    Completes (.setvl d a b c) s (Settled (s.setHart new))
    ∧ (((s.launchOfHart s.hart).map (·.rewind)).getD false = false →
        Completes (.setvlK d a b c) s (Settled (s.setHart new)))
    ∧ (((s.launchOfHart s.hart).map (·.rewind)).getD false = true →
        Completes (.setvlK d a b c) s (fun t => ∃ k : Checkpoint,
          Settled (s.setHart { new with stripK := true, kvcfg := new.vcfg, ckpt := some k }) t
          ∧ k.resume = s.hart.pc + 4 ∧ k.sckm = new.sckm ∧ k.tiles = new.tiles ∧ k.used = new.binds.map (·.used)
          ∧ k.gs = ((List.range 32).filter (fun i => i ≠ 0 && new.sckm.getLsbD i)).map new.gget
          ∧ (new.sckm.getLsbD 39 = true → k.va = new.vget (new.sckm.toNat / 2 ^ 33 % 64))
          ∧ (new.sckm.getLsbD 46 = true → k.vb = new.vget (new.sckm.toNat / 2 ^ 40 % 64))))

/-- R176: SETVLG draws its length from the gang's GGRANT and moves NEXT on by as much; ga receives the start and gd the
length, gd last. A loop that is dealt out gives length 0 and leaves GGRANT. -/
def Obligations.SetvlgDealsOutTheGangsLoop : Prop :=
  ∀ (s : State) (d a b c : BitVec 5) (p : Place) (g : Gang), Closes s → s.hart.place = some p →
    s.gangOf s.hart = some g →
    let img := imageFor s c
    let start := g.ggrant.toNat % 2 ^ 32
    let total := g.ggrant.toNat / 2 ^ 32
    let len := if total ≤ start then 0 else leastOf (total - start) (capFor s b) (roomFor s img)
    let new := opened (clipped (withG (withG (passed s) a (BitVec.ofNat 64 start)) d (BitVec.ofNat 64 len))
      (s.core (s.cur / 4)).retiredLanes s.hart.mirror) img len
    let deal := fun (k : Gang) => { k with ggrant := BitVec.ofNat 64 (k.ggrant.toNat / 2 ^ 32 * 2 ^ 32 + (start + len) % 2 ^ 32) }
    allowedConfig img →
    Completes (.setvlg d a b c) s (Settled
      (if total ≤ start then s.setHart new else (s.modGang p.serial p.gang deal).setHart new))

/-- R167, R172, R316, R431: HALT closes the strip, frees the hart with its tiles and lane groups, and its rank is
halted; in supervisor mode it discards the frozen queue first, and a poisoned strip then kills the launch with REASON
1 and the address that PADDR holds. -/
def Obligations.HaltEndsTheHartsPart : Prop :=
  (∀ (s : State) (p : Place) (l : Launch) (g : Gang), Quiet s → s.hart.poisoned = false → s.hart.held = [] →
    s.hart.waiting = [] → s.hart.place = some p → s.hart.binds = [] → s.hart.slotRes = false →
    s.launchOf p.serial = some l → g ∈ l.gangs → g.index = p.gang → p.rank < g.ranks.length →
    Completes .halt s (fun t =>
      t.hart.place = none ∧ t.hart.tiles = [] ∧ t.hart.queue = [] ∧ t.hart.stripNo = s.hart.stripNo + 1
      ∧ t.hart.g = s.hart.g ∧ t.hart.pc = s.hart.pc + 4
      ∧ (∀ x ∈ (t.core (s.cur / 4)).groups.toList, x ≠ .holds s.cur)
      ∧ (∃ k ∈ t.launches, k.serial = p.serial ∧ ∃ x ∈ k.gangs, x.index = p.gang ∧ x.ranks[p.rank]? = some .halted)
      ∧ ∀ a, Memory.read t.mem a = Memory.read s.mem a))
  ∧ (∀ (s : State) (p : Place) (l : Launch), s.cur < Config.harts → s.hart.sup = true → s.hart.poisoned = true →
    s.hart.place = some p → s.launchOf p.serial = some l → l.kill = none →
    Completes .halt s (fun t => ∃ k ∈ t.launches, k.serial = p.serial ∧ k.state = .draining ∧ k.kill = some
      { reason := 1, fval := s.hart.paddr &&& 0xFFFFFFFFFFFF, fgang := p.gang, frank := p.rank }))

/-- R172, R431, R432: closing a strip performs its held entries in buffer order. A poisoned strip that can be rewound is
rewound instead: what it held is dropped, the checkpoint's g registers, vector registers and tiles and the USED of every
binding come back, every other register of those kinds stays, and the hart goes on after the SETVL.K that opened it; one
that cannot be rewound traps POISON at the closing word. -/
def Obligations.ClosingAStripPerformsOrRewinds : Prop :=
  ∀ (s : State) (d a b c : BitVec 5), s.cur < Config.harts → s.hart.sup = false → s.hart.queue = [] → s.bars = [] →
    s.hart.stopping = none → allowedConfig (imageFor s c) →
    let h := s.hart
    let paddr := h.paddr &&& 0xFFFFFFFFFFFF
    let lanes := BitVec.ofNat 16384 (2 ^ (64 * longest h.retiredLanes h.miract) - 1)
    (h.poisoned = false → Performs (s.setHart { h with held := [], waiting := [] }) (h.held ++ h.waiting) →
      Completes (.setvl d a b c) s (fun t => t.hart.held = [] ∧ t.hart.waiting = []
        ∧ t.hart.stripNo = h.stripNo + 1 ∧ t.hart.drained = false
        ∧ ∀ x, Memory.read t.mem x = Memory.read (s.view h) x))
    ∧ (h.poisoned = true → h.trapvec ≠ 0 → (h.stripK = false ∨ h.drained = true) →
      Completes (.setvl d a b c) s (TrapsHere s 12 paddr) ∧ Completes .halt s (TrapsHere s 12 paddr))
    ∧ (∀ k, h.poisoned = true → h.stripK = true → h.drained = false → h.ckpt = some k →
      k.gs.length = (checkpointed k).length →
      ∀ i ∈ [Instr.setvl d a b c, .halt, .errfence], Completes i s (fun t =>
        t.hart.pc = k.resume ∧ t.hart.sup = false ∧ t.hart.vcfg = h.kvcfg ∧ t.hart.tiles = k.tiles
        ∧ t.hart.held = [] ∧ t.hart.waiting = [] ∧ t.hart.poisoned = false ∧ t.hart.stripK = false ∧ t.hart.ckpt = none
        ∧ t.hart.vexit = BitVec.ofNat 64 (65536 + h.kvcfg.toNat % 8192) ∧ t.hart.vftrim = 0
        ∧ t.hart.stripNo = h.stripNo
        ∧ (∀ r, ¬(k.sckm.getLsbD r = true ∧ r < 32) → t.hart.gget r = h.gget r)
        ∧ (checkpointed k).map t.hart.gget = k.gs
        ∧ (∀ r < 48, t.hart.vget r =
            if k.sckm.getLsbD 46 = true ∧ k.sckm.toNat / 2 ^ 40 % 64 = r then k.vb &&& lanes
            else if k.sckm.getLsbD 39 = true ∧ k.sckm.toNat / 2 ^ 33 % 64 = r then k.va &&& lanes
            else h.vget r)
        ∧ t.hart.p = h.p ∧ t.hart.binds.length = h.binds.length
        ∧ (∀ (n : Nat) (b : Binding) (u : Nat), h.binds[n]? = some b → k.used[n]? = some u →
            t.hart.binds[n]? = some { b with used := u })
        ∧ ∀ x, Memory.read t.mem x = Memory.read s.mem x))

namespace Sys2Proof.Stated

/-- The image of the executing hart of u lies in memory at base, every register at its place (R324, R325); nothing else
of the hart and no other byte of memory is new. -/
structure ImageSaved (u : State) (base : Nat) (t : State) : Prop where
  hart : t.hart = { passed u with split := true, moved := t.hart.moved }
  magic : leNat (Memory.reads t.mem base 4) = 0x58435842
  scalars : ∀ n < 32, leNat (Memory.reads t.mem (base + 0x100 + 8 * n) 8) = (u.hart.gget n).toNat
  controls : ∀ (n : BitVec 12) v, Shows u n v → leNat (Memory.reads t.mem (base + 0x200 + 8 * n.toNat) 8) = v.toNat
  predicates : ∀ n < 32, leNat (Memory.reads t.mem (base + 0x2000 + 512 * n) 512) = (u.hart.pget n).toNat
  vectors : ∀ n < 48, leNat (Memory.reads t.mem (base + 0x6000 + 2048 * n) 2048) = (u.hart.vget n).toNat
  tiles : (u.hart.held ++ u.hart.waiting).length ≤ 4096 → ∀ (n : Nat) x, u.hart.tiles[n]? = some x → leNat (Memory.reads t.mem (base + 0x2F000 + 49152 * n) 49152) = x.toNat
  rest : ∀ x, x < base ∨ base + (u.image u.cur u.hart true).length ≤ x → Memory.read t.mem x = Memory.read u.mem x

/-- A dword of an image at base, as the hart's own loads see it. -/
def wordAt (s : State) (base off : Nat) : Word := BitVec.ofNat 64 (leNat (Memory.reads (s.view s.hart) (base + off) 8))

/-- What an image at base holds for control register n (R324). -/
def control (s : State) (base n : Nat) : Word := wordAt s base (0x200 + 8 * n)

/-- t is s after the context image at base has been loaded, which has n tiles and these numbers of queued and held
entries (R324 to R329): the registers of the hart come from their places, beyond the live lanes dropped; HMODE.SUP,
TRAPVEC, SSCRATCH and the lane map stay. -/
structure ImageLoaded (s : State) (base : Nat) (hd : Header) (t : State) : Prop where
  pc : t.hart.pc = s.hart.pc + 4
  kept : t.hart.sup = s.hart.sup ∧ t.hart.trapvec = s.hart.trapvec ∧ t.hart.sscratch = s.hart.sscratch
    ∧ t.hart.retiredLanes = s.hart.retiredLanes
  scalars : ∀ n, 1 ≤ n → n < 32 → t.hart.gget n = wordAt s base (0x100 + 8 * n)
  vectors : ∀ n < 48, t.hart.vget n =
    BitVec.ofNat 16384 (leNat (Memory.reads (s.view s.hart) (base + 0x6000 + 2048 * n) 2048))
      &&& BitVec.ofNat 16384 (2 ^ (64 * longest s.hart.retiredLanes t.hart.miract) - 1)
  predicates : ∀ n < 32, t.hart.pget n =
    BitVec.ofNat 4096 (leNat (Memory.reads (s.view s.hart) (base + 0x2000 + 512 * n) 512))
      &&& BitVec.ofNat 4096 (2 ^ (16 * longest s.hart.retiredLanes t.hart.miract) - 1)
  tiles : t.hart.tiles.length = hd.ntiles ∧ ∀ n < hd.ntiles, t.hart.tiles[n]? = some
    (BitVec.ofNat 393216 (leNat (Memory.reads (s.view s.hart) (base + 0x2F000 + 49152 * n) 49152)))
  configuration : t.hart.vcfg = control s base 0x000 ∧ t.hart.vmsk = control s base 0x001
    ∧ t.hart.vstr = control s base 0x002 ∧ t.hart.vpstr = control s base 0x003 ∧ t.hart.heblim = control s base 0x008
    ∧ t.hart.mscale = control s base 0x00B ∧ t.hart.fpmode = control s base 0x00C ∧ t.hart.fpflags = control s base 0x00D
    ∧ ∀ i < 64, t.hart.sckm.getLsbD i = storedSckm (control s base 0x007) i
  progress : t.hart.vresume = control s base 0x004 ∧ t.hart.vexit = control s base 0x005
    ∧ t.hart.vftrim = control s base 0x006 ∧ t.hart.paddr = control s base 0x015 ∧ t.hart.kvcfg = control s base 0x016
  mode : t.hart.psup = (control s base 0x011).getLsbD 1 ∧ t.hart.mirror = (control s base 0x011).getLsbD 2
    ∧ t.hart.miract = (control s base 0x011).getLsbD 3
  strip : t.hart.stripNo.toNat = (control s base 0x014).toNat % 2 ^ 48
    ∧ t.hart.stripK = (control s base 0x014).getLsbD 48 ∧ t.hart.drained = (control s base 0x014).getLsbD 49
    ∧ t.hart.poisoned = (control s base 0x014).getLsbD 50
  counters : t.hart.lcuse = control s base 0x020 ∧ t.hart.lcmask = control s base 0x021
    ∧ t.hart.lctail = control s base 0x022 ∧ t.hart.lcstart = control s base 0x023 ∧ t.hart.lcstall = control s base 0x024
  trap : t.hart.trapcause = control s base 0x040 ∧ t.hart.trappc = control s base 0x041
    ∧ t.hart.trapmem = control s base 0x042 ∧ t.hart.trapelem = control s base 0x043
    ∧ t.hart.trapval = control s base 0x044 ∧ t.hart.trapspc = control s base 0x045
  watch : ∀ n < 4, t.hart.watch[n]? = some
    { addr := wordAt s base (0xC0 + 16 * n) &&& 0xFFFFFFFFFFFC
      elem := leNat (Memory.reads (s.view s.hart) (base + 0xC8 + 16 * n) 2)
      en := (wordAt s base (0xC0 + 16 * n)).getLsbD 0 }
  counts : t.hart.queue.length = hd.nq ∧ (t.hart.held ++ t.hart.waiting).length = hd.nheld
    ∧ t.hart.ckpt.isSome = hd.kvalid
    ∧ t.hart.stopped.isSome = decide (leNat (Memory.reads (s.view s.hart) (base + 0x40) 1) = 1)
  memory : s.hart.binds = [] → ∀ x, Memory.read t.mem x = Memory.read s.mem x

end Sys2Proof.Stated

/-- R168, R169, R324, R325, R329: in supervisor mode CTXSAVE writes the hart's image at ga, with every register at its
place, changes no byte outside it and no register of the hart, and ends a convoy (R111); held entries that touch the
pages of the image are performed first, for the order of R355 (the model's way, log 78). CTXLOAD of an accepted image
restores the registers from those places. An image whose MAGIC is wrong traps ILLEGAL, a misaligned ga ALIGN_DATA, and a
first page that does not translate what its translation found, with ga in TRAPVAL.
Where the specification is silent this rests on the model's choices in log entries 18, 78 and 87. -/
def Obligations.ContextImagesAreWrittenAndRead : Prop :=
  ∀ (s : State) (a : BitVec 5) (base : Nat), s.cur < Config.harts → s.hart.sup = true → s.bars = [] →
    s.poison = [] → s.transit = [] → Memory.wf s.mem = true →
    let h := s.hart
    let ga := h.gget a.toNat
    let size := (s.image s.cur h true).length
    let page := fun (acc : Acc) (k : Nat) =>
      base + 4096 * k + 4096 ≤ Config.sdmLoc ∧ ∃ d, s.xlate .scalar acc (ga + BitVec.ofNat 64 (4096 * k)) = .at (base + 4096 * k) d
    let pages := fun (n : Nat) => (List.range ((n + 4095) / 4096)).map (fun k => base + 4096 * k)
    (ga.toNat % 4096 ≠ 0 → h.trapvec ≠ 0 →
      Completes (.ctxsave a) s (TrapsHere s 4 ga) ∧ Completes (.ctxload a) s (TrapsHere s 4 ga))
    ∧ (∀ c, ga.toNat % 4096 = 0 → h.trapvec ≠ 0 →
      (s.xlate .scalar .store ga = .fault c → Completes (.ctxsave a) s (TrapsHere s c ga))
      ∧ (s.xlate .scalar .load ga = .fault c → Completes (.ctxload a) s (TrapsHere s c ga)))
    ∧ (ga.toNat % 4096 = 0 → (∀ k, 4096 * k < size → page .store k) →
      (NotHeldAt s base (4096 * ((size + 4095) / 4096)) → Completes (.ctxsave a) s (ImageSaved s base))
      ∧ (∀ u, s.performPages (pages size) size = (u, true) → u.bars = [] → Memory.wf u.mem = true →
          (u.image u.cur u.hart true).length ≤ size → Completes (.ctxsave a) s (ImageSaved u base))
      ∧ (∀ u, s.performPages (pages size) size = (u, false) → Completes (.ctxsave a) s (· = u)))
    ∧ (ga.toNat % 4096 = 0 → page .load 0 → h.trapvec ≠ 0 → leNat (Memory.reads (s.view h) base 4) ≠ 0x58435842 →
      Completes (.ctxload a) s (TrapsHere s 1 ga))
    ∧ (∀ hd l, ga.toNat % 4096 = 0 → readHeader (pageRead (s.view h) [base]) = some hd →
      (∀ k, 4096 * k < hd.size → page .load k) →
      let rd := pageRead (s.view h) (pages hd.size)
      readImageFile rd hd (imageVlmax rd h) = some l →
      hd.ntiles ≤ s.freeTiles (s.cur / 4) + h.tiles.length + h.keptTiles →
      Completes (.ctxload a) s (ImageLoaded s base hd))

/-! ### The vector sequencer -/

namespace Sys2Proof.Stated

/-- The vector words: classes 8 to 13, CPYG, and the V instructions of class 15. -/
def isVector : Instr → Bool
  | .vadd .. => true
  | .vsub .. => true
  | .vmul .. => true
  | .vmulh .. => true
  | .vmulhz .. => true
  | .vmadd .. => true
  | .vmsub .. => true
  | .vand .. => true
  | .vor .. => true
  | .vxor .. => true
  | .vsll .. => true
  | .vsrl .. => true
  | .vsra .. => true
  | .vmin .. => true
  | .vmax .. => true
  | .vminz .. => true
  | .vmaxz .. => true
  | .vsadd .. => true
  | .vssub .. => true
  | .vsaddz .. => true
  | .vssubz .. => true
  | .vabsd .. => true
  | .vfadd .. => true
  | .vfsub .. => true
  | .vfmul .. => true
  | .vfma .. => true
  | .vfms .. => true
  | .vfnma .. => true
  | .vfdiv .. => true
  | .vfsqrt .. => true
  | .vfmin .. => true
  | .vfmax .. => true
  | .vfexp2 .. => true
  | .vfcvt .. => true
  | .vfclass .. => true
  | .vfsgnj .. => true
  | .pand .. => true
  | .por .. => true
  | .pxor .. => true
  | .pandn .. => true
  | .pset .. => true
  | .pclr .. => true
  | .pmov .. => true
  | .pexitb .. => true
  | .pexita .. => true
  | .pfirst .. => true
  | .pcnt .. => true
  | .pidx .. => true
  | .vcmpEq .. => true
  | .vcmpNe .. => true
  | .vcmpLt .. => true
  | .vcmpLe .. => true
  | .vcmpLtz .. => true
  | .vcmpLez .. => true
  | .vfcmpEq .. => true
  | .vfcmpNe .. => true
  | .vfcmpLt .. => true
  | .vfcmpLe .. => true
  | .vfcmpUn .. => true
  | .vslup .. => true
  | .vsldn .. => true
  | .vcompress .. => true
  | .vexpand .. => true
  | .vperm .. => true
  | .vid .. => true
  | .viota .. => true
  | .vmerge .. => true
  | .vbcast .. => true
  | .vextr .. => true
  | .vins .. => true
  | .vrsum .. => true
  | .vrmax .. => true
  | .vrmin .. => true
  | .vfrsum .. => true
  | .vfrsumo .. => true
  | .vfrmax .. => true
  | .vfrmin .. => true
  | .vrscl .. => true
  | .vargmax .. => true
  | .vpsplit .. => true
  | .vpjoin .. => true
  | .vpadd .. => true
  | .vld .. => true
  | .vlds .. => true
  | .vldx .. => true
  | .vldf .. => true
  | .vst .. => true
  | .vsts .. => true
  | .vstx .. => true
  | .vscadd .. => true
  | .vmerget .. => true
  | .vpld .. => true
  | .vpst .. => true
  | .vxpand .. => true
  | .vbind .. => true
  | .vunbind .. => true
  | .mattach .. => true
  | .mdetach => true
  | .mzero .. => true
  | .mxacc .. => true
  | .mxsub .. => true
  | .mrowv .. => true
  | .mcolv .. => true
  | .mvrow .. => true
  | .mtst .. => true
  | .mtld .. => true
  | .cpyg .. => true
  | .vsample .. => true
  | .vpen .. => true
  | .gmask .. => true
  | .vhlook .. => true
  | _ => false

/-- VL, the element width in bits and the format code of VCFG (R26). -/
def vlNow (s : State) : Nat := s.hart.vcfg.toNat % 8192
/-- EW. -/
def ewNow (s : State) : Nat := s.hart.vcfg.toNat / 2 ^ 13 % 8
/-- Bits of an element. -/
def bitsNow (s : State) : Nat := 4 * 2 ^ ewNow s
/-- FMT. -/
def fmtNow (s : State) : Nat := s.hart.vcfg.toNat / 2 ^ 16 % 8

/-- Bits of a register that the lanes of the strip hold. -/
def roomNow (s : State) : Nat := 64 * longest s.hart.retiredLanes s.hart.miract

/-- Element k of a register at a width (R12, R13). -/
def elementAt (r : VReg) (w k : Nat) : Nat := (r.extractLsb' (w * k) w).toNat

/-- Element k of source register a. -/
def el (s : State) (w : Nat) (a : BitVec 6) (k : Nat) : Nat := elementAt (s.hart.vget a.toNat) w k

/-- Is element k active: below VL and let through by the governing predicate (R7, R29)? -/
def activeAt (s : State) (k : Nat) : Bool :=
  decide (k < vlNow s) && (!s.hart.vmsk.getLsbD 5 || (s.hart.pget (s.hart.vmsk.toNat % 32)).getLsbD k)

/-- The annulment bound of the next vector instruction (R181). -/
def boundNow (s : State) : Nat := s.hart.bound.getD (vlNow s)

/-- Does a vector instruction act on element k: is it active and not annulled (R197)? -/
def live (s : State) (k : Nat) : Bool := activeAt s k && decide (k < boundNow s)

/-- The element of vb that a replicate code pairs with element k (R94). -/
def paired (r : BitVec 3) (k : Nat) : Nat :=
  if r = 4 then 0 else if r = 5 then k % 8 else if r = 6 then k % 32 else if r = 7 then k % 128 else k

/-- A vector instruction that names these registers runs at once and by itself: program mode, nothing queued, no
scalar store waiting for room, no single step armed; the sequencer takes it up (the model's choice, log 6), since its
convoy is known to end with it and its core picks no other hart first; no named register is bound to a stream, no
watch entry matches its address, no soft error waits, and VL elements fit the lanes. -/
structure Alone (s : State) (i : Instr) (named : List (BitVec 6)) : Prop where
  hart : s.cur < Config.harts
  program : s.hart.sup = false
  eager : s.eager = true
  idle : s.hart.queue = []
  clear : s.hart.waiting = []
  fresh : s.hart.stopped = none
  sound : s.hart.regError = false
  registers : ∀ r ∈ named, r.toNat < 48
  unbound : ∀ b ∈ s.hart.binds, ∀ r ∈ named, r.toNat ∉ b.regs
  unwatched : ∀ (k : Nat) (w : Watch), s.hart.watch[k]? = some w → w.en = true → w.addr ≠ s.hart.pc
  matched : s.hart.miract = true → s.hart.mirrorError = []
  next : (s.enqueue i).convoyPick = some s.cur
  stepping : s.hart.dbg.armed = false
  fits : vlNow s * bitsNow s ≤ roomNow s

/-- t is s after the hart became h and one vector instruction retired: the pc is at the next word, the hart has been
picked and waits no longer (R383, R384), the counters of lane cycles and of the arithmetic clocks to come may have
moved, and nothing else is new. -/
def Stepped (s : State) (h : Hart) (t : State) : Prop :=
  t = s.setHart { h with
    pc := s.hart.pc + 4, nextSeq := s.hart.nextSeq + 1, split := false, lastVl := vlNow s, queue := []
    stopped := none, watched := [], readyClocks := 0, promoted := none, tileReady := 0, tilePromoted := none
    yielded := false, dbg := { s.hart.dbg with retired := true }
    lcuse := t.hart.lcuse, lcmask := t.hart.lcmask, lctail := t.hart.lctail, lcstart := t.hart.lcstart
    activity := t.hart.activity, ahead := t.hart.ahead }

/-- t is s after elements of width w of register d were computed: f gives them where the instruction acts (R197); the
others keep their bytes, or are zero under VCFG.ZERO; nothing at or above VL changes (R15); the flags g of the elements
acted on join FPFLAGS (R199). -/
structure Computed (s : State) (d : BitVec 6) (w : Nat) (f g : Nat → Nat) (t : State) : Prop where
  written : ∀ k < vlNow s, live s k = true → elementAt (t.hart.vget d.toNat) w k = f k
  masked : ∀ k < vlNow s, live s k = false →
    elementAt (t.hart.vget d.toNat) w k =
      if s.hart.vcfg.getLsbD 23 then 0 else elementAt (s.hart.vget d.toNat) w k
  tail : ∀ i, vlNow s * w ≤ i → (t.hart.vget d.toNat).getLsbD i = (s.hart.vget d.toNat).getLsbD i
  others : ∀ r, r ≠ d.toNat → t.hart.vget r = s.hart.vget r
  flags : ∀ i < 64, t.hart.fpflags.getLsbD i =
    (s.hart.fpflags.getLsbD i || decide (i < 5) && (List.range (vlNow s)).any (fun k => live s k && (g k).testBit i))
  frame : Stepped s { s.hart with v := t.hart.v, fpflags := t.hart.fpflags } t

/-- A replicate code, with a vb that is not the destination where it is read through one (R94, R194). -/
def replicates (d b : BitVec 6) (r : BitVec 3) : Prop := (r = 0 ∨ 4 ≤ r.toNat) ∧ (r ≠ 0 → d ≠ b)

/-- The format that EW and FMT name, and whether class 9 takes it (R27, R196). -/
def formatNow (s : State) : Fmt :=
  if ewNow s = 1 then (if fmtNow s = 0 then e4m3 else e5m2)
  else if ewNow s = 2 then (if fmtNow s = 0 then bf16 else fp16)
  else if ewNow s = 3 then fp32 else fp64

/-- Class 9 takes the format: not block-scaled (R196). -/
def takesFloats (s : State) : Prop :=
  ((ewNow s = 1 ∨ ewNow s = 2) ∧ fmtNow s < 2) ∨ ((ewNow s = 3 ∨ ewNow s = 4) ∧ fmtNow s = 0)

/-- The class of an E4M3 code, which has no infinities and one NaN of each sign (R118, R202). -/
def classE4M3 (x : Nat) : Nat :=
  let neg := x / 128 % 2 = 1
  if x % 128 = 127 then 8
  else if x / 8 % 16 = 0 then (if x % 8 = 0 then (if neg then 3 else 4) else if neg then 2 else 5)
  else if neg then 1 else 6

/-- An exact integer brought into a range. -/
def clampTo (lo hi x : Int) : Int := if x < lo then lo else if hi < x then hi else x

/-- T is the table of R204: T[j] is the integer nearest to 2^(j/64) × 2^30. -/
def expTableOf (T : Nat → Nat) : Prop := ∀ j < 64, (2 * T j - 1) ^ 64 < 2 ^ (1984 + j) ∧ 2 ^ (1984 + j) < (2 * T j + 1) ^ 64

/-- 2^x of R204 and R205 for a finite x that is neither above 200 nor below −200. -/
def expOf (f : Fmt) (T : Nat → Nat) (neg : Bool) (m : Nat) (e : Int) : Nat × Nat :=
  let X := (toIntVal .rne neg m (e + 23)).1
  let n := X / 2 ^ 23
  let r := (X - n * 2 ^ 23).toNat
  let d := r % 2 ^ 17
  let q3 := 0xE35846C * d / 2 ^ 23
  let q2 := (0x3D7F7BFF + q3) * d / 2 ^ 23
  let q1 := (0xB17217F8 + q2) * d / 2 ^ 23
  let c := roundFin f .rne false false (T (r / 2 ^ 17) * (2 ^ 32 + q1)) (n - 62)
  (c.1, if 0 ≤ e ∨ m % 2 ^ (-e).toNat = 0 then c.2 else c.2 ||| 1)

/-- Bits of the type that a code of R97 names. -/
def typeWidth (t : BitVec 5) : Nat :=
  if 16 ≤ t.toNat then 8 * 2 ^ ((t.toNat - 16) / 2)
  else if t = 0 then 4 else if t.toNat < 4 then 8 else if t.toNat < 7 then 16 else if t = 7 then 32 else 64

/-- The block-scaled types (R97). -/
def isScaled (t : BitVec 5) : Prop := t = 0 ∨ t = 3 ∨ t = 6

/-- The format of a floating type code. -/
def typeFormat (t : BitVec 5) : Fmt :=
  if t = 0 then e2m1 else if t = 1 then e4m3 else if t = 2 then e5m2 else if t = 3 then fmtM8 else if t = 4 then bf16
  else if t = 5 then fp16 else if t = 6 then fmtM16 else if t = 7 then fp32 else fp64

/-- A type code of R97. -/
def isType (t : BitVec 5) : Prop := t.toNat ≤ 8 ∨ (16 ≤ t.toNat ∧ t.toNat ≤ 23)

/-- The scale pair of the block of element k: that of MSCALE.SA under EN, else scale 1 with special 0 (R207). -/
def pairAt (s : State) (k : Nat) : Nat :=
  if s.hart.mscale.getLsbD 12 then
    elementAt (s.hart.vget (s.hart.mscale.toNat % 64)) 16 (k / (16 * 2 ^ (s.hart.vcfg.toNat / 2 ^ 21 % 4)))
  else 0x7F

/-- The integer that a code of an integer type holds. -/
def intOf (t : BitVec 5) (x : Nat) : Int :=
  if t.toNat % 2 = 0 then (BitVec.ofNat (typeWidth t) x).toInt else (BitVec.ofNat (typeWidth t) x).toNat

/-- The range of an integer type. -/
def lowest (t : BitVec 5) : Int := if t.toNat % 2 = 0 then -2 ^ (typeWidth t - 1) else 0
/-- Its greatest value. -/
def highest (t : BitVec 5) : Int := if t.toNat % 2 = 0 then 2 ^ (typeWidth t - 1) - 1 else 2 ^ typeWidth t - 1

end Sys2Proof.Stated

namespace Sys2Proof.Stated

/-- The functions of class 8 with the integer compares (R196, R200). -/
def integerWords (d a b : BitVec 6) (p : BitVec 5) (x y : BitVec 1) (r : BitVec 3) : List Instr :=
  [.vadd d a b x y r, .vsub d a b x y r, .vmul d a b x y r, .vmulh d a b x y r, .vmulhz d a b x y r, .vmadd d a b x y r,
    .vmsub d a b x y r, .vand d a b x y r, .vor d a b x y r, .vxor d a b x y r, .vsll d a b x y r, .vsrl d a b x y r,
    .vsra d a b x y r, .vmin d a b x y r, .vmax d a b x y r, .vminz d a b x y r, .vmaxz d a b x y r, .vsadd d a b x y r,
    .vssub d a b x y r, .vsaddz d a b x y r, .vssubz d a b x y r, .vabsd d a b x y r, .vcmpEq p a b x y r,
    .vcmpNe p a b x y r, .vcmpLt p a b x y r, .vcmpLe p a b x y r, .vcmpLtz p a b x y r, .vcmpLez p a b x y r,
    .vrsum d a, .vrmax d a, .vrmin d a]

/-- The functions of class 9 with the floating compares and reductions that take every format but block-scaled ones
(R196, R201). -/
def floatWords (d a b : BitVec 6) (p : BitVec 5) (x y : BitVec 1) (r : BitVec 3) : List Instr :=
  [.vfadd d a b x y r, .vfsub d a b x y r, .vfmul d a b x y r, .vfma d a b x y r, .vfms d a b x y r, .vfnma d a b x y r,
    .vfdiv d a b x y r, .vfsqrt d a x, .vfmin d a b x y r, .vfmax d a b x y r, .vfclass d a x, .vfsgnj d a b x y r,
    .vfcmpEq p a b x y r, .vfcmpNe p a b x y r, .vfcmpLt p a b x y r, .vfcmpLe p a b x y r, .vfcmpUn p a b x y r,
    .vfrsum d a, .vfrsumo d a, .vfrmax d a, .vfrmin d a, .vargmax d a]

/-- Integer words of classes 8 and 11 that write register d and read register d through a replicate code, or read d
whole while they move elements across it (R194). -/
def overlapping (d b : BitVec 6) (g : BitVec 5) (x y : BitVec 1) (r : BitVec 3) : List Instr :=
  [.vadd d b d x y r, .vsub d b d x y r, .vmul d b d x y r, .vmulh d b d x y r, .vmulhz d b d x y r, .vmadd d b d x y r,
    .vmsub d b d x y r, .vand d b d x y r, .vor d b d x y r, .vxor d b d x y r, .vsll d b d x y r, .vsrl d b d x y r,
    .vsra d b d x y r, .vmin d b d x y r, .vmax d b d x y r, .vminz d b d x y r, .vmaxz d b d x y r, .vsadd d b d x y r,
    .vssub d b d x y r, .vsaddz d b d x y r, .vssubz d b d x y r, .vabsd d b d x y r, .vmerge d b d x y r,
    .vslup d d g g, .vsldn d d g g, .vcompress d d b, .vexpand d d b, .vperm d d b, .vperm d b d, .vrsum d d, .vrmax d d,
    .vrmin d d]

/-- Floating words of classes 9 and 11 that do so. -/
def overlappingFloats (d b : BitVec 6) (x y : BitVec 1) (r : BitVec 3) : List Instr :=
  [.vfadd d b d x y r, .vfsub d b d x y r, .vfmul d b d x y r, .vfma d b d x y r, .vfms d b d x y r, .vfnma d b d x y r,
    .vfdiv d b d x y r, .vfmin d b d x y r, .vfmax d b d x y r, .vfsgnj d b d x y r, .vfrsum d d, .vfrsumo d d,
    .vfrmax d d, .vfrmin d d, .vargmax d d]

/-- Is a register one of the three planes that a planed operand names by its leading one (R18)? -/
def isPlaneOf (r leading : BitVec 6) : Prop := ∃ k < 3, r.toNat = leading.toNat + 16 * k

/-- A hart of program mode with nothing queued that has a handler. -/
structure AtIssue (s : State) : Prop where
  hart : s.cur < Config.harts
  program : s.hart.sup = false
  idle : s.hart.queue = []
  handler : s.hart.trapvec ≠ 0
  unbound : s.hart.binds = []
  config : allowedConfig s.hart.vcfg

end Sys2Proof.Stated

/-- R24, R45, R79, R316: in program mode a vector word that no check of R317 stops enters the command queue with its
address, its scalar operands and the captured control values, and the scalar unit goes on; here the sequencer leaves
the queue alone until a CONVOY_START (the model's `eager` is off, log 6) and the queue has room. In supervisor mode
every vector word, and every SETVL, SETVL.K and SETVLG, traps ILLEGAL. At issue a word traps ILLEGAL under an element
width or format that R196 forbids it, then OVERLAP for a register it would rewrite while reading it (R194), then
VL_RANGE for a VL above VLMAX (R27) or above its entry's limit, or for an NCOL or index above its own (R250, R253). -/
def Obligations.VectorWordsEnterTheQueue : Prop :=
  (∀ (s : State) (i : Instr), s.cur < Config.harts →
    let h := s.hart
    let entry : QEntry :=
      { instr := i, addr := h.pc, opa := h.gget ((scalarSources i).getD 0 0), opb := h.gget ((scalarSources i).getD 1 0)
        cap := { vcfg := h.vcfg, vmsk := h.vmsk, vstr := h.vstr, vpstr := h.vpstr, fpmode := h.fpmode
                 mscale := h.mscale, sckm := h.sckm, heblim := h.heblim, mirror := h.mirror }
        consumed := false, seq := h.nextSeq, begun := false, split := h.split }
    (isVector i = true → h.sup = false → s.eager = false → h.queue.length < 32 → changesBindings h.queue = false →
      readsLadder i = false ∨ h.queue = [] → writesG h.queue = false ∨ scalarSources i = [] →
      illegalAtIssue i entry.cap = false → overlaps i entry.cap = false → streamTrap h i entry.cap = false →
      vlTrap h i entry.cap entry.opa (s.ladderOf i entry.opa) = none →
      Completes i s (· = s.setHart { h with
        queue := h.queue ++ [entry], nextSeq := h.nextSeq + 1, split := false, lastVl := vlNow s
        pc := h.pc + 4 }))
    ∧ (h.sup = true → h.trapvec ≠ 0 →
        isVector i = true ∨ (∃ d a b c, i = .setvl d a b c ∨ i = .setvlK d a b c ∨ i = .setvlg d a b c) →
        Completes i s (TrapsHere s 1 (wordOf' i))))
  ∧ (∀ (s : State) (d a b : BitVec 6) (p g : BitVec 5) (x y : BitVec 1) (r : BitVec 3), AtIssue s →
      (ewNow s = 0 → ∀ i ∈ integerWords d a b p x y r, Completes i s (TrapsHere s 1 (wordOf' i)))
      ∧ (¬takesFloats s → ∀ i ∈ floatWords d a b p x y r, Completes i s (TrapsHere s 1 (wordOf' i)))
      ∧ (¬takesFloats s ∨ ewNow s = 4 → ∀ i ∈ [Instr.vfexp2 d a x, .vrscl d a b], Completes i s (TrapsHere s 1 (wordOf' i)))
      ∧ (1 ≤ ewNow s → 4 ≤ r.toNat → ∀ i ∈ overlapping d b g x y r, Completes i s (TrapsHere s 11 (wordOf' i)))
      ∧ (takesFloats s → 4 ≤ r.toNat → ∀ i ∈ overlappingFloats d b x y r, Completes i s (TrapsHere s 11 (wordOf' i)))
      ∧ (takesFloats s → ewNow s ≠ 4 → ∀ i ∈ [Instr.vrscl d d b, .vrscl d b d], Completes i s (TrapsHere s 11 (wordOf' i)))
      ∧ (∀ l, (isPlaneOf a d → Completes (.vpsplit d a l) s (TrapsHere s 11 (wordOf' (.vpsplit d a l))))
          ∧ (isPlaneOf d a → Completes (.vpjoin d a l) s (TrapsHere s 11 (wordOf' (.vpjoin d a l)))))
      ∧ (∀ t u, isScaled t ∨ isScaled u → d.toNat < 48 → s.hart.mscale.getLsbD 12 = true →
          s.hart.mscale.toNat % 64 = d.toNat →
          Completes (.vfcvt d a t u x) s (TrapsHere s 11 (wordOf' (.vfcvt d a t u x))))
      ∧ (∀ i, isVector i = true → illegalAtIssue i s.hart.capture = false → overlaps i s.hart.capture = false →
          roomNow s < vlNow s * bitsNow s → Completes i s (TrapsHere s 9 (BitVec.ofNat 64 (vlNow s)))))
  ∧ (∀ (s : State) (t : BitVec 2) (d a b : BitVec 6) (g : BitVec 5) (x y : BitVec 1) (f : BitVec 4), AtIssue s →
      vlNow s * 64 ≤ roomNow s →
      let at' := s.hart.gget g.toNat
      let ncol := s.hart.mscale.toNat / 2 ^ 16 % 128
      let limit := fun (i : Instr) (most : Nat) (bad : Prop) (v : Word) =>
        (most < vlNow s → Completes i s (TrapsHere s 9 (BitVec.ofNat 64 (vlNow s))))
        ∧ (vlNow s ≤ most → bad → Completes i s (TrapsHere s 9 v))
      limit (.mrowv t d (g.setWidth 6)) 96 (127 < at'.toNat) at' ∧ limit (.mcolv t d (g.setWidth 6)) 128 (95 < at'.toNat) at'
      ∧ limit (.mvrow t a (g.setWidth 6)) 96 (127 < at'.toNat) at'
      ∧ limit (.mxacc t a b x y f 0) 128 (ncol = 0 ∨ 96 < ncol) (BitVec.ofNat 64 ncol)
      ∧ limit (.mxsub t a b x y f 0) 128 (ncol = 0 ∨ 96 < ncol) (BitVec.ofNat 64 ncol))

/-- R200, R197, R15: the class 8 functions, element by element at widths 8 to 64, without a flag. -/
def Obligations.VectorIntegersGiveTheirResults : Prop :=
  ∀ (s : State) (d a b : BitVec 6) (x y : BitVec 1) (r : BitVec 3), 1 ≤ ewNow s → ewNow s ≤ 4 → replicates d b r →
    let w := bitsNow s
    let A := fun k => BitVec.ofNat w (el s w a k)
    let B := fun k => BitVec.ofNat w (el s w b (paired r k))
    let D := fun k => BitVec.ofNat w (el s w d k)
    let sh := fun k => (B k).toNat % w
    let gives := fun (i : Instr) (f : Nat → BitVec w) =>
      Alone s i [d, a, b] → Completes i s (Computed s d w (fun k => (f k).toNat) (fun _ => 0))
    gives (.vadd d a b x y r) (fun k => A k + B k)
    ∧ gives (.vsub d a b x y r) (fun k => A k - B k)
    ∧ gives (.vmul d a b x y r) (fun k => A k * B k)
    ∧ gives (.vmulh d a b x y r) (fun k => (((A k).signExtend (2 * w)) * ((B k).signExtend (2 * w))).extractLsb' w w)
    ∧ gives (.vmulhz d a b x y r) (fun k => (((A k).setWidth (2 * w)) * ((B k).setWidth (2 * w))).extractLsb' w w)
    ∧ gives (.vmadd d a b x y r) (fun k => D k + A k * B k)
    ∧ gives (.vmsub d a b x y r) (fun k => D k - A k * B k)
    ∧ gives (.vand d a b x y r) (fun k => A k &&& B k)
    ∧ gives (.vor d a b x y r) (fun k => A k ||| B k)
    ∧ gives (.vxor d a b x y r) (fun k => A k ^^^ B k)
    ∧ gives (.vsll d a b x y r) (fun k => A k <<< sh k)
    ∧ gives (.vsrl d a b x y r) (fun k => A k >>> sh k)
    ∧ gives (.vsra d a b x y r) (fun k => (A k).sshiftRight (sh k))
    ∧ gives (.vmin d a b x y r) (fun k => if (A k).toInt ≤ (B k).toInt then A k else B k)
    ∧ gives (.vmax d a b x y r) (fun k => if (A k).toInt ≤ (B k).toInt then B k else A k)
    ∧ gives (.vminz d a b x y r) (fun k => if (A k).toNat ≤ (B k).toNat then A k else B k)
    ∧ gives (.vmaxz d a b x y r) (fun k => if (A k).toNat ≤ (B k).toNat then B k else A k)
    ∧ gives (.vsadd d a b x y r) (fun k =>
        BitVec.ofInt w (clampTo (-2 ^ (w - 1)) (2 ^ (w - 1) - 1) ((A k).toInt + (B k).toInt)))
    ∧ gives (.vssub d a b x y r) (fun k =>
        BitVec.ofInt w (clampTo (-2 ^ (w - 1)) (2 ^ (w - 1) - 1) ((A k).toInt - (B k).toInt)))
    ∧ gives (.vsaddz d a b x y r) (fun k => BitVec.ofInt w (clampTo 0 (2 ^ w - 1) ((A k).toNat + (B k).toNat)))
    ∧ gives (.vssubz d a b x y r) (fun k =>
        BitVec.ofInt w (clampTo 0 (2 ^ w - 1) (((A k).toNat : Int) - ((B k).toNat : Int))))
    ∧ gives (.vabsd d a b x y r) (fun k => BitVec.ofNat w ((A k).toInt - (B k).toInt).natAbs)

/-- R201 to R203, R118, R124 to R126: the class 9 arithmetic on exact values, rounded once into the format of EW and FMT
in the captured mode, with its flags; minima and maxima by R147; classes; and sign injection on the codes.
Where the specification is silent this rests on the model's choices in log entry 22. -/
def Obligations.VectorFloatsRoundTheExactResult : Prop :=
  ∀ (s : State) (d a b : BitVec 6) (x y : BitVec 1) (r : BitVec 3), takesFloats s → replicates d b r →
    let w := bitsNow s
    let f := formatNow s
    let rm := mode s
    let A := fun k => el s w a k
    let B := fun k => el s w b (paired r k)
    let u := fun k => decodeF f (A k)
    let v := fun k => decodeF f (B k)
    let z := fun k => decodeF f (el s w d k)
    let gives := fun (i : Instr) (g : Nat → Nat × Nat) =>
      Alone s i [d, a, b] → Completes i s (Computed s d w (fun k => (g k).1) (fun k => (g k).2))
    let pick := fun (second : Bool) (k : Nat) =>
      if u k = .nan then (if v k = .nan then nanOf f else B k) else if v k = .nan then A k
        else if second then B k else A k
    let sign := fun (n : Nat) => n / 2 ^ (w - 1)
    gives (.vfadd d a b x y r) (fun k => roundPair f rm (addVal rm (u k) (v k)))
    ∧ gives (.vfsub d a b x y r) (fun k => roundPair f rm (addVal rm (u k) (negVal (v k))))
    ∧ gives (.vfmul d a b x y r) (fun k => roundPair f rm (mulVal (u k) (v k)))
    ∧ gives (.vfma d a b x y r) (fun k => roundPair f rm (fmaVal rm (u k) (v k) (z k)))
    ∧ gives (.vfms d a b x y r) (fun k => roundPair f rm (fmaVal rm (u k) (v k) (negVal (z k))))
    ∧ gives (.vfnma d a b x y r) (fun k => roundPair f rm (fmaVal rm (negVal (u k)) (v k) (z k)))
    ∧ gives (.vfdiv d a b x y r) (fun k => roundPair f rm (divVal (u k) (v k)))
    ∧ gives (.vfsqrt d a x) (fun k => roundPair f rm (sqrtVal (u k)))
    ∧ gives (.vfmin d a b x y r) (fun k => (pick (before (v k) (u k)) k, 0))
    ∧ gives (.vfmax d a b x y r) (fun k => (pick (before (u k) (v k)) k, 0))
    ∧ gives (.vfclass d a x) (fun k => (if f = e4m3 then classE4M3 (A k) else classBit f (A k), 0))
    ∧ gives (.vfsgnj d a b x y r) (fun k =>
        (if u k = .nan then nanOf f else A k % 2 ^ (w - 1) + sign (B k) * 2 ^ (w - 1), 0))

/-- R204, R205: VFEXP2, from its table and polynomial, with one rounding to nearest whatever FPMODE holds, and the
flags of the first row of R205 that applies. -/
def Obligations.VectorExponentialsFollowTheirAlgorithm : Prop :=
  ∀ (s : State) (d a : BitVec 6) (x : BitVec 1) (T : Nat → Nat), takesFloats s → ewNow s < 4 → expTableOf T →
    Alone s (.vfexp2 d a x) [d, a] →
    let w := bitsNow s
    let f := formatNow s
    let g := fun (k : Nat) => match decodeF f (el s w a k) with
      | .nan => (nanOf f, 0)
      | .inf neg => if neg then (0, 0) else (infOf f false, 0)
      | .fin neg m e =>
        if ltVal (.fin false 200 0) (.fin neg m e) then (infOf f false, 5)
        else if ltVal (.fin neg m e) (.fin true 200 0) then (0, 3)
        else expOf f T neg m e
    Completes (.vfexp2 d a x) s (Computed s d w (fun k => (g k).1) (fun k => (g k).2))
    ∧ decode 0x9141000A#32 = some (.vfexp2 5 1 0)

/-- R206 to R208: VFCVT reads at the source type's width and writes at the destination type's: integers wrap, or clamp
under SAT; a floating value rounds into an integer type by R128 and into a floating one by R124 and R125, where SAT acts
on a conversion to a format that cannot hold the source's range; a block-scaled type takes its block's scale pair.
Where the specification is silent this rests on the model's choices in log entries 20 and 21; that a conversion to a
wider type with vd = va reads the elements as they stood before any write is DEDUCED (log 76). -/
def Obligations.VectorConversionsFollowTheirTypes : Prop :=
  ∀ (s : State) (d a : BitVec 6) (t u : BitVec 5) (x : BitVec 1), isType t → isType u →
    vlNow s * max (typeWidth t) (typeWidth u) ≤ roomNow s →
    (isScaled t ∨ isScaled u → s.hart.mscale.getLsbD 12 = true → s.hart.mscale.toNat % 64 < 48
      ∧ s.hart.mscale.toNat % 64 ≠ d.toNat ∧ ∀ b ∈ s.hart.binds, s.hart.mscale.toNat % 64 ∉ b.regs) →
    Alone s (.vfcvt d a t u x) [d, a] →
    let A := fun k => el s (typeWidth t) a k
    let sat := s.hart.vcfg.getLsbD 24
    let gives := fun (g : Nat → Nat × Nat) =>
      Completes (.vfcvt d a t u x) s (Computed s d (typeWidth u) (fun k => (g k).1) (fun k => (g k).2))
    let value := fun k => if 16 ≤ t.toNat then Val.fin (intOf t (A k) < 0) (intOf t (A k)).natAbs 0
      else if t = 0 ∨ t = 3 ∨ t = 6 then decodeM (typeFormat t) (A k) (pairAt s k) else decodeF (typeFormat t) (A k)
    (16 ≤ t.toNat → 16 ≤ u.toNat → gives (fun k =>
      ((BitVec.ofInt (typeWidth u) (if sat then clampTo (lowest u) (highest u) (intOf t (A k)) else intOf t (A k))).toNat,
        0)))
    ∧ (t.toNat < 16 → 16 ≤ u.toNat → gives (fun k => match value k with
      | .nan => (0, 16)
      | .inf neg => ((BitVec.ofInt (typeWidth u) (if neg then lowest u else highest u)).toNat, 16)
      | .fin neg m e =>
        let n := (toIntVal (mode s) neg m e).1
        ((BitVec.ofInt (typeWidth u) (clampTo (lowest u) (highest u) n)).toNat,
          if n < lowest u ∨ highest u < n then 16 else if (toIntVal (mode s) neg m e).2 then 1 else 0)))
    ∧ (u.toNat < 16 → ¬isScaled u → sat = false → gives (fun k => match value k with
      | .nan => (nanOf (typeFormat u), 0)
      | .inf neg => (infOf (typeFormat u) neg, 0)
      | .fin neg m e => roundFin (typeFormat u) (mode s) false neg m e))
    ∧ (u.toNat < 16 → ¬isScaled u → sat = true → gives (fun k =>
        let narrow := ltVal (decodeF (typeFormat u) (largestOf (typeFormat u))) (typeTop t.toNat)
        match value k with
        | .nan => (nanOf (typeFormat u), 0)
        | .inf neg => if narrow then (signAt (typeFormat u) neg + largestOf (typeFormat u), 5)
            else (infOf (typeFormat u) neg, 0)
        | .fin neg m e => roundFin (typeFormat u) (mode s) narrow neg m e))
    ∧ (isScaled u → gives (fun k =>
        if pairAt s k % 256 = 255 then (0, 16)
        else match value k with
          | .nan => (0, 16)
          | .inf neg => (signAt (typeFormat u) neg + largestOf (typeFormat u), 5)
          | .fin neg m e => roundFin (typeFormat u) (mode s) true neg m (e - ((pairAt s k % 256 : Nat) - 127))))

/-! ### Classes 10 and 11: predicates, compares, permutes, reductions, planes -/

namespace Sys2Proof.Stated

/-- t is s after predicate d took f on its bits below VL, and 0 above (R177, R19); flag NV was raised or not. -/
structure Predicated (s : State) (d : BitVec 5) (f : Nat → Bool) (invalid : Bool) (t : State) : Prop where
  bits : ∀ k < 4096, (t.hart.pget d.toNat).getLsbD k = (decide (k < vlNow s) && f k)
  others : ∀ r, r ≠ d.toNat → t.hart.pget r = s.hart.pget r
  frame : Stepped s { s.hart with
    p := t.hart.p, fpflags := if invalid then s.hart.fpflags ||| 16 else s.hart.fpflags } t

/-- Is element k acted on and selected by predicate p? -/
def chosen (s : State) (p : Nat) (k : Nat) : Bool := live s k && (s.hart.pget p).getLsbD k

/-- The annulment bound, at most VL. -/
def limitNow (s : State) : Nat := min (boundNow s) (vlNow s)

/-- t is s after a break with exit index x (R180, R181); the one break of the queue is resolved (R32). -/
structure Broke (s : State) (d : BitVec 5) (x : Nat) (found : Bool) (t : State) : Prop where
  bits : ∀ k < 4096, (t.hart.pget d.toNat).getLsbD k = decide (k < x)
  others : ∀ r, r ≠ d.toNat → t.hart.pget r = s.hart.pget r
  frame : Stepped s { s.hart with
    p := t.hart.p
    bound := some (min (s.hart.bound.getD x) x)
    vexit := if found then
        (s.hart.vexit &&& ~~~0x31FFF) ||| BitVec.ofNat 64 (min (s.hart.vexit.toNat % 8192) x) ||| 0x30000
      else s.hart.vexit ||| 0x10000 } t

/-- t is s after a vector instruction wrote v to scalar register g. -/
structure Counted (s : State) (g : Nat) (v : Word) (t : State) : Prop where
  dest : t.hart.gget g = if g = 0 then 0 else v
  others : ∀ r, r ≠ g → t.hart.gget r = s.hart.gget r
  frame : Stepped s { s.hart with g := t.hart.g } t

/-- As `Computed`, for an instruction that writes the elements below VL for which `on` holds. -/
structure Filled (s : State) (d : BitVec 6) (w : Nat) (on : Nat → Bool) (f : Nat → Nat) (t : State) : Prop where
  written : ∀ k < vlNow s, on k = true → elementAt (t.hart.vget d.toNat) w k = f k
  masked : ∀ k < vlNow s, on k = false →
    elementAt (t.hart.vget d.toNat) w k =
      if s.hart.vcfg.getLsbD 23 then 0 else elementAt (s.hart.vget d.toNat) w k
  tail : ∀ i, vlNow s * w ≤ i → (t.hart.vget d.toNat).getLsbD i = (s.hart.vget d.toNat).getLsbD i
  others : ∀ r, r ≠ d.toNat → t.hart.vget r = s.hart.vget r
  frame : Stepped s { s.hart with v := t.hart.v } t

/-- t is s after one element of register d took a value, with flags; every other bit of every register is as before. -/
structure Placed (s : State) (d : BitVec 6) (w k : Nat) (r : Nat × Nat) (t : State) : Prop where
  written : elementAt (t.hart.vget d.toNat) w k = r.1
  rest : ∀ i, i < w * k ∨ w * k + w ≤ i → (t.hart.vget d.toNat).getLsbD i = (s.hart.vget d.toNat).getLsbD i
  others : ∀ x, x ≠ d.toNat → t.hart.vget x = s.hart.vget x
  frame : Stepped s { s.hart with
    v := t.hart.v, fpflags := s.hart.fpflags ||| BitVec.ofNat 64 (r.2 % 32) } t

/-- The combiner of R136 on codes of a format, with its flags. -/
def join (f : Fmt) (rm : Rm) : Option Nat → Option Nat → Option Nat × Nat
  | none, y => (y, 0)
  | x, none => (x, 0)
  | some a, some b =>
    let r := roundPair f rm (addVal rm (decodeF f a) (decodeF f b))
    (some r.1, r.2)

/-- The fixed tree of R137, as the subtree of 2^n positions from n-level position i on. -/
def treeOf (f : Fmt) (rm : Rm) (term : Nat → Option Nat) : Nat → Nat → Option Nat × Nat
  | 0, i => (term i, 0)
  | n + 1, i =>
    let x := treeOf f rm term n (2 * i)
    let y := treeOf f rm term n (2 * i + 1)
    let z := join f rm x.1 y.1
    (z.1, x.2 ||| y.2 ||| z.2)

/-- The result of a floating reduction: +0 without a term, and every NaN as the canonical one (R119, R136). -/
def settledOf (f : Fmt) (x : Option Nat) : Nat :=
  match x with
  | none => 0
  | some c => if decodeF f c = .nan then nanOf f else c

/-- Planes of a full-width value, leading first (R216): width and contents. -/
def planeWidth (m : Bool) (p : Nat) : Nat := if m then (if p = 2 then 8 else 4) else if p = 0 then 16 else 8

/-- Plane p of a ladder-F or ladder-M value. -/
def planeIn (m : Bool) (p x : Nat) : Nat :=
  if m then
    (if p = 0 then x / 4096 % 16 else if x / 4096 % 16 = 8 then 0 else if p = 1 then x / 256 % 16 else x % 256)
  else
    let b := if decodeF fp32 x = .nan then 0x7FC00000 else x
    if p = 0 then b / 65536 else if p = 1 then b / 256 % 256 else b % 256

/-- Element k of the three planes of register N joined (R216). -/
def joinedOf (s : State) (m : Bool) (n k : Nat) : Nat :=
  let p := fun j => elementAt (s.hart.vget (n + 16 * j)) (planeWidth m j) k
  if m then (if p 0 = 8 then 0x8000 else p 0 * 4096 + p 1 * 256 + p 2) else p 0 * 65536 + p 1 * 256 + p 2

/-- t is s after the three planes of register d were computed from full-width values with flags (R216, R217). -/
structure Split (s : State) (d : BitVec 6) (m : Bool) (f : Nat → Nat × Nat) (t : State) : Prop where
  written : ∀ p < 3, ∀ k < vlNow s, live s k = true →
    elementAt (t.hart.vget (d.toNat + 16 * p)) (planeWidth m p) k = planeIn m p (f k).1
  masked : ∀ p < 3, ∀ k < vlNow s, live s k = false →
    elementAt (t.hart.vget (d.toNat + 16 * p)) (planeWidth m p) k =
      if s.hart.vcfg.getLsbD 23 then 0 else elementAt (s.hart.vget (d.toNat + 16 * p)) (planeWidth m p) k
  tail : ∀ p < 3, ∀ i, vlNow s * planeWidth m p ≤ i →
    (t.hart.vget (d.toNat + 16 * p)).getLsbD i = (s.hart.vget (d.toNat + 16 * p)).getLsbD i
  others : ∀ r, (∀ p < 3, r ≠ d.toNat + 16 * p) → t.hart.vget r = s.hart.vget r
  flags : ∀ i < 64, t.hart.fpflags.getLsbD i =
    (s.hart.fpflags.getLsbD i || decide (i < 5) && (List.range (vlNow s)).any (fun k => live s k && (f k).2.testBit i))
  frame : Stepped s { s.hart with v := t.hart.v, fpflags := t.hart.fpflags } t

end Sys2Proof.Stated

/-- R177, R178, R180, R181: predicate logic acts on every bit below VL and the annulment bound, whatever VMSK says, and
clears the rest; PEXITB and PEXITA partition the strip before or after the first true active element; PFIRST and PCNT
find and count the active true elements.
Where the specification is silent this rests on the model's choices in log entry 31. -/
def Obligations.PredicateLogicBreaksAndCounts : Prop :=
  ∀ (s : State) (d a b g : BitVec 5),
    let A := fun k => (s.hart.pget a.toNat).getLsbD k
    let B := fun k => (s.hart.pget b.toNat).getLsbD k
    let gives := fun (i : Instr) (f : Nat → Bool) =>
      Alone s i [] → Completes i s (Predicated s d (fun k => decide (k < boundNow s) && f k) false)
    gives (.pand d a b) (fun k => A k && B k)
    ∧ gives (.por d a b) (fun k => A k || B k)
    ∧ gives (.pxor d a b) (fun k => A k ^^ B k)
    ∧ gives (.pandn d a b) (fun k => A k && !B k)
    ∧ gives (.pset d) (fun _ => true)
    ∧ gives (.pclr d) (fun _ => false)
    ∧ gives (.pmov d a) (fun k => A k)
    ∧ gives (.pidx d g) (fun k => decide (k < (s.hart.gget g.toNat).toNat))
    ∧ (∀ n, chosen s a.toNat n = true → (∀ k < n, chosen s a.toNat k = false) →
        (Alone s (.pexitb d a) [] → Completes (.pexitb d a) s (Broke s d n true))
        ∧ (Alone s (.pexita d a) [] → Completes (.pexita d a) s (Broke s d (n + 1) true))
        ∧ (Alone s (.pfirst g a) [] → Completes (.pfirst g a) s (Counted s g.toNat (BitVec.ofNat 64 n))))
    ∧ ((∀ k, chosen s a.toNat k = false) →
        (Alone s (.pexitb d a) [] → Completes (.pexitb d a) s (Broke s d (limitNow s) false))
        ∧ (Alone s (.pexita d a) [] → Completes (.pexita d a) s (Broke s d (limitNow s) false))
        ∧ (Alone s (.pfirst g a) [] → Completes (.pfirst g a) s (Counted s g.toNat (BitVec.ofNat 64 (limitNow s)))))
    ∧ (Alone s (.pcnt g a) [] → Completes (.pcnt g a) s
        (Counted s g.toNat (BitVec.ofNat 64 ((List.range (vlNow s)).countP (chosen s a.toNat)))))
    ∧ decode 0xA1040007#32 = some (.pexitb 2 1)
    ∧ decode 0xA1040008#32 = some (.pexita 2 1)

/-- R179, R177: the compares set bit k of pd where element k is acted on and the condition holds; of the floating ones,
only lt and le raise NV, for a NaN operand of an element acted on. -/
def Obligations.VectorComparesSetTheirPredicates : Prop :=
  ∀ (s : State) (d : BitVec 5) (a b : BitVec 6) (x y : BitVec 1) (r : BitVec 3), r = 0 ∨ 4 ≤ r.toNat →
    let w := bitsNow s
    let A := fun k => BitVec.ofNat w (el s w a k)
    let B := fun k => BitVec.ofNat w (el s w b (paired r k))
    let u := fun k => decodeF (formatNow s) (el s w a k)
    let v := fun k => decodeF (formatNow s) (el s w b (paired r k))
    let nan := fun k => decide (u k = .nan ∨ v k = .nan)
    let anyNan := (List.range (vlNow s)).any (fun k => live s k && nan k)
    let gives := fun (i : Instr) (f : Nat → Bool) (invalid : Bool) =>
      Alone s i [a, b] → Completes i s (Predicated s d (fun k => live s k && f k) invalid)
    (1 ≤ ewNow s → ewNow s ≤ 4 →
      gives (.vcmpEq d a b x y r) (fun k => decide (A k = B k)) false
      ∧ gives (.vcmpNe d a b x y r) (fun k => decide (A k ≠ B k)) false
      ∧ gives (.vcmpLt d a b x y r) (fun k => (A k).slt (B k)) false
      ∧ gives (.vcmpLe d a b x y r) (fun k => (A k).sle (B k)) false
      ∧ gives (.vcmpLtz d a b x y r) (fun k => (A k).ult (B k)) false
      ∧ gives (.vcmpLez d a b x y r) (fun k => (A k).ule (B k)) false)
    ∧ (takesFloats s →
      gives (.vfcmpEq d a b x y r) (fun k => !nan k && eqVal (u k) (v k)) false
      ∧ gives (.vfcmpNe d a b x y r) (fun k => nan k || !eqVal (u k) (v k)) false
      ∧ gives (.vfcmpLt d a b x y r) (fun k => !nan k && ltVal (u k) (v k)) anyNan
      ∧ gives (.vfcmpLe d a b x y r) (fun k => !nan k && (ltVal (u k) (v k) || eqVal (u k) (v k))) anyNan
      ∧ gives (.vfcmpUn d a b x y r) nan false)

/-- R209 to R212, R181: the permutes. The governing predicate and the annulment bound choose what is written; a source
element at or above the bound is not read. -/
def Obligations.PermutesMoveTheirElements : Prop :=
  ∀ (s : State) (d a b p : BitVec 6) (g k : BitVec 5) (x y : BitVec 1) (r : BitVec 3),
    let w := bitsNow s
    let A := el s w a
    let U := limitNow s
    let G := (s.hart.gget g.toNat).toNat
    let fill := (s.hart.gget k.toNat).toNat % 2 ^ w
    let sel := chosen s p.toNat
    let order := (List.range (vlNow s)).filter sel
    let gives := fun (i : Instr) (named : List (BitVec 6)) (on : Nat → Bool) (f : Nat → Nat) =>
      Alone s i named → Completes i s (Filled s d w on f)
    (d ≠ a →
      gives (.vslup d a g k) [d, a] (live s) (fun i => if G ≤ i then A (i - G) else fill)
      ∧ gives (.vsldn d a g k) [d, a] (live s) (fun i => if i + G < U then A (i + G) else fill)
      ∧ gives (.vcompress d a p) [d, a] (fun i => decide (i < order.length)) (fun i => A (order.getD i 0))
      ∧ gives (.vexpand d a p) [d, a] sel (fun i => A ((List.range i).countP sel)))
    ∧ (d ≠ a → d ≠ b → gives (.vperm d a b) [d, a, b] (live s) (fun i =>
        if el s w b i < U then A (el s w b i) else 0))
    ∧ gives (.vid d) [d] (live s) (fun i => i % 2 ^ w)
    ∧ gives (.viota d p) [d] (live s) (fun i => (List.range i).countP sel % 2 ^ w)
    ∧ (replicates d b r → gives (.vmerge d a b x y r) [d, a, b] (fun i => decide (i < boundNow s))
        (fun i => if activeAt s i then A i else el s w b (paired r i)))
    ∧ gives (.vbcast d (g.setWidth 6)) [d] (live s) (fun _ => G % 2 ^ w)
    ∧ (Alone s (.vextr (k.setWidth 6) a (g.setWidth 6)) [a] → Completes (.vextr (k.setWidth 6) a (g.setWidth 6)) s
        (Counted s k.toNat (if G < U then BitVec.ofNat 64 (A G) else 0)))
    ∧ (Alone s (.vins d (k.setWidth 6) (g.setWidth 6)) [d] → Completes (.vins d (k.setWidth 6) (g.setWidth 6)) s
        (if G < U then Placed s d w G (fill, 0) else fun t => Stepped s s.hart t))

/-- R213 to R215, R136 to R139: the reductions, over the active elements below the annulment bound, write element 0 (for
VRSCL and VARGMAX the first 32 bits) and nothing else; with VL = 0 they write nothing. A floating sum of one NaN is
written canonical (the model's choice under R119).
Where the specification is silent this rests on the model's choices in log entries 23 and 24. -/
def Obligations.ReductionsCombineInTheirFixedOrders : Prop :=
  ∀ (s : State) (d a b : BitVec 6), d ≠ a → d ≠ b →
    let w := bitsNow s
    let f := formatNow s
    let rm := mode s
    let A := el s w a
    let terms := (List.range (vlNow s)).filter (live s)
    let ints := terms.map (fun k => (BitVec.ofNat w (A k)).toInt)
    let term := fun k => if live s k then some (A k) else none
    let gives := fun (i : Instr) (width : Nat) (r : Nat × Nat) =>
      Alone s i [d, a, b] → Completes i s (if vlNow s = 0 then fun t => Stepped s s.hart t else Placed s d width 0 r)
    let seq := terms.foldl (fun acc k =>
      let z := join f rm acc.1 (some (A k))
      (z.1, acc.2 ||| z.2)) (none, 0)
    let v := fun k => decodeF f (A k)
    (1 ≤ ewNow s → ewNow s ≤ 4 →
      gives (.vrsum d a) w ((terms.map A).sum % 2 ^ w, 0)
      ∧ gives (.vrmax d a) w ((BitVec.ofInt w (ints.foldl max (-2 ^ (w - 1)))).toNat, 0)
      ∧ gives (.vrmin d a) w ((BitVec.ofInt w (ints.foldl min (2 ^ (w - 1) - 1))).toNat, 0))
    ∧ (takesFloats s →
      gives (.vfrsum d a) w (settledOf f (treeOf f rm term 12 0).1, (treeOf f rm term 12 0).2)
      ∧ gives (.vfrsumo d a) w (settledOf f seq.1, seq.2)
      ∧ (∀ k < vlNow s, live s k = true → v k ≠ .nan → (∀ j, live s j = true → before (v k) (v j) = false) →
          (∀ j < k, live s j = true → v j ≠ .nan → before (v j) (v k) = true) →
          gives (.vfrmax d a) w (A k, 0) ∧ gives (.vargmax d a) 32 (k, 0))
      ∧ (∀ k < vlNow s, live s k = true → v k ≠ .nan → (∀ j, live s j = true → before (v j) (v k) = false) →
          (∀ j < k, live s j = true → v j ≠ .nan → before (v k) (v j) = true) →
          gives (.vfrmin d a) w (A k, 0))
      ∧ ((∀ k, live s k = true → v k = .nan) →
          gives (.vfrmax d a) w (nanOf f, 0) ∧ gives (.vfrmin d a) w (nanOf f, 0)
          ∧ gives (.vargmax d a) 32 (0xFFFFFFFF, 0)))
    ∧ (takesFloats s → ewNow s < 4 → s.hart.vcfg.toNat / 2 ^ 21 % 4 < 3 →
      let n := 4 + s.hart.vcfg.toNat / 2 ^ 21 % 4
      let wide := fun k => if live s k then some (roundVal fp32 .rne (v k)).1 else none
      let sum := fun j => treeOf fp32 rm wide n j
      let scaled := fun (j : Nat) => -- the value of block j, with its flags
        let e := el s 8 b j
        if vlNow s ≤ j * 2 ^ n then ((none : Option Nat), 0)
        else if e = 255 then (some (nanOf fp32), (sum j).2)
        else match (sum j).1 with
          | none => (none, (sum j).2)
          | some x =>
            let r := roundVal fp32 rm (scaleVal ((e : Int) - 127) (decodeF fp32 x))
            (some r.1, (sum j).2 ||| r.2)
      let all := treeOf fp32 rm (fun j => (scaled j).1) (12 - n) 0
      gives (.vrscl d a b) 32 (settledOf fp32 all.1,
        (List.range (2 ^ (12 - n))).foldl (fun acc j => acc ||| (scaled j).2) all.2))

/-- R216, R217, R131: VPSPLIT gives the planes of a full-width value, VPJOIN the value of three planes, and VPADD adds
an FP32 delta to a planed value with one rounding to nearest and splits the sum again. -/
def Obligations.PlaneArithmeticSplitsJoinsAndAdds : Prop :=
  ∀ (s : State) (d a : BitVec 6) (x : BitVec 1),
    let planesOf := fun (r : BitVec 6) => [r, r + 16, r + 32]
    ∀ m : Bool, let l : BitVec 3 := if m then 1 else 0
    let w := if m then 16 else 32
    vlNow s * w ≤ roomNow s →
    (d.toNat < 16 → a ∉ planesOf d → Alone s (.vpsplit d a l) (a :: planesOf d) →
      Completes (.vpsplit d a l) s (Split s d m (fun k => (el s w a k, 0))))
    ∧ (a.toNat < 16 → d ∉ planesOf a → Alone s (.vpjoin d a l) (d :: planesOf a) →
      Completes (.vpjoin d a l) s (Computed s d w (joinedOf s m a.toNat) (fun _ => 0)))
    ∧ (m = false → d.toNat < 16 → Alone s (.vpadd d a x) (a :: planesOf d) →
      Completes (.vpadd d a x) s (Split s d false (fun k =>
        roundPair fp32 .rne (addVal .rne (decodeF fp32 (joinedOf s false d.toNat k)) (decodeF fp32 (el s 32 a k))))))

/-! ### Class 12: vector memory, plane accesses, streams -/

namespace Sys2Proof.Stated

/-- A vector access of n bytes at an address passes the checks of R219 and leads to a location. -/
structure Finds (s : State) (acc : Acc) (va : Word) (n loc : Nat) : Prop where
  aligned : va.toNat % n = 0
  found : ∃ dev, s.xlate .vector acc va = .at loc dev

/-- The hart with the held entries that loads of its next vector instruction see: those of older ones (R153). -/
def older (s : State) : Hart := s.hart.upTo s.hart.nextSeq

/-- n bytes at a location that a load of the hart finds undamaged (R427). -/
def intact (s : State) (loc n : Nat) : Prop := ∀ k < n, s.readsDamaged (older s) none (loc + k) = false

/-- A vector load of n bytes at an address finds a value, with the hart's own held entries over memory (R221, R153). -/
def Fetches (s : State) (va : Word) (n : Nat) (x : Nat) : Prop :=
  ∃ loc, Finds s .load va n loc ∧ intact s loc n ∧ x = leNat (Memory.reads (s.view (older s)) loc n)

/-- t but for the count of bytes that the hart has moved (R458). -/
def unmoved (s t : State) : State := t.setHart { t.hart with moved := s.hart.moved }

/-- Bytes of an element of w bits, and the byte at which element k of an array at a base begins (R13, R224). -/
def sizeOf' (w : Nat) : Nat := max 1 (w / 8)
/-- Element k of an array. -/
def slotAt (base : Word) (w k : Nat) : Word := base + BitVec.ofNat 64 (k * w / 8)
/-- The part of its bytes that element k is: all of them, or a nibble (R13). -/
def partOf (w k x : Nat) : Nat := if w = 4 then x / 16 ^ (k % 2) % 16 else x

/-- The address of an indexed element (R104). -/
def indexed (s : State) (base : Word) (vi : BitVec 6) (kind : BitVec 2) (k : Nat) : Word :=
  let w := bitsNow s
  if kind = 0 then base + BitVec.ofNat 64 (w / 8 * el s w vi k)
  else if kind = 1 then base + BitVec.ofNat 64 (el s w vi k)
  else if kind = 2 then base + BitVec.ofNat 64 (w / 8 * el s 32 vi k)
  else base + BitVec.ofNat 64 (el s 64 vi k)

/-- The index elements that VL names fit the lanes (R105). -/
def indexFits (s : State) (kind : BitVec 2) : Prop :=
  (kind = 2 → vlNow s * 32 ≤ roomNow s) ∧ (kind = 3 → vlNow s * 64 ≤ roomNow s)

/-- The address that a held entry records: that of the local window by its global name (R341). -/
def recorded (s : State) (va : Word) : Nat :=
  if 0xC00000000000 ≤ va.toNat ∧ va.toNat < 0xC00000200000
  then va.toNat - 0xC00000000000 + 0xC10000000000 + s.cur / 4 * 0x200000 else va.toNat

/-- A held entry of element k of the next vector instruction. -/
def entryFor (s : State) (kind : HeldKind) (k size : Nat) (high : Bool) (va : Word) (n loc : Nat) (bytes : List Byte)
    (addends : List Word) : Held :=
  { seq := s.hart.nextSeq, elem := k, vector := true, kind := kind, size := size, high := high
    scope := BitVec.ofNat 2 (s.hart.vcfg.toNat / 2 ^ 19), ew := BitVec.ofNat 3 (ewNow s), fmt := BitVec.ofNat 3 (fmtNow s)
    va := recorded s va, locs := [(loc, n)], bytes := bytes, addends := addends }

/-- The entries of a hart are older than its next instruction, none waits, and n more fit the buffer (R35). -/
structure Room (s : State) (n : Nat) : Prop where
  waiting : s.hart.waiting = []
  fits : s.hart.held.length + n ≤ capacity s
  older : ∀ e ∈ s.hart.held, e.seq < s.hart.nextSeq

/-- t is s after a vector instruction entered these entries behind the others; memory keeps every byte (R222). -/
structure Entering (s : State) (es : List Held) (t : State) : Prop where
  held : t.hart.held = s.hart.held ++ es
  memory : ∀ a, Memory.read t.mem a = Memory.read s.mem a
  frame : Stepped s { s.hart with held := t.hart.held } t

/-- The elements below VL that the instruction acts on, rising. -/
def liveList (s : State) : List Nat := (List.range (vlNow s)).filter (live s)

/-- Elements of a block of scale pairs (R122). -/
def blockNow (s : State) : Nat := 16 * 2 ^ (s.hart.vcfg.toNat / 2 ^ 21 % 4)

/-- Has block b an element that the instruction acts on? -/
def blockLives (s : State) (b : Nat) : Prop := ∃ k, live s k = true ∧ k / blockNow s = b

/-- Element k is the lowest of its block that the instruction acts on. -/
def leadsBlock (s : State) (k : Nat) : Bool :=
  live s k && (List.range k).all (fun j => !(live s j && decide (j / blockNow s = k / blockNow s)))

/-- Address of plane p of element k of a planed tensor (R133). -/
def planeSlot (s : State) (m : Bool) (base : Word) (p k : Nat) : Word :=
  slotAt (base + BitVec.ofNat 64 p * s.hart.vpstr) (planeWidth m p) k

/-- Address of scale pair b (R229). -/
def pairSlot (s : State) (base : Word) (b : Nat) : Word := base + 3 * s.hart.vpstr + BitVec.ofNat 64 (2 * b)

/-- n planes of widths `planeWidth` as one number, the leading plane first. -/
def prefixOf (m : Bool) (n : Nat) (x : Nat → Nat) : Nat :=
  if n = 1 then x 0 else if n = 2 then x 0 * 2 ^ planeWidth m 1 + x 1
  else (x 0 * 2 ^ planeWidth m 1 + x 1) * 2 ^ planeWidth m 2 + x 2

/-- Bits of a prefix of n planes. -/
def prefixBits (m : Bool) (n : Nat) : Nat :=
  if n = 1 then planeWidth m 0 else if n = 2 then planeWidth m 0 + planeWidth m 1 else planeWidth m 0 + planeWidth m 1 + planeWidth m 2

/-- Plane p of n planes held as one number. -/
def prefixPlane (m : Bool) (n x p : Nat) : Nat := x / 2 ^ (prefixBits m n - prefixBits m (p + 1)) % 2 ^ planeWidth m p

/-- The prefix that a NEXT read of n planes returns, q being the plane below it (R134). -/
def roundedPrefix (m sat : Bool) (n x q : Nat) : Nat :=
  let w := prefixBits m n
  let mag := x % 2 ^ (w - 1)
  let top := x / 2 ^ (w - 1) * 2 ^ (w - 1)
  let half := 2 ^ (planeWidth m n - 1)
  if m = false ∧ mag / 2 ^ (w - 9) = 255 then
    (if mag % 2 ^ (w - 9) = 0 then x else 255 * 2 ^ (w - 9) + 2 ^ (w - 10))
  else if half < q ∨ (q = half ∧ mag % 2 = 1) then
    if m = false ∧ (mag + 1) / 2 ^ (w - 9) = 255 then top + (if sat then mag else mag + 1)
    else if m = true ∧ mag + 1 = 2 ^ (w - 1) then top + mag
    else top + mag + 1
  else x

/-- Plane p that VPLD returns for an element whose planes in memory are x 0, x 1, x 2. -/
def planeRead (s : State) (m next : Bool) (n : Nat) (x : Nat → Nat) (p : Nat) : Nat :=
  if m = true ∧ x 0 = 8 then (if p = 0 then 8 else 0)
  else if next = true ∧ n < 3 then prefixPlane m n (roundedPrefix m (s.hart.vcfg.getLsbD 24) n (prefixOf m n x) (x n)) p
  else x p

/-- t is s after element k of register d + 16p, of `width p` bits, became `f k p` for the n planes p where the
instruction acts; registers outside these and `also` are as before. -/
structure Planed (s : State) (d n : Nat) (width : Nat → Nat) (f : Nat → Nat → Nat) (also : List Nat) (t : State) :
    Prop where
  written : ∀ p < n, ∀ k < vlNow s, live s k = true →
    elementAt (t.hart.vget (d + 16 * p)) (width p) k = f k p
  masked : ∀ p < n, ∀ k < vlNow s, live s k = false →
    elementAt (t.hart.vget (d + 16 * p)) (width p) k =
      if s.hart.vcfg.getLsbD 23 then 0 else elementAt (s.hart.vget (d + 16 * p)) (width p) k
  tail : ∀ p < n, ∀ i, vlNow s * width p ≤ i →
    (t.hart.vget (d + 16 * p)).getLsbD i = (s.hart.vget (d + 16 * p)).getLsbD i
  others : ∀ r, r ∉ also → (∀ p < n, r ≠ d + 16 * p) → t.hart.vget r = s.hart.vget r
  frame : Stepped s { s.hart with v := t.hart.v } t

/-- The bytes that vector loads of the hart find at an address on. -/
def FindsBytes (s : State) (va : Word) (bs : List Byte) : Prop :=
  ∀ k x, bs[k]? = some x → ∃ loc dev, s.xlate .vector .load (va + BitVec.ofNat 64 k) = .at loc dev
    ∧ Memory.read (s.view (older s)) loc = x ∧ s.readsDamaged (older s) none loc = false

/-- t is s after vector instruction i, issued alone, stopped at element k before it or anything behind it went
further: the handler is entered, and the instruction stays queued with VRESUME at k (R192, R312). -/
structure Stopped (s : State) (i : Instr) (cause k : Nat) (val : Word) (t : State) : Prop where
  supervisor : t.hart.sup = true
  handler : t.hart.pc = s.hart.trapvec + BitVec.ofNat 64 (64 * cause)
  cause : t.hart.trapcause = BitVec.ofNat 64 (256 + cause)
  word : t.hart.trappc = s.hart.pc &&& 0xFFFFFFFFFFFF
  member : t.hart.trapmem = 0
  element : t.hart.trapelem = BitVec.ofNat 64 k
  value : t.hart.trapval = val
  next : t.hart.trapspc = (s.hart.pc + 4) &&& 0xFFFFFFFFFFFF
  front : t.hart.vresume = BitVec.ofNat 64 k
  queued : t.hart.queue.map (·.instr) = [i]

/-- Zero-run tokens and the bytes they stand for (R346). -/
inductive Runs : List Byte → List Byte → Prop where
  | done : Runs [] []
  | zeros (t : Byte) (ts out : List Byte) : t.toNat < 64 → Runs ts out →
      Runs (t :: ts) (List.replicate (t.toNat + 1) 0 ++ out)
  | literals (t : Byte) (xs ts out : List Byte) : 64 ≤ t.toNat → t.toNat < 128 → xs.length = t.toNat - 63 → Runs ts out →
      Runs (t :: xs ++ ts) (xs ++ out)

/-- The check word of decoded bytes (R346). -/
def checkOf (out : List Byte) : Nat :=
  let r := out.foldl (fun (a : Nat × Nat) b => ((a.1 + b.toNat) % 255, (a.2 + (a.1 + b.toNat) % 255) % 255)) (0, 0)
  r.2 * 256 + r.1

/-- A block stands for 64 decoded bytes, in one of the three modes of R346. -/
def Decodes (block out : List Byte) : Prop :=
  out.length = 64 ∧
  (block = [0, 0] ++ leBytes 2 (checkOf out) ++ out
  ∨ (∃ (n : Nat) (dict idx : List Byte), n < 16 ∧ dict.length = n + 1 ∧ idx.length = 32 ∧
      block = [1, BitVec.ofNat 8 n] ++ leBytes 2 (checkOf out) ++ dict ++ idx ∧
      ∀ b < 64, ∃ i, idx[b / 2]? = some i ∧ out[b]? = dict[i.toNat / 16 ^ (b % 2) % 16]? ∧ i.toNat / 16 ^ (b % 2) % 16 ≤ n)
  ∨ (∃ ts, block = [2, 0] ++ leBytes 2 (checkOf out) ++ ts ∧ Runs ts out))

/-- Through an offset table whose bytes are found, block x of plane p stands for these bytes (R345, R346). The reserved
bytes of the table's header may hold anything (R6). -/
def BlockBy (finds : Word → List Byte → Prop) (table : Word) (p x : Nat) (out : List Byte) : Prop :=
  ∃ (n : Nat → Nat) (off : Nat) (block : List Byte), (∀ i, n i < 2 ^ 32) ∧ x < n p ∧ p < 3 ∧ off < 2 ^ 40
    ∧ 4 ≤ block.length ∧ block.length ≤ 68
    ∧ (∃ reserved, reserved.length = 4
      ∧ finds table (leBytes 4 (n 0) ++ leBytes 4 (n 1) ++ leBytes 4 (n 2) ++ reserved))
    ∧ finds (table + BitVec.ofNat 64 (16 + 8 * ((if p = 0 then 0 else if p = 1 then n 0 else n 0 + n 1) + x)))
        (leBytes 5 off ++ [0, BitVec.ofNat 8 block.length, 0])
    ∧ finds (table + BitVec.ofNat 64 off) block ∧ Decodes block out

/-- As `BlockBy`, for the loads of the hart. -/
def BlockThrough (s : State) (table : Word) (p x : Nat) (out : List Byte) : Prop :=
  BlockBy (FindsBytes s) table p x out

end Sys2Proof.Stated

/-- R219, R221, R224, R104: vector loads at unit stride, at a stride and through an index register place the bytes or
the nibble of each element unchanged; VLDF does the same where no element faults. Every active element is assumed to
pass the checks, and no byte to be damaged. That VLDX with vi = vd and elements narrower or wider than its index reads
the index as it stood before any write is DEDUCED (log 76). -/
def Obligations.VectorLoadsFillTheirElements : Prop :=
  ∀ (s : State) (d v : BitVec 6) (a : BitVec 5) (c : BitVec 1) (kind : BitVec 2) (x : Nat → Nat), ewNow s ≤ 4 →
    let w := bitsNow s
    let base := s.hart.gget a.toNat
    let gives := fun (i : Instr) (named : List (BitVec 6)) (place : Nat → Word) =>
      (∀ k, activeAt s k = true → Fetches s (place k) (sizeOf' w) (x k)) → Alone s i named →
      Completes i s (fun t => Computed s d w (fun k => partOf w k (x k)) (fun _ => 0) (unmoved s t))
    gives (.vld d a) [d] (slotAt base w)
    ∧ gives (.vldf d a) [d] (slotAt base w)
    ∧ (1 ≤ ewNow s → gives (.vlds d a) [d] (fun k => base + BitVec.ofNat 64 k * s.hart.vstr))
    ∧ (1 ≤ ewNow s → indexFits s kind → gives (.vldx d a v c kind) [d, v] (indexed s base v kind))

/-- R189, R225, R219, R187: where active element m has the lowest access that fails, below the annulment bound, a VLD
stops there, with the cause of the first check it fails and its address in TRAPVAL; VRESUME keeps m and the instruction
stays queued. A VLDF with a lower active element trims the strip instead: VL becomes m for what follows, VEXIT.EXIT
follows it, VFTRIM keeps the cause and m, and no trap is taken. Both have loaded the elements below m.
Where the specification is silent this rests on the model's choices in log entry 44. -/
def Obligations.VectorLoadFaultsStopOrTrim : Prop :=
  ∀ (s : State) (d : BitVec 6) (a : BitVec 5) (x : Nat → Nat) (m cause : Nat), ewNow s ≤ 4 → live s m = true →
    let w := bitsNow s
    let n := sizeOf' w
    let place := slotAt (s.hart.gget a.toNat) w
    let below := fun (t : State) =>
      (∀ k < m, live s k = true → elementAt (t.hart.vget d.toNat) w k = partOf w k (x k))
      ∧ (∀ i, m * w ≤ i → (t.hart.vget d.toNat).getLsbD i = (s.hart.vget d.toNat).getLsbD i)
      ∧ (∀ r, r ≠ d.toNat → t.hart.vget r = s.hart.vget r)
    (∀ k < m, activeAt s k = true → Fetches s (place k) n (x k)) →
    ((place m).toNat % n ≠ 0 ∧ cause = 4 ∨ (place m).toNat % n = 0 ∧ s.xlate .vector .load (place m) = .fault cause) →
    (s.hart.trapvec ≠ 0 → Alone s (.vld d a) [d] → Completes (.vld d a) s (fun t =>
      below t ∧ Stopped s (.vld d a) cause m (place m) t))
    ∧ ((∃ k < m, live s k = true) → s.hart.vftrim = 0 → Alone s (.vldf d a) [d] → Completes (.vldf d a) s (fun t =>
      below t ∧ t.hart.lastVl = m
      ∧ Stepped s { s.hart with
          v := t.hart.v, ftrimPlace := t.hart.ftrimPlace
          vcfg := (s.hart.vcfg &&& ~~~0x1FFF) ||| BitVec.ofNat 64 m
          vexit := (s.hart.vexit &&& ~~~0x1FFF) ||| BitVec.ofNat 64 (min (s.hart.vexit.toNat % 8192) m)
          vftrim := BitVec.ofNat 64 (2 ^ 24 + cause * 2 ^ 16 + m) }
        (unmoved s (t.setHart { t.hart with lastVl := vlNow s }))))

/-- R222, R224, R226, R227: vector stores, VSCADD and VMERGET write no memory when they execute. Each element acted on
enters one held entry, in element order, with its address and data; VMERGET enters one entry for each table entry that
an element acted on belongs to, with the addends of the rising segments. VSCADD and VMERGET need a location that is not
in host memory (R220). -/
def Obligations.VectorStoresAreHeld : Prop :=
  ∀ (s : State) (v i : BitVec 6) (a : BitVec 5) (c f : BitVec 1) (kind : BitVec 2) (loc : Nat → Nat), ewNow s ≤ 4 →
    let w := bitsNow s
    let n := sizeOf' w
    let base := s.hart.gget a.toNat
    let finds := fun (place : Nat → Word) => ∀ k, live s k = true → Finds s .store (place k) n (loc k)
    let local' := ∀ k, live s k = true → ¬inHost (loc k)
    let entries := fun (kd : HeldKind) (place : Nat → Word) => (liveList s).map (fun k =>
      entryFor s kd k (ewNow s) (decide (w = 4 ∧ k % 2 = 1)) (place k) n (loc k) (leBytes n (el s w v k)) [])
    let gives := fun (ins : Instr) (named : List (BitVec 6)) (kd : HeldKind) (place : Nat → Word) =>
      finds place → Room s (liveList s).length → Alone s ins named → Completes ins s (Entering s (entries kd place))
    let floats := f = 1 → takesFloats s
    let segs := fun (j : Nat) => (List.range (vlNow s)).filter (fun k => live s k && decide (k % (512 / w) = j))
    let rows := (List.range (512 / w)).filter (fun j => !(segs j).isEmpty)
    gives (.vst v a c) [v] .store (slotAt base w)
    ∧ (1 ≤ ewNow s → gives (.vsts v a c) [v] .store (fun k => base + BitVec.ofNat 64 k * s.hart.vstr))
    ∧ (1 ≤ ewNow s → indexFits s kind → gives (.vstx v a i c kind) [v, i] .store (indexed s base i kind))
    ∧ (1 ≤ ewNow s → indexFits s kind → floats → local' →
        gives (.vscadd v a i c f kind) [v, i] (if f = 1 then .addFlt else .addInt) (indexed s base i kind))
    ∧ (1 ≤ ewNow s → floats → base.toNat % 64 = 0 → (∀ j ∈ rows, Finds s .store (slotAt base w j) n (loc j) ∧ ¬inHost (loc j)) →
        Room s rows.length → Alone s (.vmerget v a f) [v] →
        Completes (.vmerget v a f) s (Entering s (rows.map (fun j =>
          entryFor s (if f = 1 then .mergeFlt else .mergeInt) j (ewNow s) false (slotAt base w j) n (loc j) []
            ((segs j).map (fun k => BitVec.ofNat 64 (el s w v k)))))))

/-- R228 to R232, R131, R133, R134, R345, R346. VPLD reads the planes of each element from their arrays, rounds the
prefix under NEXT with the plane below it, and writes one register for each plane; the scale pair of a block goes to the
named register. VPST enters, for each element acted on, one held entry for each plane from the least significant one
written up to plane 0, and before them the scale pair of the element's block where the element is the block's first; the
lower planes of a special ladder-M element are held as zero. VXPAND finds the blocks of each plane through the offset
table of its descriptor and writes the elements of the decoded planes, the lower planes of a special ladder-M element as
zero; each block is assumed good at its first fetch.
Where the specification is silent this rests on the model's choices in log entries 32 to 34, 45 and 93. -/
def Obligations.PlaneLoadsStoresAndExpansions : Prop :=
  (∀ (s : State) (d i : BitVec 6) (a : BitVec 5) (p m : BitVec 2) (x : Nat → Nat → Nat) (y : Nat → Nat),
      let n := p.toNat + 1
      let lm : Bool := decide (2 ≤ m.toNat)
      let next : Bool := decide (m.toNat % 2 = 1)
      let base := s.hart.gget a.toNat
      let deep := if next ∧ n < 3 then n + 1 else n
      let widest := if lm then (if n = 3 ∨ (next ∧ n = 2) then 8 else 4) else 16
      let regs := (List.range n).map (fun q => d + BitVec.ofNat 6 (16 * q))
      p.toNat < 3 → d.toNat < 16 → ewNow s ≤ 4 → vlNow s * widest ≤ roomNow s → (lm = true → i ∉ regs) → (lm = false → i = 0) →
      (∀ k, activeAt s k = true → ∀ q < deep, ∃ z, Fetches s (planeSlot s lm base q k) (sizeOf' (planeWidth lm q)) z
        ∧ x k q = partOf (planeWidth lm q) k z) →
      (lm = true → ∀ b, blockLives s b → Fetches s (pairSlot s base b) 2 (y b)) →
      Alone s (.vpld d a i p m) (if lm then i :: regs else regs) →
      Completes (.vpld d a i p m) s (fun t =>
        Planed s d.toNat n (planeWidth lm) (fun k q => planeRead s lm next n (x k) q) (if lm then [i.toNat] else [])
          (unmoved s t)
        ∧ (lm = true → ∀ b < 256, (blockLives s b → elementAt (t.hart.vget i.toNat) 16 b = y b)
            ∧ (¬blockLives s b → elementAt (t.hart.vget i.toNat) 16 b = elementAt (s.hart.vget i.toNat) 16 b))))
  ∧ (∀ (s : State) (v i : BitVec 6) (a : BitVec 5) (p : BitVec 2) (m : BitVec 1) (loc : Nat → Nat → Nat) (ploc : Nat → Nat),
      let n := p.toNat + 1
      let lm : Bool := decide (m = 1)
      let base := s.hart.gget a.toNat
      let widest := if lm then (if n = 3 then 8 else 4) else 16
      let regs := (List.range n).map (fun q => v + BitVec.ofNat 6 (16 * q))
      let data := fun (k q : Nat) => elementAt (s.hart.vget (v.toNat + 16 * q)) (planeWidth lm q) k
      let plane := fun (k q : Nat) =>
        let w := planeWidth lm q
        entryFor s .store k (if w = 4 then 0 else w / 8) (decide (w = 4 ∧ k % 2 = 1)) (planeSlot s lm base q k) (sizeOf' w)
          (loc k q) (leBytes (sizeOf' w) (if lm ∧ data k 0 = 8 ∧ q ≠ 0 then 0 else data k q)) []
      let pair := fun (k : Nat) =>
        let b := k / blockNow s
        if lm ∧ leadsBlock s k then
          [{ entryFor s .store k 2 false (pairSlot s base b) 2 (ploc b) (leBytes 2 (el s 16 i b)) [] with
              block := blockNow s }]
        else []
      let es := (liveList s).flatMap (fun k => pair k ++ ((List.range n).map (plane k)).reverse)
      p.toNat < 3 → v.toNat < 16 → ewNow s ≤ 4 → vlNow s * widest ≤ roomNow s → (lm = true → i ∉ regs) → (lm = false → i = 0) →
      (∀ k, live s k = true → ∀ q < n, Finds s .store (planeSlot s lm base q k) (sizeOf' (planeWidth lm q)) (loc k q)) →
      (lm = true → ∀ b, blockLives s b → Finds s .store (pairSlot s base b) 2 (ploc b)) →
      Room s es.length → Alone s (.vpst v a i p m) (if lm then i :: regs else regs) →
      Completes (.vpst v a i p m) s (Entering s es))
  ∧ (∀ (s : State) (d : BitVec 6) (a : BitVec 5) (p : BitVec 2) (table replica : Word) (elems ladder planes : Nat)
      (out : Nat → Nat → List Byte),
      let n := p.toNat + 1
      let width := fun (q : Nat) => if ladder = 0 then bitsNow s else planeWidth (decide (ladder = 2)) q
      let widest := if ladder = 0 then 0 else if ladder = 1 then 16 else if n = 3 then 8 else 4
      let regs := (List.range n).map (fun q => d + BitVec.ofNat 6 (16 * q))
      let ga := s.hart.gget a.toNat
      p.toNat < 3 → (1 < n → d.toNat < 16) → ewNow s ≤ 4 → vlNow s * widest ≤ roomNow s → ga.toNat % 32 = 0 →
      n ≤ planes → planes ≤ 3 → ladder ≤ 2 → (ladder = 0 → n = 1) → vlNow s ≤ elems → elems < 2 ^ 32 →
      FindsBytes s ga (leBytes 8 table.toNat ++ leBytes 8 replica.toNat ++ leBytes 4 elems
        ++ [BitVec.ofNat 8 ladder, BitVec.ofNat 8 planes] ++ List.replicate 10 0) →
      (∀ q < n, ∀ x, 512 * x < vlNow s * width q → BlockThrough s table q x (out q x)) →
      (∀ e ∈ s.hart.held ++ s.hart.waiting, e.seq < s.hart.nextSeq) → Alone s (.vxpand d a p) regs →
      let part := fun (k q : Nat) => leNat (out q (k * width q / 512)) / 2 ^ (k * width q % 512) % 2 ^ width q
      Completes (.vxpand d a p) s (fun t => Planed s d.toNat n width (fun k q =>
        if ladder = 2 ∧ q ≠ 0 ∧ part k 0 = 8 then 0 else part k q) [] (unmoved s t)))

namespace Sys2Proof.Stated

/-- The 64 bytes of a stream record with the fields of a binding (R233); `tail` holds AVAIL, USED, STATUS and CAUSE. -/
def recordBytes (b : Binding) (tail : List Byte) : List Byte :=
  leBytes 8 b.base.toNat ++ leBytes 8 b.stride.toNat ++ leBytes 8 b.pstr.toNat ++ leBytes 8 b.scales.toNat
  ++ leBytes 8 b.replica.toNat ++ leBytes 4 b.total
  ++ [BitVec.ofNat 8 (b.ew + 8 * b.ladder + 32 * (b.planes - 1) + if b.packed then 128 else 0), BitVec.ofNat 8 b.sreg, 0, 0]
  ++ tail ++ leBytes 2 b.tl ++ [0, 0, 0, 0]

/-- A record that R234 accepts for a hart that holds these bindings. -/
structure Bindable (b : Binding) (held : List Binding) : Prop where
  width : b.ew ≤ 4
  ladder : b.ladder ≤ 2
  planes : 1 ≤ b.planes ∧ b.planes ≤ 3
  stride : b.stride ≠ 0 → b.packed = false ∧ b.ladder = 0
  replica : b.replica ≠ 0 → b.packed = true
  single : b.ladder = 0 → b.planes = 1
  low : 15 < b.reg → b.planes = 1 ∧ b.ladder = 0
  scales : b.sreg < 48
  apart : b.sreg ∉ b.planeRegs
  free : ∀ r ∈ b.regs, ∀ x ∈ held, r ∉ x.regs
  room : held.length < 4
  sized : b.total < 2 ^ 32
  timeline : b.tl = 0xFFFF ∨ b.tl < 4096

/-- Plane p of an element of a stream, of the width that its ladder gives it. -/
def streamPart (m : Bool) (e : StreamElem) (p : Nat) : Nat :=
  (if p = 0 then e.p0 else if p = 1 then e.p1 else e.p2) % 2 ^ planeWidth m p

/-- Three planes joined (R216). -/
def joinedParts (m : Bool) (x : Nat → Nat) : Nat :=
  if m then (if x 0 = 8 then 0x8000 else x 0 * 4096 + x 1 * 256 + x 2) else x 0 * 65536 + x 1 * 256 + x 2

/-- t is s after a VPJOIN into register d took a whole strip of a planed binding of three planes (R236): every plane
register, and the scale register of ladder M, holds what was delivered, and d what was joined from it. -/
structure JoinedStrip (s : State) (d : BitVec 6) (b : Binding) (m : Bool) (t : State) : Prop where
  planes : ∀ p < 3, ∀ k < vlNow s, ∀ e, b.data[b.used + k]? = some e →
    elementAt (t.hart.vget (b.reg + 16 * p)) (planeWidth m p) k = streamPart m e p
  planeTail : ∀ p < 3, ∀ i, vlNow s * planeWidth m p ≤ i →
    (t.hart.vget (b.reg + 16 * p)).getLsbD i = (s.hart.vget (b.reg + 16 * p)).getLsbD i
  pairs : m = true → ∀ q x, q * blockNow s < vlNow s → b.pairs[b.used / blockNow s + q]? = some x →
    elementAt (t.hart.vget b.sreg) 16 q = x.1 % 65536
  pairTail : m = true → ∀ i, (vlNow s + blockNow s - 1) / blockNow s * 16 ≤ i →
    (t.hart.vget b.sreg).getLsbD i = (s.hart.vget b.sreg).getLsbD i
  joined : ∀ k < vlNow s, ∀ e, b.data[b.used + k]? = some e → elementAt (t.hart.vget d.toNat) (if m then 16 else 32) k =
    if live s k then joinedParts m (streamPart m e) else if s.hart.vcfg.getLsbD 23 then 0
    else el s (if m then 16 else 32) d k
  tail : ∀ i, vlNow s * (if m then 16 else 32) ≤ i → (t.hart.vget d.toNat).getLsbD i = (s.hart.vget d.toNat).getLsbD i
  others : ∀ r, r ≠ d.toNat → r ∉ b.regs → t.hart.vget r = s.hart.vget r
  frame : Stepped s { s.hart with v := t.hart.v, binds := [{ b with used := b.used + vlNow s }] } t

/-- Word (i, j) of a tile of a hart (R20). -/
def tileWord (h : Hart) (t i j : Nat) : Nat := (((h.tiles[t]?).getD 0).extractLsb' (32 * (96 * i + j)) 32).toNat

/-- t is s after tile instructions of the hart gave word (i, j) of tile n the contents f; every other tile is as
before. -/
structure Tiled (s : State) (n : Nat) (f : Nat → Nat → Nat) (t : State) : Prop where
  count : t.hart.tiles.length = s.hart.tiles.length
  written : ∀ i < 128, ∀ j < 96, tileWord t.hart n i j = f i j
  others : ∀ m, m ≠ n → ∀ i < 128, ∀ j < 96, tileWord t.hart m i j = tileWord s.hart m i j
  frame : Stepped s { s.hart with tiles := t.hart.tiles } t

/-- Rows of a tile instruction that no governing predicate and no VL touch, but the annulment bound (R239). -/
def rowOn (s : State) (i : Nat) : Bool := !(decide (limitNow s ≤ i) && decide (i < vlNow s))

/-- Where a row of 384 bytes lies: in one piece, or in two where it spans two pages (R254). -/
def RowAt (s : State) (acc : Acc) (va : Word) (ps : List (Nat × Nat)) : Prop :=
  let room := 4096 - va.toNat % 4096
  if 384 ≤ room then ∃ loc dev, ps = [(loc, 384)] ∧ s.xlate .vector acc va = .at loc dev
  else ∃ l₁ d₁ l₂ d₂, ps = [(l₁, room), (l₂, 384 - room)] ∧ s.xlate .vector acc va = .at l₁ d₁
    ∧ s.xlate .vector acc (va + BitVec.ofNat 64 room) = .at l₂ d₂

/-- Location of byte k of a row. -/
def rowByte : List (Nat × Nat) → Nat → Nat
  | [], _ => 0
  | (l, n) :: ps, k => if k < n then l + k else rowByte ps (k - n)

/-- Width and depth of the operands of a tile format, and the format of its values (R108, R246). -/
def operandShape (f : Nat) : Nat × Nat :=
  if f = 0 then (32, 1) else if f = 1 then (64, 1) else if f < 4 then (16, 1) else if f < 8 then (16, 2) else (16, 4)
/-- The format of a row operand's or a column operand's values. -/
def operandFormat (f : Nat) (column : Bool) : Fmt :=
  if f = 0 then fp32 else if f = 1 then fp64 else if f = 2 then bf16 else if f = 3 then fp16
  else if f = 4 then e4m3 else if f = 5 then e5m2 else if f = 6 then (if column then e5m2 else e4m3)
  else if f = 7 then (if column then e4m3 else e5m2) else e2m1

/-- The scale pair of row or column i of a scaled form: from the register that MSCALE names under EN, else 0x007F
(R248). -/
def scalePairOf (s : State) (scaled : BitVec 1) (column : Bool) (i : Nat) : Nat :=
  if scaled = 1 ∧ s.hart.mscale.getLsbD 12 = true then
    elementAt (s.hart.vget (s.hart.mscale.toNat / (if column then 64 else 1) % 64)) 16 (i / blockNow s)
  else 0x7F

/-- Value q of an element of an operand, times its scale (R246, R248, R123). -/
def operandValue (f : Nat) (column : Bool) (pair x q : Nat) : Val :=
  let fm := operandFormat f column
  let code := x / 2 ^ (fm.bits * q) % 2 ^ fm.bits
  if f = 8 then decodeM e2m1 code pair
  else if pair % 256 = 255 then .nan
  else scaleVal ((pair % 256 : Nat) - 127) (decodeF fm code)

/-- An exact sum of values, the first two first. -/
def sumOf : List Val → Val
  | [] => .fin false 0 0
  | t :: ts => ts.foldl (fun a x => (addVal .rne a x).1) t

/-- The term d of R247, and whether it is invalid: a product 0 × ∞, or infinities of opposite sign. -/
def dotOf (sub : Bool) (xs ys : List Val) : Val × Bool :=
  let terms := (xs.zip ys).map (fun p => mulVal (if sub then negVal p.1 else p.1) p.2)
  (sumOf (terms.map (·.1)), terms.any (fun t => decide (t.2 ≠ 0))
    || (terms.any (fun t => decide (t.1 = .inf true)) && terms.any (fun t => decide (t.1 = .inf false))))

/-- An accumulator element after d was added, with its flags (R140, R247, R251). -/
def accumulated (fm : Fmt) (old : Nat) (d : Val × Bool) : Nat × Nat :=
  let r := roundPair fm .rne (addVal .rne (decodeF fm old) d.1)
  (r.1, if d.2 then r.2 ||| 16 else r.2)

/-- Element (i, j) of the accumulator of td: FP32 of one tile, or FP64 of two (R249). -/
def accOf (h : Hart) (t : Nat) (wide : Bool) (i j : Nat) : Nat :=
  if wide then
    tileWord h (t + j / 48) i (2 * (j % 48)) + 2 ^ 32 * tileWord h (t + j / 48) i (2 * (j % 48) + 1)
  else tileWord h t i j

end Sys2Proof.Stated

/-- R233 to R238: VBIND registers the binding that its record describes and writes AVAIL 0 and STATUS 1. A read of the
bound register takes one strip: the elements from USED on go to the register whatever the predicate holds, the
instruction reads them as usual, and USED moves on; where the stream has ended before VL elements, the strip is
trimmed. A planed binding delivers every plane, and with ladder M the scale pairs that its blocks came with; lower
planes come as they were produced. With no element to give, as with VL = 0, or inside a block of ladder M, the reader
stops at element 0 with STREAM. An instruction that writes a register of a binding, reads one of ladder 0 at another
width than its elements', or names a lower plane or a scale register by itself traps STREAM at issue. VUNBIND writes
USED, ends a running stream with STATUS 0, and of an unbound register does nothing.
Where the specification is silent this rests on the model's choices in log entries 35 to 38, 42, 84 and 85. -/
def Obligations.StreamsBindDeliverAndEnd : Prop :=
  ∀ (s : State) (d : BitVec 6) (b : Binding), s.bars = [] → Memory.wf s.mem = true →
    (∀ (a : BitVec 5) (loc loc' : Nat) (tail : List Byte), Bindable b s.hart.binds → b.record = s.hart.gget a.toNat →
      b.reg = d.toNat → b.data = [] → b.block = blockNow s → b.pairs = [] → b.used = 0 → b.status = 1 → b.cause = 0 → b.ticket = 0 → b.tl = 0xFFFF → b.total ≠ 0 →
      tail.length = 10 → b.record.toNat % 64 = 0 → Finds s .load b.record 64 loc → Finds s .store b.record 64 loc' →
      inDev loc || inSpad loc → intact s loc 64 → Memory.reads (s.view s.hart) loc 64 = recordBytes b tail →
      s.hart.held = [] → s.hart.waiting = [] → Alone s (.vbind d a) [] →
      Completes (.vbind d a) s (fun t =>
        t.hart.binds = s.hart.binds ++ [b]
        ∧ (∀ k < 4, Memory.read t.mem (loc + 0x30 + k) = 0) ∧ Memory.read t.mem (loc + 0x38) = 1
        ∧ (∀ x, (x < loc + 0x30 ∨ loc + 0x34 ≤ x) → x ≠ loc + 0x38 → Memory.read t.mem x = Memory.read s.mem x)
        ∧ Stepped { s with mem := t.mem, poison := t.poison } { s.hart with binds := t.hart.binds, drained := true }
            (unmoved s t)))
    ∧ (∀ (a c : BitVec 6), s.hart.binds = [b] → b.reg = a.toNat → b.ladder = 0 → b.planes = 1 → b.ew = ewNow s →
      1 ≤ ewNow s → ewNow s ≤ 4 → a ∉ [d, c] → a.toNat < 48 → s.hart.vftrim = 0 → b.used ≤ b.data.length →
      (∀ e ∈ b.data, e.bad = false) → Alone s (.vadd d a c 0 0 0) [d, c] →
      let w := bitsNow s
      let n := min (vlNow s) (b.data.length - b.used)
      let x := fun k => ((b.data[b.used + k]?).map (·.p0)).getD 0 % 2 ^ w
      (0 < n → n = vlNow s ∨ b.status ≠ 1 → Completes (.vadd d a c 0 0 0) s (fun t =>
        (∀ k < n, elementAt (t.hart.vget a.toNat) w k = x k)
        ∧ (∀ k < n, elementAt (t.hart.vget d.toNat) w k =
            if live s k then (x k + el s w c k) % 2 ^ w
            else if s.hart.vcfg.getLsbD 23 then 0 else el s w d k)
        ∧ (∀ i, n * w ≤ i → (t.hart.vget a.toNat).getLsbD i = (s.hart.vget a.toNat).getLsbD i
            ∧ (t.hart.vget d.toNat).getLsbD i = (s.hart.vget d.toNat).getLsbD i)
        ∧ (∀ r, r ≠ a.toNat → r ≠ d.toNat → t.hart.vget r = s.hart.vget r)
        ∧ t.hart.lastVl = n ∧ (n = vlNow s → t.hart.vcfg = s.hart.vcfg)
        ∧ Stepped s { s.hart with
            v := t.hart.v, binds := [{ b with used := b.used + n }], ftrimPlace := t.hart.ftrimPlace
            vcfg := if n = vlNow s then s.hart.vcfg else (s.hart.vcfg &&& ~~~0x1FFF) ||| BitVec.ofNat 64 n
            vexit := if n = vlNow s then s.hart.vexit
              else (s.hart.vexit &&& ~~~0x1FFF) ||| BitVec.ofNat 64 (min (s.hart.vexit.toNat % 8192) n)
            vftrim := if n = vlNow s ∨ b.status ≠ 3 then 0 else BitVec.ofNat 64 (2 ^ 24 + 14 * 2 ^ 16 + n) }
          (t.setHart { t.hart with lastVl := vlNow s })))
      ∧ (n = 0 → b.status ≠ 1 ∨ vlNow s = 0 → s.hart.trapvec ≠ 0 →
          Completes (.vadd d a c 0 0 0) s (Stopped s (.vadd d a c 0 0 0) 14 0 (BitVec.ofNat 64 b.used))))
    ∧ (∀ (m : Bool) (a : BitVec 6), s.hart.binds = [b] → b.reg = a.toNat → a.toNat < 16 → b.ladder = (if m then 2 else 1) →
      b.planes = 3 → b.sreg < 48 → b.sreg ∉ b.planeRegs → vlNow s * (if m then 16 else 32) ≤ roomNow s → 0 < vlNow s →
      b.used + vlNow s ≤ b.data.length → (∀ e ∈ b.data, e.bad = false) →
      (m = true → (b.used + vlNow s + blockNow s - 1) / blockNow s ≤ b.pairs.length ∧ ∀ x ∈ b.pairs, x.2 = false) →
      let i : Instr := .vpjoin d a (if m then 1 else 0)
      Alone s i [d] →
      ((m = true → b.used % blockNow s = 0) → Completes i s (JoinedStrip s d b m))
      ∧ (m = true → b.used % blockNow s ≠ 0 → s.hart.trapvec ≠ 0 →
          Completes i s (Stopped s i 14 0 (BitVec.ofNat 64 b.used))))
    ∧ (∀ (i : Instr) (r : Nat), Quiet s → s.hart.sup = false → s.hart.trapvec ≠ 0 → b ∈ s.hart.binds → isVector i = true →
      illegalAtIssue i s.hart.capture = false → overlaps i s.hart.capture = false → r ∈ b.regs →
      r ∈ ((vInfo i).map (·.writes)).getD []
        ∨ r ∈ namedReads i ∧ (b.ladder = 0 ∧ r = b.reg ∧ b.ew ≠ ewNow s ∨ b.ladder ≠ 0 ∧ r ≠ b.reg) →
      Completes i s (TrapsHere s 14 (wordOf' i)))
    ∧ (Alone s (.vunbind d) [] →
      ((∀ x ∈ s.hart.binds, x.reg ≠ d.toNat) → Completes (.vunbind d) s (Stepped s s.hart))
      ∧ (∀ (loc : Nat) (u v : Bool), s.hart.binds.find? (fun x => decide (x.reg = d.toNat)) = some b →
          s.translate (s.cur / 4) (s.rootOf s.hart) false .engine .store (b.record + 0x34) = .at loc u →
          (s.writeMem loc (leBytes 4 b.used)).translate (s.cur / 4) (s.rootOf s.hart) false .engine .store
            (b.record + 0x38) = .at (loc + 4) v →
          Completes (.vunbind d) s (fun t =>
            (∀ k < 4, Memory.read t.mem (loc + k) = byteOf b.used k)
            ∧ (b.status = 1 → Memory.read t.mem (loc + 4) = 0 ∧ Memory.read t.mem (loc + 5) = 0)
            ∧ (∀ x, x < loc ∨ loc + 6 ≤ x ∨ (loc + 4 ≤ x ∧ b.status ≠ 1) → Memory.read t.mem x = Memory.read s.mem x)
            ∧ (b.status ≠ 1 ∨ b.tl = 0xFFFF → t.timelines = s.timelines)
            ∧ Stepped { s with mem := t.mem, poison := t.poison, timelines := t.timelines }
                { s.hart with binds := s.hart.binds.filter (fun x => decide (x.reg ≠ d.toNat)), drained := true } t)))

/-! ### Class 13: tiles -/

/-- R241 to R243, R245, R253, R254: MATTACH grants zeroed tiles as far as the core has them, MDETACH returns them; MZERO
clears, MROWV and MCOLV read and MVROW writes a slice word for word; MTST enters one held entry for each row, and MTLD
reads the rows. Annulled rows keep their words; where one of them could not have been read, VFTRIM may record it. A tile
that is not granted stops any of them that names it at element 0 with TILE_OFF and its number.
Where the specification is silent this rests on the model's choices in log entries 26 and 30. -/
def Obligations.TilesAreGrantedClearedMovedAndStored : Prop :=
  ∀ (s : State) (m : BitVec 3) (n : BitVec 2) (d g : BitVec 6),
    let k := s.hart.tiles.length
    let free := 4 - ((List.range 4).map (fun i =>
      let h := s.hartAt (4 * (s.cur / 4) + i)
      h.tiles.length + h.keptTiles)).sum
    let x := (s.hart.gget g.toNat).toNat
    let base := s.hart.gget g.toNat
    let rows := (List.range 128).filter (rowOn s)
    (Alone s (.mattach m) [] → Completes (.mattach m) s (Stepped s { s.hart with
      tiles := s.hart.tiles ++ List.replicate (min (m.toNat - k) free) 0 }))
    ∧ (Alone s .mdetach [] → Completes .mdetach s (Stepped s { s.hart with
        tiles := []
        keptTiles := if s.hart.stripK = true ∧ s.hart.drained = false then s.hart.keptTiles + k else s.hart.keptTiles }))
    ∧ (n.toNat < k → Alone s (.mzero n) [] →
        Completes (.mzero n) s (Tiled s n.toNat (fun i j => if rowOn s i then 0 else tileWord s.hart n.toNat i j)))
    ∧ (k ≤ n.toNat → s.hart.trapvec ≠ 0 → vlNow s ≤ 96 → vlNow s * 32 ≤ roomNow s →
        ∀ p ∈ [(Instr.mzero n, 0xFFFFFFFFFFFFFFFF), (.mrowv n d g, 127), (.mcolv n d g, 95), (.mvrow n d g, 127),
            (.mtst n g, 0xFFFFFFFFFFFFFFFF), (.mtld n g, 0xFFFFFFFFFFFFFFFF)],
          x ≤ p.2 → Alone s p.1 [d] → Completes p.1 s (Stopped s p.1 10 0 (BitVec.ofNat 64 n.toNat)))
    ∧ (n.toNat < k → x ≤ 127 → vlNow s ≤ 96 → vlNow s * 32 ≤ roomNow s → Alone s (.mrowv n d g) [d] →
        Completes (.mrowv n d g) s (Computed s d 32 (fun j => tileWord s.hart n.toNat x j) (fun _ => 0)))
    ∧ (n.toNat < k → x ≤ 95 → vlNow s ≤ 128 → vlNow s * 32 ≤ roomNow s → Alone s (.mcolv n d g) [d] →
        Completes (.mcolv n d g) s (Computed s d 32 (fun i => tileWord s.hart n.toNat i x) (fun _ => 0)))
    ∧ (n.toNat < k → x ≤ 127 → vlNow s ≤ 96 → Alone s (.mvrow n d g) [d] →
        Completes (.mvrow n d g) s (Tiled s n.toNat (fun i j =>
          if i = x ∧ live s j then el s 32 d j else tileWord s.hart n.toNat i j)))
    ∧ (∀ ps : Nat → List (Nat × Nat), n.toNat < k → x % 64 = 0 → Room s rows.length →
        (∀ i ∈ rows, RowAt s .store (base + BitVec.ofNat 64 (384 * i)) (ps i)) → Alone s (.mtst n g) [] →
        Completes (.mtst n g) s (Entering s (rows.map (fun i =>
          { seq := s.hart.nextSeq, elem := i, vector := true, kind := .store, size := 5, high := false
            scope := BitVec.ofNat 2 (s.hart.vcfg.toNat / 2 ^ 19), ew := 0, fmt := 0
            va := recorded s (base + BitVec.ofNat 64 (384 * i)), locs := ps i
            bytes := (List.range 96).flatMap (fun j => leBytes 4 (tileWord s.hart n.toNat i j)), addends := [] }))))
    ∧ (∀ ps : Nat → List (Nat × Nat), n.toNat < k → x % 64 = 0 →
        (∀ i ∈ rows, RowAt s .load (base + BitVec.ofNat 64 (384 * i)) (ps i)
          ∧ ∀ j < 384, s.readsDamaged (older s) none (rowByte (ps i) j) = false) → Alone s (.mtld n g) [] →
        Completes (.mtld n g) s (fun t =>
          Tiled s n.toNat (fun i j =>
            if rowOn s i then
              leNat ((List.range 4).map (fun q => Memory.read (s.view (older s)) (rowByte (ps i) (4 * j + q))))
            else tileWord s.hart n.toNat i j)
            (unmoved s (t.setHart { t.hart with vftrim := s.hart.vftrim, ftrimPlace := s.hart.ftrimPlace }))
          ∧ ((∀ i < vlNow s, rowOn s i = false →
              ∃ ps, RowAt s .load (base + BitVec.ofNat 64 (384 * i)) ps) → t.hart.vftrim = s.hart.vftrim)))

/-- R246 to R249, R251, R140: MXACC adds to each accumulator element of an active row and an enabled column the exact
dot product of their operand values with one rounding to nearest, MXSUB subtracts it; nothing else of the tiles
changes, and the flags are those of the final additions. A tile that is not granted stops either at element 0 with
TILE_OFF and the highest tile it names (R243).
Where the specification is silent this rests on the model's choices in log entry 25. -/
def Obligations.OuterProductsAddOneExactDotProduct : Prop :=
  ∀ (s : State) (n : BitVec 2) (a b : BitVec 6) (x y : BitVec 1) (f : BitVec 4) (scaled sub : BitVec 1),
    let wide : Bool := decide (f = 1)
    let fm := if wide then fp64 else fp32
    let w := (operandShape f.toNat).1
    let depth := (operandShape f.toNat).2
    let ms := s.hart.mscale
    let ncol := ms.toNat / 2 ^ 16 % 128
    let on := fun j => decide (j < ncol)
      && (!ms.getLsbD 29 || (s.hart.pget (ms.toNat / 2 ^ 24 % 32)).getLsbD j)
    let value := fun (column : Bool) (r : BitVec 6) i => (List.range depth).map (fun q =>
      operandValue f.toNat column (scalePairOf s scaled column i) (el s w r i) q)
    let after := fun i j => accumulated fm (accOf s.hart n.toNat wide i j)
      (dotOf (decide (sub = 1)) (value false a i) (value true b j))
    let ins : Instr := if sub = 1 then .mxsub n a b x y f scaled else .mxacc n a b x y f scaled
    f.toNat < 9 → (scaled = 1 → 4 ≤ f.toNat) → (wide = true → n.toNat % 2 = 0) →
    let top := if wide then n.toNat + 1 else n.toNat
    vlNow s ≤ 128 → 1 ≤ ncol → ncol ≤ 96 →
    vlNow s * w ≤ roomNow s → ncol * w ≤ roomNow s →
    (scaled = 1 → ms.getLsbD 12 = true → ms.toNat % 64 < 48 ∧ ms.toNat / 64 % 64 < 48
      ∧ ∀ c ∈ s.hart.binds, ms.toNat % 64 ∉ c.regs ∧ ms.toNat / 64 % 64 ∉ c.regs) →
    Alone s ins [a, b] →
    (s.hart.tiles.length ≤ top → s.hart.trapvec ≠ 0 → Completes ins s (Stopped s ins 10 0 (BitVec.ofNat 64 top)))
    ∧ (top < s.hart.tiles.length → Completes ins s (fun t =>
      (∀ i < 128, ∀ j < 96, accOf t.hart n.toNat wide i j =
        if live s i && on j then (after i j).1 else accOf s.hart n.toNat wide i j)
      ∧ (∀ m, m ≠ n.toNat → (wide = true → m ≠ n.toNat + 1) → ∀ i < 128, ∀ j < 96,
          tileWord t.hart m i j = tileWord s.hart m i j)
      ∧ (∀ i < 64, t.hart.fpflags.getLsbD i = (s.hart.fpflags.getLsbD i || decide (i < 5)
          && (List.range (vlNow s)).any (fun r => live s r && (List.range ncol).any (fun c =>
            on c && (after r c).2.testBit i))))
      ∧ t.hart.tiles.length = s.hart.tiles.length
      ∧ Stepped s { s.hart with tiles := t.hart.tiles, fpflags := t.hart.fpflags } t))

/-! ### Class 14: engines and synchronisation -/

namespace Sys2Proof.Stated

/-- A hart whose engine instruction has issued: gd takes v, and the strip is DRAINED (R257, R434). -/
def issued (s : State) (d : BitVec 5) (v : Word) : Hart := { withG (passed s) d v with drained := true }

/-- The hart that waits in an instruction which released (R257). -/
def marked (s : State) : Hart := { s.hart with drained := true }

/-- No vector instruction is pending, and nothing of the hart is held, so its release has nothing to perform. -/
structure Calm (s : State) : Prop where
  quiet : Quiet s
  held : s.hart.held = []
  waiting : s.hart.waiting = []
  free : s.hart.wait = none

/-- A timeline number that names a timeline, or 0xFFFF for none (R259). -/
def timelineOk (t : Nat) : Prop := t < 4096 ∨ t = 0xFFFF

/-- The ticket that an operation issued on timeline n takes: none on 0xFFFF (R259). -/
def ticketOn (s : State) (n : Nat) : Nat := if n = 0xFFFF then 0 else ((s.timeline n).next + 1).toNat

/-- Timeline n of t is l; the others are as in s, and 0xFFFF names none. -/
def Timed (s : State) (n : Nat) (l : Timeline) (t : State) : Prop :=
  (n ≠ 0xFFFF → t.timeline n = l) ∧ (∀ m, m ≠ n ∨ n = 0xFFFF → t.timeline m = s.timeline m)

/-- A timeline on which one more operation was issued. -/
def ticketed (s : State) (n : Nat) : Timeline := { s.timeline n with next := (s.timeline n).next + 1 }

/-- t is s with hart h and one that waits as w says; the moment of the parking is new. -/
def Began (s : State) (h : Hart) (w : Option Wait) (t : State) : Prop :=
  t = { s.setHart { h with wait := w, parkedAt := t.hart.parkedAt, parkedTsc := t.hart.parkedTsc } with stamp := t.stamp }

/-- t is s with hart h and one that has parked; in program mode a hart that was asked to stop stops at once, as a
pre-emption does, and keeps its wait (R389). -/
def Parked (s : State) (h : Hart) (w : Wait) (t : State) : Prop :=
  ∃ u, Began s h (some w) u ∧ t = if s.hart.sup = false ∧ s.hart.stopping.isSome then u.saveHart s.cur 2 else u

/-- n bytes at a location that a scalar load of the hart finds undamaged (R427). -/
def sound (s : State) (loc n : Nat) : Prop := ∀ k < n, s.readsDamaged s.hart none (loc + k) = false

/-- Dwords that scalar loads of the hart find, undamaged, at an aligned address on. -/
def ReadsBytes (s : State) (va : Word) (bs : List Byte) : Prop :=
  ∀ j, 8 * j < bs.length → ∃ loc, Reaches s .load (va + BitVec.ofNat 64 (8 * j)) 8 loc ∧ sound s loc 8
    ∧ Memory.reads (s.view s.hart) loc 8 = (bs.drop (8 * j)).take 8

/-- A location in a scratchpad or in device memory. -/
def recordPlace (loc : Nat) : Prop := inDev loc = true ∨ inSpad loc = true

/-- The serial of the launch of the executing hart. -/
def serialNow (s : State) : BitVec 32 := (s.hart.place.map (·.serial)).getD 0

/-- Bytes of a copy descriptor (R265): dst, dstride, src, sstride, idx, count, row bytes, timeline, index width. -/
def descriptorBytes (dst ds src ss idx : Word) (count rb tl w : Nat) (status : List Byte) : List Byte :=
  leBytes 8 dst.toNat ++ leBytes 8 ds.toNat ++ leBytes 8 src.toNat ++ leBytes 8 ss.toNat ++ leBytes 8 idx.toNat
  ++ leBytes 4 count ++ leBytes 4 rb ++ leBytes 2 tl ++ [BitVec.ofNat 8 w, 0] ++ status ++ [0, 0, 0, 0]

/-- The copy operations of the hart's core gained one; gd holds its ticket. Bytes of a descriptor count as moved (R458).
-/
def Copying (s : State) (d : BitVec 5) (n : Nat) (kind : CopyKind) (t : State) : Prop :=
  (t.core (s.cur / 4)).copies = (s.core (s.cur / 4)).copies
    ++ [{ hart := s.cur, place := s.hart.place, serial := serialNow s, tl := n, ticket := ticketOn s n, kind := kind }]
  ∧ Timed s n (ticketed s n) t
  ∧ (∀ c, c ≠ s.cur / 4 → t.core c = s.core c)
  ∧ t.core (s.cur / 4) = { s.core (s.cur / 4) with copies := (t.core (s.cur / 4)).copies }
  ∧ t = { s.setHart { issued s d (BitVec.ofNat 64 (ticketOn s n)) with moved := t.hart.moved } with
      cores := t.cores, timelines := t.timelines }

/-- Zone z of the executing core. -/
def zoneNow (s : State) (z : Nat) : Option Zone := ((s.core (s.cur / 4)).zones[z]?).getD none

/-- t is s but for zone z of the executing core, which is x; harts may have stopped waiting. -/
def Zoned (s : State) (z : Nat) (x : Option Zone) (t : State) : Prop :=
  zoneNow t z = x ∧ (∀ i, i ≠ z → zoneNow t i = zoneNow s i)
  ∧ (∀ c, c ≠ s.cur / 4 → t.core c = s.core c)
  ∧ t.core (s.cur / 4) = { s.core (s.cur / 4) with zones := (t.core (s.cur / 4)).zones }

/-- A zone that an accepted KZONE leaves: every slot FREE with GEN 0, and no message counted (R270). -/
def freshZone (base size n : Nat) : Zone :=
  { base := base, slotSize := size, arrived := 0, failed := 0
    slots := List.replicate n { state := .free, gen := 0, len := 0, owner := none, want := 0, landed := [] } }

/-- Fields of a target word (R271). -/
structure Target where
  dev : Nat
  core : Nat
  zone : Nat
  ladder : Bool
  tl : Nat

/-- A target word with these fields and no reserved bit. -/
def Target.isWord (x : Target) (w : Word) : Prop :=
  x.dev < 2 ^ 16 ∧ x.core < 128 ∧ x.zone < 8 ∧ timelineOk x.tl
  ∧ w.toNat = x.dev + x.core * 2 ^ 16 + x.zone * 2 ^ 24 + (if x.ladder then 2 ^ 27 else 0) + x.tl * 2 ^ 32

/-- The kite operation that an instruction of the hart issues to a target, over a path. -/
def kiteOf (s : State) (x : Target) (port : Nat) (word : Option Nat) : KiteOp :=
  { op := s.nextOp, hart := s.cur, place := s.hart.place, serial := serialNow s, tl := x.tl, ticket := ticketOn s x.tl, dev := x.dev, port := port
    core := x.core, zone := x.zone, word := word }

/-- KIND of the flits of a message (R408). -/
def kindIn : KMsg → Nat
  | .reserve .. => 1
  | .reply .. => 2
  | .head .. => 3
  | .data .. => 4
  | .last .. => 5
  | .completion .. => 6
  | .rejection .. => 6
  | .ended _ => 0
  | .ack => 0

/-- A flit that carries a message from this device to another, with a sequence number of a port; its check bits are
open (R408). -/
structure Carries (s : State) (dev port n : Nat) (m : KMsg) (f : Flit) : Prop where
  message : f.msg = m
  target : bitField f.header.toNat 48 16 = dev % 2 ^ 16
  source : bitField f.header.toNat 32 16 = s.devnum.toNat
  kind : bitField f.header.toNat 28 4 = kindIn m
  number : port < 20 → bitField f.header.toNat 16 12 = ((s.portAt port).seq.toNat + n) % 2 ^ 12

/-- A frame of one flit on an Ethernet path to a device: the path is a port and the address of the other end, and the
frame acknowledges what the path has taken in (R411, R415, R416). Its source address and check sequence are open. -/
structure Frames (s : State) (dev path number : Nat) (f : Flit) (x : KFrame) : Prop where
  address : x.mac = BitVec.ofNat 48 (path / 32)
  tag : x.vlan = (s.portAt (path % 32)).tag
  etype : x.etype = BitVec.ofNat 16 (bitField s.ketype.toNat 0 16)
  number : x.number = number
  ack : x.ack = (s.ethPath dev path).taken
  flits : x.flits = [f]

/-- The packets in which messages leave over a path: a flit each on a Kiteline link, a frame each of one flit on
Ethernet, where frames are numbered on their path (R408, R415, R416). -/
def Packets (s : State) (path dev : Nat) (ms : List KMsg) (ps : List Packet) : Prop :=
  let port := path % 32
  ps.length = ms.length ∧ ∀ k m, ms[k]? = some m → ∃ f, Carries s dev port k m f
    ∧ (port = 18 ∨ port = 19 → ∃ x, Frames s dev path ((s.ethPath dev path).sent + 1 + k) f x
        ∧ ps[k]? = some (.frame port dev x))
    ∧ (port ≠ 18 → port ≠ 19 → ps[k]? = some (.flit port dev f))

/-- t is s after a kite operation was issued and these messages left over its path, or over the fabric to this device
itself; the bytes of a send count as moved (R458). -/
def Sending (s : State) (d : BitVec 5) (o : KiteOp) (ms : List KMsg) (t : State) : Prop :=
  t.kites = s.kites ++ [o] ∧ t.nextOp = s.nextOp + 1 ∧ Timed s o.tl (ticketed s o.tl) t
  ∧ t.fabric = s.fabric ++ (if o.port = 31 then ms else [])
  ∧ (∃ ps, t.sent = s.sent ++ ps ∧ Packets s o.port o.dev (if o.port = 31 then [] else ms) ps)
  ∧ (∀ p, t.portAt p = { s.portAt p with seq := (t.portAt p).seq })
  ∧ t = { s.setHart { issued s d (BitVec.ofNat 64 o.ticket) with moved := t.hart.moved } with
      kites := t.kites, nextOp := t.nextOp, timelines := t.timelines, fabric := t.fabric, sent := t.sent, ports := t.ports
      lastSent := t.lastSent, eth := t.eth, fresh := t.fresh }

/-- How the messages of an operation name their sender. -/
def senderOf (s : State) (o : KiteOp) : Origin := { dev := s.devnum.toNat, port := o.port, op := o.op, launch := o.serial }

/-- Nibble k of an array of bytes. -/
def nibbleAt (src : Nat → Byte) (k : Nat) : Nat := (src (k / 2)).toNat / 16 ^ (k % 2) % 16

/-- Byte q of plane p of n elements as a send lays it out: beyond the last element zero, and zero in the lower planes of
a special element (R272, R131). -/
def sentPlane (m : Bool) (src : Nat → Nat → Byte) (n p q : Nat) : Byte :=
  if m then
    let special := fun k => nibbleAt (src 0) k = 8
    let nib := fun k => if n ≤ k ∨ (p ≠ 0 ∧ special k) then 0 else nibbleAt (src p) k
    if p = 2 then (if n ≤ q ∨ special q then 0 else src 2 q) else BitVec.ofNat 8 (nib (2 * q) + 16 * nib (2 * q + 1))
  else if q < (if p = 0 then 2 * n else n) then src p q else 0

/-- Distance of the planes in the slot: D of R272. -/
def planeStep (m : Bool) (n : Nat) : Nat := ((if m then n else 2 * n) + 63) / 64 * 64

/-- Length of the message of a send (R272). -/
def sentLength (k n block : Nat) (m : Bool) : Nat :=
  if k = 0 then n else k * planeStep m n + (if m then 2 * ((n + block - 1) / block) else 0)

/-- The data messages of a send: 120 bytes in each flit (R408). -/
def pieces (me : Origin) (core zone slot : Nat) (bytes : List Byte) : List KMsg :=
  (List.range ((bytes.length + 119) / 120)).map (fun j =>
    .data me core zone slot (120 * j) ((bytes.drop (120 * j)).take 120) false)

/-- Bytes that a send of k planes, or of n raw bytes for k = 0, puts into its slot (R272); plane 3 of `src` is the array
of scale pairs. -/
def sentBytes (k n block : Nat) (m : Bool) (src : Nat → Nat → Byte) : List Byte :=
  if k = 0 then (List.range n).map (src 0)
  else (List.range k).flatMap (fun p => (List.range (planeStep m n)).map (sentPlane m src n p))
    ++ (if m then (List.range (2 * ((n + block - 1) / block))).map (src 3) else [])

/-- Bytes of array p that a send reads. -/
def readSize (k n block : Nat) (m : Bool) (p : Nat) : Nat :=
  if k = 0 then (if p = 0 then n else 0)
  else if p < k then (n * planeWidth m p + 7) / 8
  else if p = 3 ∧ m then 2 * ((n + block - 1) / block) else 0

/-- A context whose wait meets a test ends it with a value in its register; every other one is as before. -/
def waitEnded (test : Hart → Option (BitVec 5)) (v : Word) (h : Hart) : Hart :=
  match test h with
  | some d => { h with wait := some (.done (some d) v) }
  | none => h

/-- t is u after every wait that meets a test ended: on the harts and in saved contexts. -/
def Released (u : State) (test : Hart → Option (BitVec 5)) (v : Word) (t : State) : Prop :=
  (∀ k, k ≠ u.cur → t.hartAt k = waitEnded test v (u.hartAt k))
  ∧ t.launches = u.launches.map (fun l => { l with gangs := l.gangs.map (fun g => { g with ranks := g.ranks.map (fun r =>
      match r with
      | .saved c => .saved (waitEnded test v c)
      | .on h => .on h
      | .halted => .halted) }) })

/-- The 64 bytes of a launch record (R369). -/
def launchBytes (r : LRecord) : List Byte :=
  leBytes 8 r.entry ++ leBytes 8 r.param ++ leBytes 8 r.compl ++ leBytes 8 r.w0val ++ leBytes 8 r.w1val
  ++ leBytes 2 r.w0tl ++ leBytes 2 r.w1tl ++ leBytes 2 r.ctl ++ [BitVec.ofNat 8 r.gsize, BitVec.ofNat 8 r.prio]
  ++ leBytes 4 r.gcount ++ leBytes 4 r.flags ++ leBytes 8 r.tag

/-- A record that passes the checks of R370. -/
structure Launchable (r : LRecord) : Prop where
  entry : r.entry % 64 = 0 ∧ r.entry < 2 ^ 48
  param : r.param < 2 ^ 64
  compl : r.compl % 64 = 0 ∧ r.compl < 2 ^ 64
  waits : timelineOk r.w0tl ∧ timelineOk r.w1tl ∧ timelineOk r.ctl
  values : r.w0val < 2 ^ 64 ∧ r.w1val < 2 ^ 64
  gang : 1 ≤ r.gsize ∧ r.gsize ≤ 16
  prio : r.prio ≤ 7
  count : 1 ≤ r.gcount ∧ r.gcount ≤ 2 ^ 24
  flags : r.flags ≤ 7
  tag : r.tag < 2 ^ 64

/-- Launches in the pool and entries reserved by WAITSLOT (R375, R277). -/
def poolHeld (s : State) : Nat :=
  (s.launches.filter (fun l => l.inPool)).length + (s.contexts.filter (fun h => h.slotRes)).length

/-- The fields of a barrier record at a location, undamaged (R280). -/
structure Barrier (s : State) (loc count arrived phase tag : Nat) : Prop where
  bytes : ∃ pad, Memory.reads s.mem loc 16 = leBytes 4 count ++ leBytes 4 arrived ++ leBytes 4 phase ++ leBytes 2 tag ++ pad
  sound : sound s loc 16
  sized : count < 2 ^ 32 ∧ arrived < 2 ^ 32 ∧ phase < 2 ^ 32 ∧ tag < 2 ^ 16

end Sys2Proof.Stated

/-- R256, R259, R261 to R267: TLRD reads a field of a timeline; TLWAIT returns VALUE once it has reached gb, and parks
until then; TLSIG takes a ticket that finishes at once, with the error that bit 0 asks for and the clear of bit 1.
CPY, CPYX and CPYG hand an operation with the next ticket of its timeline to the core's copy engine; a CPY of no byte
finishes at once. A timeline number out of its limits traps ACCESS with the whole register.
A CPYG with no written element finishes at once and writes STATUS and FAILPOS 0. Of a TLSIG with both operands out of
their limits TRAPVAL holds ga, the operand named first.
Where the specification is silent this rests on the model's choices in log entries 29 and 39. -/
def Obligations.TimelinesCountAndCopiesAreIssued : Prop :=
  ∀ (s : State) (d a b : BitVec 5) (c : BitVec 6) (n : Nat), Calm s →
    let ga := s.hart.gget a.toNat
    let gb := s.hart.gget b.toNat
    let gc := s.hart.gget c.toNat
    let l := s.timeline n
    (∀ f, timelineOk n → f ≤ 4 → ga.toNat = n + 2 ^ 16 * f → Completes (.tlrd d a) s (Result s d
      (if n = 0xFFFF then 0 else if f = 0 then l.value else if f = 1 then l.next
        else if f = 2 then BitVec.ofNat 64 ((if l.err then 1 else 0) + 2 ^ 8 * l.ecode.toNat + 2 ^ 16 * l.ekind.toNat)
        else if f = 3 then l.eticket else l.eaddr)))
    ∧ (timelineOk n → ga.toNat = n →
      (n = 0xFFFF → Completes (.tlwait d a b) s (Result s d 0))
      ∧ (n ≠ 0xFFFF → gb.toNat ≤ l.value.toNat → Completes (.tlwait d a b) s (Began s (withG (passed s) d l.value) none))
      ∧ (n ≠ 0xFFFF → l.value.toNat < gb.toNat →
          Completes (.tlwait d a b) s (Parked s s.hart (.tl n gb d))))
    ∧ (n < 4096 → ga.toNat = n → gb.toNat ≤ 3 → Completes (.tlsig a b) s (fun t =>
        let next := l.next + 1
        (gb.getLsbD 1 = true → (t.timeline n).err = false ∧ (t.timeline n).ecode = 0 ∧ (t.timeline n).ekind = 0
          ∧ (t.timeline n).eticket = 0 ∧ (t.timeline n).eaddr = 0)
        ∧ (gb.getLsbD 1 = false → gb.getLsbD 0 = true → l.err = false → (t.timeline n).err = true
          ∧ (t.timeline n).ecode = 0 ∧ (t.timeline n).ekind = 3 ∧ (t.timeline n).eticket = next ∧ (t.timeline n).eaddr = 0)
        ∧ (gb.getLsbD 1 = false → gb.getLsbD 0 = false ∨ l.err = true → (t.timeline n).err = l.err
          ∧ (t.timeline n).ecode = l.ecode ∧ (t.timeline n).ekind = l.ekind
          ∧ (t.timeline n).eticket = l.eticket ∧ (t.timeline n).eaddr = l.eaddr)
        ∧ (t.timeline n).next = next ∧ (l.value = l.next → l.done = [] → (t.timeline n).value = next)
        ∧ (∀ m, m ≠ n → t.timeline m = s.timeline m)
        ∧ t = { s.setHart (issued s 0 0) with timelines := t.timelines }))
    ∧ (timelineOk n → gc.toNat / 2 ^ 48 = n →
      let len := gc.toNat % 2 ^ 48
      (0 < len → Completes (.cpy d a b c) s (fun t => Copying s d n (.bytes ga.toNat gb.toNat len) t
          ∧ t.hart.moved = s.hart.moved))
      ∧ (len = 0 → Completes (.cpy d a b c) s (fun t =>
          (n ≠ 0xFFFF → (t.timeline n).next = l.next + 1
            ∧ (l.value = l.next → l.done = [] → (t.timeline n).value = l.next + 1))
          ∧ (∀ m, m ≠ n ∨ n = 0xFFFF → t.timeline m = s.timeline m)
          ∧ t = { s.setHart (issued s d (BitVec.ofNat 64 (ticketOn s n))) with timelines := t.timelines })))
    ∧ (∀ (dst ds src ss idx : Word) (count rb w : Nat) (status : List Byte) (loc : Nat), ga.toNat % 64 = 0 →
      Reaches s .load ga 8 loc → recordPlace loc → timelineOk n → 1 ≤ rb → rb ≤ 2 ^ 20 → count ≤ 2 ^ 24 → w ≤ 1 →
      idx.toNat % (if w = 0 then 4 else 8) = 0 → status.length = 8 →
      ReadsBytes s ga (descriptorBytes dst ds src ss idx count rb n w status) →
      Completes (.cpyx d a) s (Copying s d n (.listed ga.toNat dst ds src ss rb idx.toNat count (decide (w = 1)))))
    ∧ (∀ (v : BitVec 6) (dst ds src ss : Word) (rb : Nat) (status : List Byte) (loc : Nat), ga.toNat % 64 = 0 →
      Finds s .load ga 64 loc → recordPlace loc → sound s loc 64 → timelineOk n → 1 ≤ rb → rb ≤ 2 ^ 20 →
      1 ≤ ewNow s → ewNow s ≤ 4 → status.length = 8 →
      Memory.reads (s.view s.hart) loc 64 = descriptorBytes dst ds src ss 0 0 rb n 0 status →
      Alone s (.cpyg d a v) [v] →
      let k := BitVec.ofNat 64 (ticketOn s n)
      (liveList s = [] → Completes (.cpyg d a v) s (fun t =>
        (t.core (s.cur / 4)).copies = (s.core (s.cur / 4)).copies ∧ t.hart.gget d.toNat = (if d = 0 then 0 else k)
        ∧ (n ≠ 0xFFFF → (t.timeline n).next = l.next + 1
            ∧ (l.value = l.next → l.done = [] → (t.timeline n).value = l.next + 1))))
      ∧ (liveList s = [] → s.bars = [] → Memory.wf s.mem = true → ∀ at' dev,
        s.translate (s.cur / 4) (s.rootOfSerial (serialNow s)) false .engine .store (ga + 0x34) = .at at' dev →
        Completes (.cpyg d a v) s (fun t =>
          (∀ q < 8, Memory.read t.mem (at' + q) = 0)
          ∧ (∀ q, q < at' ∨ at' + 8 ≤ q → Memory.read t.mem q = Memory.read s.mem q)
          ∧ (∀ g ∈ t.poison, g ∈ s.poison)
          ∧ (∀ g ∈ s.poison, g ∈ t.poison ∨ (at' ≤ g ∧ g + granule g ≤ at' + 8))
          ∧ (∀ m, m ≠ n ∨ n = 0xFFFF → t.timeline m = s.timeline m)
          ∧ ((t.timeline n).err, (t.timeline n).ecode, (t.timeline n).ekind) = (l.err, l.ecode, l.ekind)
          ∧ ((t.timeline n).eticket, (t.timeline n).eaddr) = (l.eticket, l.eaddr)
          ∧ Stepped { s with mem := t.mem, poison := t.poison, timelines := t.timelines }
              { withG s.hart d k with drained := true } (unmoved s t)))
      ∧ (liveList s ≠ [] → Completes (.cpyg d a v) s (fun t =>
        (t.core (s.cur / 4)).copies = (s.core (s.cur / 4)).copies ++ [{
          hart := s.cur, place := s.hart.place, serial := serialNow s, tl := n, ticket := ticketOn s n
          kind := .rows ga.toNat dst ds src ss rb
            ((liveList s).map (fun i => (i, BitVec.ofNat 64 (el s (bitsNow s) v i)))) }]
        ∧ Timed s n (ticketed s n) t
        ∧ Stepped { s with cores := t.cores, timelines := t.timelines } { withG s.hart d k with drained := true }
            (unmoved s t))))
    ∧ (s.hart.trapvec ≠ 0 → ¬timelineOk n →
      (ga.toNat = n → Completes (.tlwait d a b) s (TrapsHere s 8 ga) ∧ Completes (.tlsig a b) s (TrapsHere s 8 ga))
      ∧ (gc.toNat / 2 ^ 48 = n → Completes (.cpy d a b c) s (TrapsHere s 8 gc)))

/-- R268 to R275, R408, R411: KZONE declares a zone with every slot FREE, or removes it, and ends the waits on it;
KRSV and KSEND issue an operation whose messages leave over its path: a request, or a header, the bytes in the layout
of R272, 120 in each flit, and a last message; of a message longer than any slot the header alone leaves. KWAIT
returns the counts of its zone once they reach gb and parks until then; KREL frees an ARRIVED or FAILED slot and
advances its generation; KSTAT reads the words of R275.
Where the specification is silent this rests on the model's choices in log entries 9, 27, 58, 59, 78 and 95. -/
def Obligations.ZonesAreDeclaredFilledAndReleased : Prop :=
  ∀ (s : State) (d a b : BitVec 5) (c : BitVec 6) (z : Nat), Calm s →
    let ga := s.hart.gget a.toNat
    let gb := s.hart.gget b.toNat
    let gc := s.hart.gget c.toNat
    let x := zoneNow s z
    let onZone := fun (h : Hart) => match h.wait with
      | some (.zone c' z' _ e) => if c' = s.cur / 4 ∧ z' = z then some e else none
      | _ => none
    let counts := fun (y : Zone) => BitVec.ofNat 64 (y.arrived.toNat + 2 ^ 32 * y.failed.toNat)
    let declared := fun (new : Option Zone) => Completes (.kzone a b c) s (fun t =>
      Zoned s z new t ∧ t.hart = issued s 0 0
      ∧ (∀ y, x = some y → Released s onZone (counts y) t)
      ∧ (x = none → (∀ k, k ≠ s.cur → t.hartAt k = s.hartAt k) ∧ t.launches = s.launches)
      ∧ t = { s with harts := t.harts, launches := t.launches, cores := t.cores })
    (ga.toNat = z → z < 8 →
      (∀ y, x = some y → ∀ e ∈ y.slots, e.state = .free ∨ e.state = .failed) →
      (gc = 0 → declared none)
      ∧ (∀ size n base, gc.toNat = size + 2 ^ 32 * n → size % 64 = 0 → 64 ≤ size → size ≤ 2 ^ 20 → 1 ≤ n → n ≤ 256 →
          gb.toNat = 0xC00000000000 + base → base % 64 = 0 → base + size * n ≤ 2 ^ 21 →
          (∀ i < 8, i ≠ z → ∀ y, zoneNow s i = some y →
            y.base + y.slotSize * y.slots.length ≤ base ∨ base + size * n ≤ y.base) →
          declared (some (freshZone base size n))))
    ∧ (ga.toNat = z → z < 8 → ∀ y, x = some y → gb.toNat < 2 ^ 32 →
      (gb.toNat ≤ (y.arrived + y.failed).toNat →
        Completes (.kwait d a b) s (Began s (withG (passed s) d (counts y)) none))
      ∧ ((y.arrived + y.failed).toNat < gb.toNat →
        Completes (.kwait d a b) s (Parked s s.hart (.zone (s.cur / 4) z gb.toNat d))))
    ∧ (ga.toNat = z → z < 8 → gb.toNat < 256 → ∀ y e, x = some y → y.slots[gb.toNat]? = some e →
      (e.state = .arrived ∨ e.state = .failed → Completes (.krel a b) s (fun t =>
        Zoned s z (some { y with slots := y.slots.set gb.toNat { e with state := .free, gen := e.gen + 1, owner := none } }) t
        ∧ Traced t { s.setHart (issued s 0 0) with cores := t.cores }))
      ∧ (e.state ≠ .arrived → e.state ≠ .failed → Completes (.krel a b) s (· = s.setHart (issued s 0 0)))
      ∧ Completes (.kstat d a b) s (Result s d (BitVec.ofNat 64 ((match e.state with
          | .free => 0
          | .reserved => 1
          | .filling => 2
          | .arrived => 3
          | .failed => 4) + 2 ^ 8 * (e.len % 2 ^ 24) + 2 ^ 32 * e.gen.toNat))))
    ∧ (ga.toNat = z → z < 8 → gb = 0x100 → Completes (.kstat d a b) s (Result s d (match x with
        | none => 0
        | some y => BitVec.ofNat 64 (1 + 2 ^ 8 * (y.slots.length - 1) + 2 ^ 16 * (y.slotSize / 64)))))
    ∧ (∀ (w : Target) (port loc : Nat), w.isWord ga → s.pathTo w.dev = some port →
      Reaches s .store gb 8 loc → recordPlace loc →
      let o := kiteOf s w port (some gb.toNat)
      Completes (.krsv d a b) s (Sending s d o [.reserve (senderOf s o) w.core w.zone]))
    ∧ (∀ (w : Target) (port slot gen n : Nat) (k : BitVec 2) (src : Nat → Nat → Byte), w.isWord ga →
      slot < 2 ^ 16 → gen < 2 ^ 16 → n < 2 ^ 32 → gc.toNat = n + 2 ^ 32 * slot + 2 ^ 48 * gen →
      s.pathOfSlot w.dev w.core w.zone slot gen = some port →
      let block := blockNow s
      let bytes := sentBytes k.toNat n block w.ladder src
      let size := sentLength k.toNat n block w.ladder
      let o := kiteOf s w port none
      let me := senderOf s o
      let head := KMsg.head me w.core w.zone slot gen size
      (2 ^ 20 < size → Completes (.ksend d a b c k) s (Sending s d o [head]))
      ∧ (size ≤ 2 ^ 20 →
        (∀ p < 4, ∀ q < readSize k.toNat n block w.ladder p, ∃ loc dev,
          s.translate (s.cur / 4) (s.rootOf s.hart) false .kite .load
            (gb + BitVec.ofNat 64 p * s.hart.vpstr + BitVec.ofNat 64 q) = .at loc dev
          ∧ s.damagedAt loc = false ∧ Memory.read s.mem loc = src p q) → s.transit = [] →
        Completes (.ksend d a b c k) s
          (Sending s d o (head :: pieces me w.core w.zone slot bytes ++ [.last me w.core w.zone slot]))))

/-- R276 to R282: LAUNCH offers its record to the pool, and gd says whether it was accepted, with its serial, or the
pool was full; WAITSLOT reserves an entry or parks. POST fills an entry of the gang's ring or parks, WAIT takes the
entry of its number or parks. GBARW counts the hart in and parks, or as the last of the gang ends the episode and
every wait on it. BARINIT writes a record and ends the waits on it; BARWAIT counts itself in and parks, or as the last
ends the episode; an invalid or broken record ends it at once.
Where the specification is silent this rests on the model's choices in log entries 28, 55 and 57. -/
def Obligations.LaunchesRingsAndBarriersMeet : Prop :=
  ∀ (s : State) (d a b : BitVec 5), Calm s →
    let ga := s.hart.gget a.toNat
    let gb := s.hart.gget b.toNat
    let free := poolHeld s < Config.poolSize
    (∀ (r : LRecord), ga.toNat % 64 = 0 → ReadsBytes s ga (launchBytes r) → Launchable r →
      (s.hart.slotRes = true ∨ free → Completes (.launch d a) s (fun t =>
        (∃ l, t.launches = s.launches ++ [l] ∧ l.serial = s.nextSerial ∧ l.state = .pending ∧ l.inPool = true
          ∧ l.kill = none ∧ l.gangs = [] ∧ l.nextGang = 0
          ∧ l.entry = BitVec.ofNat 64 r.entry ∧ l.param = BitVec.ofNat 64 r.param ∧ l.compl = BitVec.ofNat 64 r.compl
          ∧ (l.w0tl, l.w0val, l.w1tl, l.w1val) = (r.w0tl, BitVec.ofNat 64 r.w0val, r.w1tl, BitVec.ofNat 64 r.w1val)
          ∧ l.ctl = r.ctl ∧ l.ticket = ticketOn s r.ctl ∧ l.gsize = r.gsize ∧ l.gcount = r.gcount
          ∧ l.prio = min r.prio (((s.launchOfHart s.hart).map (·.prio)).getD 0)
          ∧ (l.mirror, l.rewind, l.charged) = (r.flags.testBit 0, r.flags.testBit 1, r.flags.testBit 2)
          ∧ l.tag = BitVec.ofNat 64 r.tag ∧ l.root = s.rootOf s.hart ∧ l.tvec = s.hart.trapvec)
        ∧ t.nextSerial = (if s.nextSerial + 1 = 0 then 1 else s.nextSerial + 1) ∧ Timed s r.ctl (ticketed s r.ctl) t
        ∧ t = { s.setHart { issued s d (BitVec.ofNat 64 (s.nextSerial.toNat * 2 ^ 32)) with
            slotRes := false, moved := t.hart.moved } with
            launches := t.launches, nextSerial := t.nextSerial, timelines := t.timelines }))
      ∧ (s.hart.slotRes = false → ¬free → Completes (.launch d a) s (fun t =>
        t = s.setHart { issued s d 1 with moved := t.hart.moved })))
    ∧ (s.hart.slotRes = true → Completes .waitslot s (Went s (s.hart.pc + 4)))
    ∧ (s.hart.slotRes = false → free →
      Completes .waitslot s (· = s.setHart { issued s 0 0 with slotRes := true }))
    ∧ (s.hart.slotRes = false → ¬free → Completes .waitslot s (Parked s s.hart .slot))
    ∧ (∀ (p : Place) (g : Gang), s.hart.place = some p → s.gangOf s.hart = some g →
      ((∀ e ∈ g.ring, e.1 ≠ ga) → g.ring.length < 16 → Completes (.post a b) s
        (Began { s with launches := withGang s p (fun g => { g with ring := g.ring ++ [(ga, gb)] }) }
          (issued s 0 0) none))
      ∧ ((∃ e ∈ g.ring, e.1 = ga) ∨ 16 ≤ g.ring.length → Completes (.post a b) s
        (Parked s (marked s) (.post ga gb)))
      ∧ (∀ v, g.ring.find? (fun e => decide (e.1 = ga)) = some (ga, v) →
          (∀ x ∈ s.contexts, ∀ e, x.wait ≠ some (.ring ga e)) → Completes (.wait d a) s
        (Began { s with launches := withGang s p (fun g => { g with ring := g.ring.filter (fun e => decide (e.1 ≠ ga)) }) }
          (issued s d v) none))
      ∧ ((∀ e ∈ g.ring, e.1 ≠ ga) → Completes (.wait d a) s (Parked s s.hart (.ring ga d)))
      ∧ (g.arrived.toNat + 1 < g.ranks.length → Completes (.gbarw d) s
        (Parked { s with launches := withGang s p (fun g => { g with arrived := g.arrived + 1 }) } (marked s) (.gbar d)))
      ∧ (g.ranks.length ≤ g.arrived.toNat + 1 → Completes (.gbarw d) s (fun t =>
          let v := (g.phase + 1).setWidth 64
          t.hart = issued s d v
          ∧ Released { s with launches := withGang s p (fun x => { x with phase := g.phase + 1, arrived := 0 }) }
              (fun h => match h.place, h.wait with
                | some q, some (.gbar e) => if q.serial = p.serial ∧ q.gang = p.gang then some e else none
                | _, _ => none) v t
          ∧ t = { s with harts := t.harts, launches := t.launches })))
    ∧ (∀ loc, ga.toNat % 16 = 0 → (∃ dev, s.xlate .scalar .store ga = .at loc dev) → recordPlace loc →
      Memory.wf s.mem = true →
      let onBar := fun (h : Hart) => match h.wait with
        | some (.bar l e) => if l = loc then some e else none
        | _ => none
      let rest := fun (t : State) (lo hi : Nat) => ∀ k, k < loc + lo ∨ loc + hi ≤ k → Memory.read t.mem k = Memory.read s.mem k
      let marks := fun (t : State) => (∀ g ∈ t.poison, g ∈ s.poison)
        ∧ (∀ g ∈ s.poison, g ∈ t.poison ∨ (loc ≤ g ∧ g + granule g ≤ loc + 16))
      let frame := fun (t : State) (h : Hart) => t.hart = { h with moved := t.hart.moved } ∧ marks t
        ∧ t = { s with
            harts := t.harts, launches := t.launches, mem := t.mem, poison := t.poison
            bars := s.bars.filter (fun x => decide (x ≠ loc)) }
      (gb.toNat < 2 ^ 16 → Completes (.barinit a b) s (fun t =>
          (∀ k < 4, Memory.read t.mem (loc + k) = byteOf gb.toNat k)
          ∧ (∀ k < 4, Memory.read t.mem (loc + 4 + k) = if gb = 0 then Memory.read s.mem (loc + 4 + k) else 0)
          ∧ (∀ k < 4, Memory.read t.mem (loc + 12 + k) = byteOf (if gb = 0 then 0 else 0xBA7E) k)
          ∧ (∀ k, 8 ≤ k → k < 12 → Memory.read t.mem (loc + k) = Memory.read s.mem (loc + k)) ∧ rest t 0 16
          ∧ Released s onBar (if gb = 0 then 3 else 1) t ∧ frame t (issued s 0 0)))
      ∧ (∀ count arrived phase tag, Barrier s loc count arrived phase tag →
        (tag ≠ 0xBA7E ∨ count = 0 → Completes (.barwait d a) s (fun t => t = s.setHart { issued s d 3 with moved := t.hart.moved }))
        ∧ (tag = 0xBA7E → 0 < count → count ≤ arrived → Completes (.barwait d a) s (fun t => t = s.setHart { issued s d 2 with moved := t.hart.moved }))
        ∧ (tag = 0xBA7E → arrived + 1 = count → Completes (.barwait d a) s (fun t =>
            let v := BitVec.ofNat 64 ((phase + 1) % 2 ^ 32 * 2 ^ 32)
            (∀ k < 4, Memory.read t.mem (loc + 4 + k) = 0)
            ∧ (∀ k < 4, Memory.read t.mem (loc + 8 + k) = byteOf (phase + 1) k) ∧ rest t 4 12
            ∧ Released s onBar v t ∧ frame t (issued s d v)))
        ∧ (tag = 0xBA7E → arrived + 1 < count → Completes (.barwait d a) s (fun t =>
            (∀ k < 4, Memory.read t.mem (loc + 4 + k) = byteOf (arrived + 1) k) ∧ rest t 4 8
            ∧ t.bars = (if loc ∈ s.bars then s.bars else loc :: s.bars) ∧ marks t
            ∧ ∃ moved, Parked { s with mem := t.mem, bars := t.bars, poison := t.poison }
                { marked s with moved := moved } (.bar loc d) t))))

/-! ### Class 15: tokens and text -/

namespace Sys2Proof.Stated

/-- Loads of 1, 2, 4 and 8 bytes, aligned and within a range of addresses, find these bytes, undamaged: a vector
instruction's behind the held entries of older ones, a scalar one's behind them all (R153). -/
def Sees (s : State) (who : Who) (m : Nat → Byte) (lo hi : Nat) : Prop :=
  ∀ va n, n ∈ [1, 2, 4, 8] → lo ≤ va → va + n ≤ hi → va % n = 0 → ∃ loc dev,
    let h := if who = .vector then older s else s.hart
    s.xlate who .load (BitVec.ofNat 64 va) = .at loc dev
    ∧ ∀ k < n, s.readsDamaged h none (loc + k) = false ∧ Memory.read (s.view h) (loc + k) = m (va + k)

/-- n bytes at an address as a number (R5). -/
def numAt (m : Nat → Byte) (va n : Nat) : Nat := leNat ((List.range n).map (fun k => m (va + k)))

/-- Stores of an instruction of class 15: address, location and bytes. -/
abbrev PutList := List (Word × Nat × List Byte)

/-- The held entries of such stores (R285, R152). -/
def heldPuts (s : State) (ps : PutList) : List Held :=
  ps.zipIdx.map (fun x =>
    let n := x.1.2.2.length
    { seq := s.hart.nextSeq + x.2, elem := 0, vector := false, kind := .store
      size := if n = 1 then 1 else if n = 2 then 2 else if n = 4 then 3 else 4, high := false
      scope := BitVec.ofNat 2 (s.hart.vcfg.toNat / 2 ^ 19), ew := 0, fmt := 0
      va := recorded s x.1.1, locs := [(x.1.2.1, n)], bytes := x.1.2.2, addends := [] })

/-- t is u with hart h, which has entered these stores (R285); memory keeps every byte. -/
structure Put' (u : State) (h : Hart) (ps : PutList) (t : State) : Prop where
  held : t.hart.held = u.hart.held ++ heldPuts u ps
  memory : ∀ a, Memory.read t.mem a = Memory.read u.mem a
  frame : t = u.setHart { h with held := t.hart.held, nextSeq := u.hart.nextSeq + ps.length }

/-- Program mode, no instruction pending, and room for n entries. -/
structure Storing (s : State) (n : Nat) : Prop where
  calm : Quiet s
  program : s.hart.sup = false
  room : Room s n

/-- The 64-bit mixer of R286. -/
def mixed (k x : Nat) : Nat :=
  let w := 2 ^ 64
  let a := (x ^^^ k) * 0xA3C59AC28E1B7D53 % w
  let b := ((a ^^^ a / 2 ^ 32) + (k * 2 ^ 23 % w + k / 2 ^ 41)) % w
  let c := b * 0x8F2B54D1C3A6E96B % w
  let d := (c ^^^ c / 2 ^ 29) * 0xE7F35A19B64D0C2B % w
  d ^^^ d / 2 ^ 32

/-- An FP32 result as a value. -/
def fp32Of (r : Val × Nat) : Val := decodeF fp32 (roundPair fp32 .rne r).1

/-- The weight of logit x beside the greatest m, under an inverse temperature (R289), from the table of R288. -/
def weightOf (m invt x : Val) : Nat :=
  let zero := Val.fin false 0 0
  let z := if eqVal x m then zero else fp32Of (addVal .rne x (negVal m))
  let y := if eqVal z zero ∨ eqVal invt zero then zero else fp32Of (mulVal z invt)
  let y := if ltVal y (.fin true 64 0) then .fin true 64 0 else y
  match y with
  | .fin _ a e =>
    let n := (toIntVal .rne false a (e + 16)).1.toNat
    sampleWeight (n / 2 ^ 12) - (sampleWeight (n / 2 ^ 12) - sampleWeight (n / 2 ^ 12 + 1)) * (n / 2 ^ 6 % 64) / 64
  | _ => 0

/-- A penalised logit with its flags (R291): three steps, each rounded once. -/
def penalised (f : Fmt) (x : Nat) (repeats : Bool) (n : Nat) (rep freq pres : Val) : Nat × Nat :=
  let start := if decodeF f x = .nan then nanOf f else x
  let v := fun (c : Nat) => decodeF f c
  let one := if repeats then
      roundPair f .rne (if ltVal (.fin false 0 0) (v start) then divVal (v start) rep else mulVal (v start) rep)
    else (start, 0)
  if n = 0 then one
  else
    let amount := mulVal (.fin false n 0) freq
    let sum := addVal .rne (v one.1) (negVal amount.1)
    let two := roundPair f .rne (sum.1, sum.2 ||| amount.2)
    let three := roundPair f .rne (addVal .rne (v two.1) (negVal pres))
    (three.1, one.2 ||| two.2 ||| three.2)

/-- A vector register after its elements of 32 bits were given, where the instruction acts. -/
structure Laid (s : State) (d : BitVec 6) (f : Nat → Nat) (t : State) : Prop where
  written : ∀ k < vlNow s, live s k = true → elementAt (t.hart.vget d.toNat) 32 k = f k
  masked : ∀ k < vlNow s, live s k = false →
    elementAt (t.hart.vget d.toNat) 32 k = if s.hart.vcfg.getLsbD 23 then 0 else el s 32 d k
  tail : ∀ i, vlNow s * 32 ≤ i → (t.hart.vget d.toNat).getLsbD i = (s.hart.vget d.toNat).getLsbD i

/-- What a vocabulary table of nb buckets at an address gives for a key (R302): id and score. -/
def lookedUp (m : Nat → Byte) (base nb probes key : Nat) : Nat × Nat :=
  let entry := fun q => base + 128 * ((key % 2 ^ 16 % nb + q / 8) % nb) + 16 * (q % 8)
  let id := fun q => numAt m (entry q + 8) 4
  match (List.range (8 * probes)).find? (fun q => decide (id q = 0xFFFFFFFF ∨ numAt m (entry q) 8 = key)) with
  | none => (0xFFFFFFFF, 0xFF800000)
  | some q => if id q = 0xFFFFFFFF then (0xFFFFFFFF, 0xFF800000) else (id q, numAt m (entry q + 12) 4)

/-- A byte pushdown automaton (R293), with what its image says of each state (R395 to R397). A move is input byte, top
symbol matched, action, argument and next state. -/
structure Grammar where
  nstates : Nat
  vocab : Nat
  endTok : Nat
  maxRise : Nat
  accept : Nat → Bool
  moves : Nat → List (Nat × Nat × Nat × Nat × Nat)
  deps : Nat → List Nat
  row : Nat → Nat → Bool
  text : Nat → List Nat

/-- A state with its stack, top first. -/
abbrev Config' := Nat × List Nat

/-- One byte consumed: the first move that matches, or none (R293, R397). -/
def Grammar.consume (g : Grammar) (c : Config') (b : Nat) : Option Config' :=
  match (g.moves c.1).find? (fun x => decide (x.1 = b ∧ (x.2.1 = 0xFFFF ∨ (c.2 = [] ∧ x.2.1 = 0xFFFE)
      ∨ (x.2.1 < 0xFFFE ∧ c.2.head? = some x.2.1)))) with
  | none => none
  | some (_, _, act, arg, next) =>
    if act = 0 then some (next, c.2)
    else if act = 1 then (if c.2.length < 256 then some (next, arg :: c.2) else none)
    else match c.2 with
      | [] => none
      | _ :: rest => some (next, if act = 2 then rest else arg :: rest)

/-- A string of bytes consumed. -/
def Grammar.run (g : Grammar) (c : Config') (bs : List Nat) : Option Config' :=
  bs.foldl (fun c b => c.bind (fun c => g.consume c b)) (some c)

/-- An accepting configuration. -/
def Grammar.accepts (g : Grammar) (c : Config') : Bool := g.accept c.1 && c.2.isEmpty

/-- The configuration after a token that is not END; none where the token is illegal. -/
def Grammar.after (g : Grammar) (c : Config') (t : Nat) : Option Config' :=
  if g.vocab ≤ t ∨ g.text t = [] then none else g.run c (g.text t)

/-- The mask value of R295. -/
def Grammar.mask (g : Grammar) (c : Config') (t : Nat) : Bool :=
  if g.vocab ≤ t then false
  else if t = g.endTok then g.accepts c
  else if t ∈ g.deps c.1 then (g.after c t).isSome
  else g.row c.1 t && (decide (c.2.length + g.maxRise ≤ 256) || (g.after c t).isSome)

/-- The status of R298. -/
def Grammar.status (g : Grammar) (c : Config') : Nat :=
  if g.accepts c then 1 else if (List.range g.vocab).any (g.mask c) then 0 else 2

/-- The layout of GADV's and GSTAT's result (R297). -/
def statusWord (st : Nat) (c : Config') : Word := BitVec.ofNat 64 (st + 2 ^ 8 * c.2.length + 2 ^ 32 * c.1)

/-- A detokenisation table gives the n first tokens these bytes (R400). -/
structure Spells (sees : Nat → Nat → Prop) (m : Nat → Byte) (table n : Nat) (text : Nat → List Nat) : Prop where
  aligned : table % 64 = 0 ∧ table < 2 ^ 64
  head : sees table (table + 16)
  size : ∃ k, n ≤ k ∧ 1 ≤ k ∧ k ≤ 2 ^ 24 ∧ numAt m table 8 = k ∧ numAt m (table + 8) 8 = 0
  entry : ∀ t < n, ∃ off < 2 ^ 32, (text t).length ≤ 1024 ∧ sees (table + 16 + 8 * t) (table + 24 + 8 * t)
    ∧ numAt m (table + 16 + 8 * t) 8 = off + 2 ^ 32 * (text t).length
    ∧ sees (table + off) (table + off + (text t).length)
    ∧ ∀ i b, (text t)[i]? = some b → (m (table + off + i)).toNat = b

/-- An image in memory describes an automaton (R395 to R398). -/
structure Depicts (sees : Nat → Nat → Prop) (m : Nat → Byte) (image : Nat) (g : Grammar) : Prop where
  aligned : image % 64 = 0 ∧ image < 2 ^ 64
  sizes : 1 ≤ g.nstates ∧ g.nstates ≤ 65536 ∧ 1 ≤ g.vocab ∧ g.vocab ≤ 2 ^ 24 ∧ g.endTok < g.vocab ∧ g.maxRise ≤ 256
  head : sees image (image + 64) ∧ numAt m image 8 = 0x147524D31 + 2 ^ 48 * g.maxRise
    ∧ numAt m (image + 8) 8 = g.nstates + 2 ^ 32 * g.vocab ∧ numAt m (image + 56) 8 = 0
    ∧ numAt m (image + 16) 8 = g.endTok + 2 ^ 32 * (((g.vocab + 7) / 8 + 63) / 64 * 64)
  parts : ∃ states rows trans table, states % 64 = 0 ∧ rows % 64 = 0 ∧ trans % 8 = 0
    ∧ numAt m (image + 24) 8 = states ∧ numAt m (image + 32) 8 = rows ∧ numAt m (image + 40) 8 = trans
    ∧ numAt m (image + 48) 8 = table ∧ Spells sees m table g.vocab g.text
    ∧ ∀ q < g.nstates, ∃ depoff troff,
      let e := image + states + 32 * q
      let deps := image + depoff
      let moves := image + trans + troff
      let row := image + rows + ((g.vocab + 7) / 8 + 63) / 64 * 64 * q
      sees e (e + 32) ∧ numAt m e 8 = (if g.accept q then 1 else 0) + 2 ^ 32 * (g.deps q).length
      ∧ (g.deps q).length ≤ g.vocab ∧ numAt m (e + 8) 8 = depoff ∧ depoff % 4 = 0
      ∧ numAt m (e + 16) 8 = troff ∧ troff % 8 = 0
      ∧ numAt m (e + 24) 8 = (g.moves q).length ∧ (g.moves q).length ≤ 2 ^ 20
      ∧ sees deps (deps + 4 * (g.deps q).length) ∧ (g.deps q).Pairwise (· < ·)
      ∧ (∀ i t, (g.deps q)[i]? = some t → numAt m (deps + 4 * i) 4 = t ∧ t < g.vocab ∧ t ≠ g.endTok)
      ∧ sees moves (moves + 8 * (g.moves q).length)
      ∧ (∀ i b sym act arg next, (g.moves q)[i]? = some (b, sym, act, arg, next) →
          numAt m (moves + 8 * i) 8 = b + 2 ^ 8 * sym + 2 ^ 24 * act + 2 ^ 32 * arg + 2 ^ 48 * next
          ∧ b < 2 ^ 8 ∧ sym < 2 ^ 16 ∧ act < 4 ∧ arg ≤ 0xFFFD ∧ (act % 2 = 0 → arg = 0) ∧ next < g.nstates)
      ∧ (∀ t < g.vocab, sees (row + t / 8) (row + t / 8 + 1)
          ∧ g.row q t = decide ((m (row + t / 8)).toNat / 2 ^ (t % 8) % 2 = 1))

/-- A grammar-state record at an address holds a configuration of the automaton of its image (R294). -/
structure InState (sees : Nat → Nat → Prop) (m : Nat → Byte) (gs : Nat) (g : Grammar) (c : Config') : Prop where
  aligned : gs % 64 = 0 ∧ gs < 2 ^ 64
  seen : sees gs (gs + 576)
  image : Depicts sees m (numAt m gs 8) g
  state : c.1 < g.nstates ∧ c.2.length ≤ 256 ∧ (∀ y ∈ c.2, y ≤ 0xFFFD)
  head : ∃ st < 2 ^ 8, numAt m (gs + 8) 8 = c.1 + 2 ^ 32 * c.2.length + 2 ^ 48 * st
  rest : ∀ k, 2 ≤ k → k < 8 → numAt m (gs + 8 * k) 8 = 0
  stack : ∀ d y, c.2.reverse[d]? = some y → numAt m (gs + 0x40 + 2 * d) 2 = y

/-- The dwords of a stack with a symbol that is new or other than before, rising (R285, R297). -/
def changedWords (old new : List Nat) : List Nat :=
  (List.range 64).filter (fun w => (List.range 4).any (fun i =>
    decide (4 * w + i < new.length ∧ old[4 * w + i]? ≠ new[4 * w + i]?)))

/-- The state of a stop automaton after bytes, and the match where one is completed: length and offset (R300). -/
def stopRun (next : Nat → Nat → Nat) (mat : Nat → Nat) : Nat → Nat → List Nat → Nat × Option (Nat × Nat)
  | q, _, [] => (q, none)
  | q, b, y :: ys => if 0 < mat (next q y) then (next q y, some (mat (next q y), b)) else stopRun next mat (next q y) (b + 1) ys

/-- Entries of the prefix table differ in index, hash and page (R303). -/
def Distinct (ps : List PfxEntry) : Prop :=
  ps.Pairwise (fun x y => x.index ≠ y.index ∧ x.hash ≠ y.hash ∧ x.page ≠ y.page)

/-- The pages that a list of hashes finds before its first miss (R305). -/
def matchedPages (ps : List PfxEntry) : List Word → List (BitVec 32)
  | [] => []
  | h :: hs => match ps.find? (fun e => decide (e.hash = h)) with
    | none => []
    | some e => e.page :: matchedPages ps hs

/-- Pins of an entry after a list of pages is counted up or down on it. -/
def pinned (up : Bool) (pages : List Nat) (e : PfxEntry) : Int :=
  let n : Int := pages.countP (fun p => decide (p = e.page.toNat))
  if up then e.pins + n else e.pins - n

/-- Stores of words at consecutive addresses, one for each aligned dword that they meet (R285). -/
def byDword (at' : Nat → Word) (loc : Nat → Nat) (ws : List (List Byte)) : PutList :=
  (List.range ws.length).flatMap (fun j =>
    if (at' j).toNat % 8 = 0 then [(at' j, loc j, (ws[j]?).getD [] ++ (ws[j + 1]?).getD [])]
    else if j = 0 then [(at' 0, loc 0, (ws[0]?).getD [])]
    else [])

/-- The bytes of a pool record (R309, R310). -/
def poolBytes (ts : List (BitVec 32)) : List Byte :=
  leBytes 8 ts.length ++ ts.flatMap (fun t => leBytes 4 t.toNat) ++ List.replicate (4 * (16 - ts.length)) 0

end Sys2Proof.Stated

/-- R287 to R291, R301, R302: VSAMPLE draws its element by the exact integer weights of R289 and gives status, index and
token; VPEN applies its three penalties to each logit, each step rounded once; VHLOOK probes its table for each key.
Memory that each instruction reads is found undamaged by hypothesis. A VPEN whose ids register is its logits register
reads it before it writes it, and does not trap: that is the model's choice in log entry 47. -/
def Obligations.TokensAreDrawnPenalisedAndLookedUp : Prop :=
  (sampleWeight 0 = 2 ^ 31 ∧ sampleWeight 354 = 1 ∧ ∀ j, 355 ≤ j → j ≤ 1025 → sampleWeight j = 0)
  ∧ ∀ (s : State) (g d a b e : BitVec 6) (r : BitVec 5) (m : Nat → Byte),
    let gs := (s.hart.gget r.toNat).toNat
    let f := fun o n => numAt m (gs + o) n
    gs % 64 = 0 → Sees s .vector m gs (gs + 64) →
    (g.toNat < 32 → ewNow s = 3 → fmtNow s = 0 → Alone s (.vsample g a b r) [a, b] →
      let x := fun k => decodeF fp32 (el s 32 a k)
      let invt := decodeF fp32 (f 0x18 4)
      let bad := invt = .nan ∨ ltVal invt (.fin false 0 0) = true ∨ 1 < f 0x24 4 ∨ f 0x28 8 ≠ 0 ∨ f 0x30 8 ≠ 0 ∨ f 0x38 8 ≠ 0
      let is := (List.range (vlNow s)).filter (fun k => live s k && decide (x k ≠ .nan) && decide (x k ≠ .inf true))
      let gives := fun (v : Nat) => Completes (.vsample g a b r) s (fun t =>
        Counted s g.toNat (BitVec.ofNat 64 v) (unmoved s t))
      (bad → gives (2 * 2 ^ 48 + 0x1FFF * 2 ^ 32 + 0xFFFFFFFF))
      ∧ (¬bad → is = [] → gives (2 ^ 48 + 0x1FFF * 2 ^ 32 + 0xFFFFFFFF))
      ∧ (∀ (top : Val) (kk c t u total : Nat), ¬bad → (∃ i ∈ is, top = x i) → (∀ i ∈ is, ltVal top (x i) = false) →
        let sum := fun n => ((is.take n).map (fun i => weightOf top invt (x i))).sum
        let enough := fun n => total * f 0x1C 4 ≤ 2 ^ 32 * sum n
        total = sum is.length → u = (if f 0x24 4 = 1 then f 0x20 4 else mixed (mixed (f 0 8) (f 8 8)) (f 0x10 8) / 2 ^ 32) →
        (f 0x1C 4 = 0 → kk = is.length) →
        (f 0x1C 4 ≠ 0 → 1 ≤ kk ∧ kk ≤ is.length ∧ enough kk ∧ ∀ n, 1 ≤ n → n < kk → ¬enough n) →
        t = sum kk * u / 2 ^ 32 → 1 ≤ c → c ≤ kk → t < sum c → (∀ n, 1 ≤ n → n < c → sum n ≤ t) →
        ∀ i, is[c - 1]? = some i → gives (i * 2 ^ 32 + el s 32 b i)))
    ∧ (takesFloats s → ewNow s = 2 ∨ ewNow s = 3 → vlNow s * 32 ≤ roomNow s → Alone s (.vpen d a r) [d, a] →
      let bitmap := f 0 8
      let counts := f 8 8
      let path := f 0x10 8
      let n := f 0x18 4
      let vocab := f 0x1C 4
      let w := bitsNow s
      let tok := fun k => el s 32 a k
      let fp := fun o => decodeF fp32 (f o 4)
      let np := fun k => ((List.range n).filter (fun j => decide (numAt m (path + 4 * j) 4 = tok k))).length
      n ≤ 16 → 1 ≤ vocab → vocab ≤ 2 ^ 31 → (n = 0 → path = 0) → f 0x2C 4 = 0 → f 0x30 8 = 0 → f 0x38 8 = 0 →
      path % 4 = 0 → counts % 2 = 0 → Sees s .vector m path (path + 4 * n) →
      (∀ k, live s k = true → tok k < vocab → Sees s .vector m (bitmap + tok k / 8) (bitmap + tok k / 8 + 1)
        ∧ Sees s .vector m (counts + 2 * tok k) (counts + 2 * tok k + 2)) →
      let new := fun k => if tok k < vocab then
          penalised (formatNow s) (el s w d k)
            (decide ((m (bitmap + tok k / 8)).toNat / 2 ^ (tok k % 8) % 2 = 1 ∨ 0 < np k))
            (numAt m (counts + 2 * tok k) 2 + np k) (fp 0x20) (fp 0x24) (fp 0x28)
        else (el s w d k, 0)
      Completes (.vpen d a r) s (fun t => Computed s d w (fun k => (new k).1) (fun k => (new k).2) (unmoved s t)))
    ∧ (vlNow s * 64 ≤ roomNow s → [d, a, e].Nodup → Alone s (.vhlook d a e r) [d, a, e] →
      let base := f 0 8
      let nb := f 8 4
      let probes := f 12 4
      let out := fun k => lookedUp m base nb probes (el s 64 a k)
      base % 128 = 0 → (0xC00000000000 ≤ base ∧ base < 0xC00000200000 ∨ 0xC10000000000 ≤ base ∧ base < 0xC10010000000) →
      (∃ j ≤ 16, nb = 2 ^ j) → 1 ≤ probes → probes ≤ nb →
      (∀ k, 2 ≤ k → k < 8 → f (8 * k) 8 = 0) → Sees s .vector m base (base + 128 * nb) →
      Completes (.vhlook d a e r) s (fun t =>
        Laid s d (fun k => (out k).1) t ∧ Laid s e (fun k => (out k).2) t
        ∧ (∀ x, x ≠ d.toNat → x ≠ e.toNat → t.hart.vget x = s.hart.vget x)
        ∧ Stepped s { s.hart with v := t.hart.v } (unmoved s t)))

/-- R293 to R300, R395 to R400: GMASK gives the mask of R295 for a configuration read from memory, GSTAT its status;
GADV applies a token's bytes and stores the new state, depth, status and the stack words that changed, or returns
ACCEPTING or REJECTED and stores nothing; STOPM runs its automaton up to the first match and stores the new state and
flag.
Where the specification is silent this rests on the model's choices in log entries 40, 53, 82 and 90. -/
def Obligations.GrammarsMaskAdvanceAndStop : Prop :=
  ∀ (s : State) (p b d a : BitVec 6) (r : BitVec 5) (m : Nat → Byte), d.toNat < 32 →
    let gs := (s.hart.gget r.toNat).toNat
    let ga := (s.hart.gget a.toNat).toNat
    let at' := fun (o : Nat) => s.hart.gget r.toNat + BitVec.ofNat 64 o
    (∀ g c, InState (Sees s .vector m) m gs g c → p.toNat < 32 → Alone s (.gmask p b r) [] →
      Completes (.gmask p b r) s (fun t =>
        (∀ k < 4096, (t.hart.pget p.toNat).getLsbD k = (decide (k < vlNow s) && live s k
          && g.mask c ((s.hart.gget b.toNat).toNat + k)))
        ∧ (∀ x, x ≠ p.toNat → t.hart.pget x = s.hart.pget x) ∧ Stepped s { s.hart with p := t.hart.p } (unmoved s t)))
    ∧ (∀ g c, InState (Sees s .scalar m) m gs g c → Quiet s →
      let gives := fun (i : Instr) (v : Word) => Completes i s (fun t =>
        Wrote s d.toNat v (s.hart.pc + 4) s.hart.fpflags (unmoved s t))
      gives (.gstat d r) (statusWord (g.status c) c)
      ∧ (ga = g.endTok → gives (.gadv d a r) (statusWord (if g.accepts c then 1 else 3) c))
      ∧ (ga ≠ g.endTok → g.after c ga = none → gives (.gadv d a r) (statusWord 3 c))
      ∧ (∀ (c' : Config') (loc : Nat → Nat), ga ≠ g.endTok → g.after c ga = some c' →
        let st := g.status c'
        let old := c.2.reverse
        let new := c'.2.reverse
        let words := changedWords old new
        let puts : PutList := (at' 8, loc 1, leBytes 4 c'.1 ++ leBytes 2 new.length ++ leBytes 2 st) :: words.map (fun w =>
          (at' (0x40 + 8 * w), loc (8 + w), (List.range 4).flatMap (fun i =>
            leBytes 2 ((new[4 * w + i]?).getD (numAt m (gs + 0x40 + 8 * w + 2 * i) 2)))))
        (∀ w < 72, Reaches s .store (at' (8 * w)) 8 (loc w)) → Storing s puts.length →
        Completes (.gadv d a r) s (fun t => t.hart.gget d.toNat = (if d = 0 then 0 else statusWord st c')
          ∧ (∀ x, x ≠ d.toNat → t.hart.gget x = s.hart.gget x)
          ∧ Put' s (retired s.hart t.hart.g (s.hart.pc + 4) s.hart.fpflags) puts (unmoved s t))))
    ∧ (∀ (auto table n ns flags loc0 loc1 : Nat) (text : Nat → List Nat), auto % 64 = 0 → gs % 16 = 0 →
      Sees s .scalar m gs (gs + 16) → Sees s .scalar m auto (auto + 64 + 513 * ns) → Spells (Sees s .scalar m) m table n text →
      numAt m gs 8 = auto → flags < 4 → numAt m (gs + 10) 6 = flags → Reaches s .load (BitVec.ofNat 64 auto) 8 loc0 →
      recordPlace loc0 → 1 ≤ ns → ns < 65536 → numAt m auto 8 = ns → numAt m (auto + 8) 8 = table → numAt m (auto + 16) 8 = n →
      (∀ k, 3 ≤ k → k < 8 → numAt m (auto + 8 * k) 8 = 0) → ga < n → n < 2 ^ 32 →
      let next := fun q y => numAt m (auto + 0x40 + 512 * q + 2 * y) 2
      let mat := fun q => (m (auto + 0x40 + 512 * ns + q)).toNat
      let q := numAt m (gs + 8) 2
      (∀ q < ns, ∀ y < 256, next q y < ns) → q < ns → Reaches s .store (at' 8) 8 loc1 → Storing s 1 →
      let out := stopRun next mat q 0 (text ga)
      let keep : Int := match out.2 with
        | none => (text ga).length
        | some (l, off) => if flags % 2 = 1 then off + 1 else off + 1 - l
      let low := match out.2 with
        | none => 0
        | some (l, off) => off + 2 ^ 16 * l + 2 ^ 31
      let matched := if flags / 2 = 1 ∨ out.2 ≠ none then 2 else 0
      Completes (.stopm d a r) s (fun t =>
        t.hart.gget d.toNat = (if d = 0 then 0 else BitVec.ofNat 64 (low + 2 ^ 32 * (BitVec.ofInt 32 keep).toNat))
        ∧ (∀ x, x ≠ d.toNat → t.hart.gget x = s.hart.gget x)
        ∧ Put' s (retired s.hart t.hart.g (s.hart.pc + 4) s.hart.fpflags)
            [(at' 8, loc1, leBytes 2 out.1 ++ [BitVec.ofNat 8 (flags % 2 + matched), 0, 0, 0, 0, 0])]
            (unmoved s t)))

/-- R303 to R310: PFXH chains the hash of a block. PFXLK stores the pages of the leading hashes found, one held entry
for each aligned dword, and marks them in order; PFXINS ends in one of its five cases; PFXPIN and PFXUNPIN count every
listed page or none. NGPUT fills the entry that its rule chooses in the hearth's slice, and NGGET stores the records
of its key, the most recently marked first.
Where the specification is silent this rests on the model's choices in log entry 43. -/
def Obligations.PrefixesAndContinuationsAreKept : Prop :=
  ∀ (s : State) (d a b : BitVec 6) (r : BitVec 5) (m : Nat → Byte), Calm s → d.toNat < 32 →
    let ga := s.hart.gget a.toNat
    let gb := s.hart.gget b.toNat
    let gs := s.hart.gget r.toNat
    let reg := BitVec.ofNat 5 d.toNat
    let ps := s.prefixes
    (gs.toNat % 4 = 0 → Sees s .scalar m gs.toNat (gs.toNat + 4 * blockNow s) →
      Completes (.pfxh d a r) s (fun t => Wrote s d.toNat (BitVec.ofNat 64 (mixed ((List.range (blockNow s)).foldl (fun h j =>
        mixed h (numAt m (gs.toNat + 4 * j) 4)) ga.toNat) (2 ^ 63 + blockNow s))) (s.hart.pc + 4) s.hart.fpflags
        (unmoved s t)))
    ∧ (∀ (loc : Nat → Nat), Distinct ps → ga.toNat % 8 = 0 → gb.toNat ≤ 4096 →
      Sees s .scalar m ga.toNat (ga.toNat + 8 * gb.toNat) →
      let hs := (List.range gb.toNat).map (fun j => BitVec.ofNat 64 (numAt m (ga.toNat + 8 * j) 8))
      let out := matchedPages ps hs
      gs.toNat % 4 = 0 → (∀ j < gb.toNat, Reaches s .store (gs + BitVec.ofNat 64 (4 * j)) 4 (loc j)) →
      Storing s out.length → Completes (.pfxlk d a b r) s (fun t =>
        t.prefixes = ps.map (fun e =>
          match ((List.range out.length).filter (fun j => decide (hs[j]? = some e.hash))).getLast? with
          | some j => { e with mark := s.stamp + j }
          | none => e)
        ∧ Put' { s with prefixes := t.prefixes, stamp := s.stamp + out.length }
            (issued s reg (BitVec.ofNat 64 out.length))
            (byDword (fun j => gs + BitVec.ofNat 64 (4 * j)) loc (out.map (fun p => leBytes 4 p.toNat)))
            (unmoved s t)))
    ∧ (gb.toNat < 2 ^ 32 → Distinct ps →
      let page := gb.setWidth 32
      let gives := fun (v : Word) (new : List PfxEntry → Prop) (stamp : Nat) => Completes (.pfxins d a b) s (fun t =>
        new t.prefixes ∧ t = { s.setHart (issued s reg v) with prefixes := t.prefixes, stamp := stamp })
      let added := fun (i : Nat) (rest new : List PfxEntry) =>
        new = { index := i, hash := ga, page := page, pins := 1, mark := s.stamp } :: rest
      (∀ e ∈ ps, e.hash = ga → gives (BitVec.ofNat 64 (2 + 2 ^ 32 * e.page.toNat))
        (· = ps.map (fun x => if x.hash = ga then { x with mark := s.stamp } else x)) (s.stamp + 1))
      ∧ ((∀ e ∈ ps, e.hash ≠ ga) → (∃ e ∈ ps, e.page = page) → gives 3 (· = ps) s.stamp)
      ∧ (∀ i < 4096, (∀ e ∈ ps, e.hash ≠ ga ∧ e.page ≠ page ∧ e.index ≠ i) → (∀ j < i, ∃ e ∈ ps, e.index = j) →
          gives 0 (added i ps) (s.stamp + 1))
      ∧ (∀ e ∈ ps, (∀ x ∈ ps, x.hash ≠ ga ∧ x.page ≠ page) → (∀ i < 4096, ∃ x ∈ ps, x.index = i) → e.pins = 0 →
          (∀ x ∈ ps, x.pins = 0 → x ≠ e → e.mark < x.mark) →
          gives (BitVec.ofNat 64 (1 + 2 ^ 32 * e.page.toNat))
            (added e.index (ps.filter (fun x => decide (x.index ≠ e.index)))) (s.stamp + 1))
      ∧ ((∀ x ∈ ps, x.hash ≠ ga ∧ x.page ≠ page ∧ x.pins ≠ 0) → (∀ i < 4096, ∃ x ∈ ps, x.index = i) → gives 4 (· = ps) s.stamp))
    ∧ (Distinct ps → ga.toNat % 4 = 0 → gb.toNat ≤ 4096 → Sees s .scalar m ga.toNat (ga.toNat + 4 * gb.toNat) →
      let pages := (List.range gb.toNat).map (fun j => numAt m (ga.toNat + 4 * j) 4)
      ∀ up : Bool,
      let i : Instr := if up then .pfxpin d a b else .pfxunpin d a b
      let fails := fun (j code : Nat) => ∃ p, pages[j]? = some p ∧ (code = 1 ∧ (∀ e ∈ ps, e.page.toNat ≠ p)
        ∨ code = 2 ∧ ∃ e ∈ ps, e.page.toNat = p ∧
            (pinned up (pages.take (j + 1)) e < 0 ∨ 65535 < pinned up (pages.take (j + 1)) e))
      (∀ e ∈ ps, e.pins ≤ 65535) →
      ((∀ j code, ¬fails j code) → Completes i s (fun t => unmoved s t =
        { s.setHart (issued s reg 0) with prefixes := ps.map (fun e => { e with pins := (pinned up pages e).toNat }) }))
      ∧ (∀ j code, fails j code → (∀ k < j, ∀ c, ¬fails k c) →
          Completes i s (fun t => unmoved s t = s.setHart (issued s reg (BitVec.ofNat 64 (code + 2 ^ 32 * j))))))
    ∧ (∀ n, gb.toNat % 8 = 0 → Sees s .scalar m gb.toNat (gb.toNat + 8 + 4 * n) → 1 ≤ n → n ≤ 16 → numAt m gb.toNat 8 = n →
      let k := s.cur / 16
      let set := ga.toNat % 2048
      let own := fun (e : NgEntry) => e.set = set
      let ts := (List.range n).map (fun j => BitVec.ofNat 32 (numAt m (gb.toNat + 8 + 4 * j) 4))
      let ways := (s.hearth k).ngrams
      ∀ w, ((∃ e ∈ ways, own e ∧ e.way = w ∧ e.key = ga ∧ e.tokens.head? = ts.head?) ∧
            (∀ e ∈ ways, own e → e.key = ga → e.tokens.head? = ts.head? → e.way = w)
          ∨ (∀ e ∈ ways, own e → e.key ≠ ga ∨ e.tokens.head? ≠ ts.head?) ∧ w < 4 ∧ (∀ e ∈ ways, own e → e.way ≠ w)
            ∧ (∀ j < w, ∃ e ∈ ways, own e ∧ e.way = j)
          ∨ (∀ e ∈ ways, own e → e.key ≠ ga ∨ e.tokens.head? ≠ ts.head?) ∧ (∀ j < 4, ∃ e ∈ ways, own e ∧ e.way = j)
            ∧ ∃ e ∈ ways, own e ∧ e.way = w ∧ ∀ x ∈ ways, own x → x.way ≠ w → e.mark < x.mark) →
        Completes (.ngput a b) s (fun t =>
          (t.hearth k).ngrams = { set := set, way := w, key := ga, tokens := ts, mark := s.stamp }
            :: ways.filter (fun e => decide (¬(e.set = set ∧ e.way = w)))
          ∧ (∀ x, x ≠ k → t.hearth x = s.hearth x) ∧ t.hearth k = { s.hearth k with ngrams := (t.hearth k).ngrams }
          ∧ unmoved s t = { s.setHart (passed s) with hearths := t.hearths, stamp := s.stamp + 1 }))
    ∧ (∀ (es : List NgEntry) (loc : Nat → Nat), gb.toNat % 8 = 0 →
      (∀ j < 36, Reaches s .store (gb + BitVec.ofNat 64 (8 * j)) 8 (loc j)) →
      es.Pairwise (fun x y => y.mark < x.mark) → (∀ e ∈ es, e.tokens.length ≤ 16) →
      es.Perm ((s.hearth (s.cur / 16)).ngrams.filter (fun e => decide (e.key = ga))) → es.length ≤ 4 →
      Storing s (9 * es.length) → Completes (.ngget d a b) s (fun t =>
        t.hart.gget d.toNat = (if d = 0 then 0 else BitVec.ofNat 64 es.length)
        ∧ (∀ x, x ≠ d.toNat → t.hart.gget x = s.hart.gget x)
        ∧ Put' s (retired s.hart t.hart.g (s.hart.pc + 4) s.hart.fpflags) ((List.range (9 * es.length)).map (fun j =>
            (gb + BitVec.ofNat 64 (8 * j), loc j, ((es.flatMap (fun e => poolBytes e.tokens)).drop (8 * j)).take 8))) t))

/-! ### Events of the sequencers, the held-effects buffers and the streams -/

namespace Sys2Proof.Stated

/-- The machine as hart h sees it. -/
def asOf (s : State) (h : Nat) : State := { s with cur := h }

/-- Does an instruction make a break (R180)? -/
def makesBreak (i : Instr) : Prop := ∃ d a, i = .pexitb d a ∨ i = .pexita d a

/-- Hart h executes in program mode: placed, not halted, and not behind a single step (R385, R442). -/
structure Executes (s : State) (h : Nat) : Prop where
  hart : h < 512
  placed : (s.hartAt h).place ≠ none
  program : (s.hartAt h).sup = false
  going : (s.hartAt h).dbg.halted = false
  stepping : (s.hartAt h).dbg.armed = false ∨ (s.hartAt h).dbg.retired = false

/-- Hart h has convoys that have begun, with no break among them, and then some that have not, the first of which no
later word can join: it is ready to start one (R111, R184, R383). -/
structure Waits (s : State) (h : Nat) (done rest : List QEntry) : Prop where
  runs : Executes s h
  lanes : 0 < s.lgrant h
  queue : (s.hartAt h).queue = done ++ rest
  some : rest ≠ []
  begun : ∀ e ∈ done, e.begun = true ∧ ¬makesBreak e.instr
  fresh : ∀ e ∈ rest, e.begun = false
  places : ((s.hartAt h).queue.map (·.seq)).Nodup
  closed : (asOf s h).closedBehind rest = true

/-- Does an instruction need the tile unit (R383)? -/
def forTiles : Instr → Bool
  | .mxacc .. => true
  | .mxsub .. => true
  | _ => false

/-- Does the next convoy of hart h need the tile unit? -/
def NextForTiles (s : State) (h : Nat) : Prop :=
  ∃ e ∈ headConvoy ((s.hartAt h).queue.dropWhile (·.begun)), forTiles e.instr = true

/-- Hart a goes before hart b in a pick of their core, or of its tile unit (R383, R384): promotion first, the earliest;
then the effective priority of the launch; then no YIELD; then the longer readiness; then, a choice of the model, the
lower number. -/
def GoesFirst (s : State) (tile : Bool) (a b : Nat) : Prop :=
  let x := s.hartAt a
  let y := s.hartAt b
  let waited := fun (h : Hart) => if tile then h.tileReady else h.readyClocks
  match (if tile then x.tilePromoted else x.promoted), (if tile then y.tilePromoted else y.promoted) with
  | some m, some n => m < n ∨ (m = n ∧ a < b)
  | some _, none => True
  | none, some _ => False
  | none, none =>
    s.prioOf b < s.prioOf a ∨ (s.prioOf a = s.prioOf b ∧
      ((x.yielded = false ∧ y.yielded = true) ∨ (x.yielded = y.yielded ∧
        (waited y < waited x ∨ (waited x = waited y ∧ a < b)))))

/-- The queue of hart h is one instruction that has begun, with control values captured as they are now; no register
that it names is bound, no watch entry matches it and no soft error waits. -/
structure OneBegun (s : State) (h : Nat) (e : QEntry) (named : List (BitVec 6)) : Prop where
  runs : Executes s h
  queue : (s.hartAt h).queue = [e]
  begun : e.begun = true
  captured : e.cap = (s.hartAt h).capture
  strips : e.strip = []
  start : (s.hartAt h).stopped = none
  sound : (s.hartAt h).regError = false
  registers : ∀ r ∈ named, r.toNat < 48
  unbound : ∀ b ∈ (s.hartAt h).binds, ∀ r ∈ named, r.toNat ∉ b.regs
  unwatched : ∀ (k : Nat) (w : Watch), (s.hartAt h).watch[k]? = some w → w.en = true → w.addr ≠ e.addr
  matched : (s.hartAt h).miract = true → (s.hartAt h).mirrorError = []
  fits : vlNow (asOf s h) * bitsNow (asOf s h) ≤ roomNow (asOf s h)

/-- t is s after the one convoy of hart h retired and the hart became x; only counters of lane cycles and of the clocks
to come may have moved besides. -/
def Retired (s : State) (h : Nat) (x : Hart) (t : State) : Prop :=
  t = s.setHartAt h { x with
    queue := [], stopped := none, watched := []
    dbg := { (s.hartAt h).dbg with retired := true }
    lcuse := (t.hartAt h).lcuse, lcmask := (t.hartAt h).lcmask, lctail := (t.hartAt h).lctail
    lcstart := (t.hartAt h).lcstart, activity := (t.hartAt h).activity, ahead := (t.hartAt h).ahead }

/-- Bytes that an engine of hart h finds at an address on, undamaged (R337). -/
def EngineBytes (s : State) (h : Nat) (va : Word) (bs : List Byte) : Prop :=
  ∀ k x, bs[k]? = some x → ∃ loc dev,
    s.translate (h / 4) (s.rootOf (s.hartAt h)) false .engine .load (va + BitVec.ofNat 64 k) = .at loc dev
    ∧ Memory.read s.mem loc = x ∧ s.damagedAt loc = false

/-- The stream of binding i of hart h produced these elements (R233, R237): AVAIL is written at location `at'`, and with
the last element the stream is DONE. -/
def Produced (s : State) (h i : Nat) (b : Binding) (at' : Nat) (es : List StreamElem) (t : State) : Prop :=
  let n := b.data.length + es.length
  (t.hartAt h).binds = (s.hartAt h).binds.set i
      { b with data := b.data ++ es, status := if b.total ≤ n then 2 else 1 }
  ∧ (n < b.total → (∀ k < 4, Memory.read t.mem (at' + k) = byteOf n k)
      ∧ (∀ a, a < at' ∨ at' + 4 ≤ a → Memory.read t.mem a = Memory.read s.mem a) ∧ t.timelines = s.timelines)
  ∧ (b.total ≤ n → b.tl < 4096 → b.ticket = (s.timeline b.tl).value.toNat + 1 → b.ticket < 2 ^ 64 →
      (s.timeline b.tl).done = [] → t.timeline b.tl = { s.timeline b.tl with value := BitVec.ofNat 64 b.ticket })
  ∧ t = { s.setHartAt h { s.hartAt h with binds := (t.hartAt h).binds, moved := (t.hartAt h).moved } with
      mem := t.mem, poison := t.poison, timelines := t.timelines }

end Sys2Proof.Stated

/-- R383, R184, R180, R47, R185, R236, R233, R348: the picked hart's oldest unstarted convoy begins, and the hart is
no longer promoted; a hart ready for 64 clocks is promoted, with the core and with its tile unit. A break's exit index
becomes known and bounds what follows; the elements of a convoy commit and it retires. A waiting entry enters the
buffer in its place, at the capacity after the oldest was performed. A reader of a bound register takes its strip; a
stream produces its next elements.
Where the specification is silent this rests on the model's choices in log entries 6, 35, 69 and 93. -/
def Obligations.SequencersAndStreamsMoveOn : Prop :=
  ∀ (s : State) (h : Nat),
    let x := s.hartAt h
    (∀ done rest, Waits s h done rest → x.regError = false → (s.core (h / 4)).started = false →
      (∀ k, k / 4 = h / 4 → k ≠ h → s.convoyReady k = true → GoesFirst s false h k
        ∧ (NextForTiles s h → NextForTiles s k → GoesFirst s true h k)) →
      Completes (.convoyStart h) s (fun t =>
        let n := (headConvoy rest).length
        0 < n ∧ (∀ c, t.core c = if c = h / 4 then { s.core c with started := true } else s.core c)
        ∧ t = ({ s with cores := t.cores } : State).setHartAt h { x with
          queue := done ++ (rest.take n).map (fun e => { e with begun := true })
            ++ (match rest.drop n with
              | [] => []
              | e :: es => { e with split := true } :: es)
          split := x.split || decide (rest.drop n = []), readyClocks := 0, promoted := none, tileReady := 0
          tilePromoted := none, yielded := false }))
    ∧ (∀ done rest, Waits s h done rest →
      let core := x.promoted = none ∧ 64 ≤ x.readyClocks
      let tile := NextForTiles s h ∧ x.tilePromoted = none ∧ 64 ≤ x.tileReady
      core ∨ tile → Completes (.issuePromotion h) s (fun t =>
        (core → (t.hartAt h).promoted = some s.stamp) ∧ (¬core → (t.hartAt h).promoted = x.promoted)
        ∧ (tile → (t.hartAt h).tilePromoted = some s.stamp) ∧ (¬tile → (t.hartAt h).tilePromoted = x.tilePromoted)
        ∧ t = { s.setHartAt h { x with promoted := (t.hartAt h).promoted, tilePromoted := (t.hartAt h).tilePromoted }
            with stamp := s.stamp + 1 }))
    ∧ (∀ (e : QEntry) (d a : BitVec 5) (n : Nat), OneBegun s h e [] → n < vlNow (asOf s h) →
      chosen (asOf s h) a.toNat n = true → (∀ k < n, chosen (asOf s h) a.toNat k = false) →
      let broke := fun (m : Nat) => Completes (.breakResolve h) s (fun t =>
        (∀ k < 4096, ((t.hartAt h).pget d.toNat).getLsbD k = decide (k < m))
        ∧ (∀ r, r ≠ d.toNat → (t.hartAt h).pget r = x.pget r)
        ∧ Retired s h { x with
            p := (t.hartAt h).p, bound := some (min (x.bound.getD m) m)
            vexit := (x.vexit &&& ~~~0x31FFF) ||| BitVec.ofNat 64 (min (x.vexit.toNat % 8192) m) ||| 0x30000 } t)
      (e.instr = .pexitb d a → broke n) ∧ (e.instr = .pexita d a → broke (n + 1)))
    ∧ (∀ (e : QEntry) (d a b : BitVec 6) (r : BitVec 3), OneBegun s h e [d, a, b] →
      e.instr = .vadd d a b 0 0 r → replicates d b r → 1 ≤ ewNow (asOf s h) → ewNow (asOf s h) ≤ 4 →
      let w := bitsNow (asOf s h)
      let y := fun (t : State) k => elementAt ((t.hartAt h).vget d.toNat) w k
      Completes (.commitFrontAdvance h) s (fun t =>
        (∀ k < vlNow (asOf s h), y t k =
          if live (asOf s h) k then (el (asOf s h) w a k + el (asOf s h) w b (paired r k)) % 2 ^ w
          else if x.vcfg.getLsbD 23 then 0 else y s k)
        ∧ (∀ i, vlNow (asOf s h) * w ≤ i →
            ((t.hartAt h).vget d.toNat).getLsbD i = (x.vget d.toNat).getLsbD i)
        ∧ (∀ r, r ≠ d.toNat → (t.hartAt h).vget r = x.vget r)
        ∧ Retired s h { x with v := (t.hartAt h).v } t))
    ∧ (∀ (e : Held) (es : List Held), h < 512 → x.waiting = e :: es → x.dbg.halted = false →
      (x.dbg.armed = false ∨ x.dbg.retired = false) →
      let enters := fun (held : List Held) (t : State) => ∃ pre post, held = pre ++ post
        ∧ (t.hartAt h).held = pre ++ e :: post ∧ (t.hartAt h).waiting = es
        ∧ (∀ y ∈ pre, y.seq < e.seq ∨ (y.seq = e.seq ∧ y.elem ≤ e.elem))
        ∧ (∀ y, post.head? = some y → e.seq < y.seq ∨ (e.seq = y.seq ∧ e.elem < y.elem))
      (x.held.length < e.room → Completes (.heldEntryEnter h) s (fun t => enters x.held t
        ∧ t = s.setHartAt h { x with held := (t.hartAt h).held, waiting := es }))
      ∧ (∀ (o : Held) (rest : List Held) (loc n : Nat) (dev : Bool), x.held = o :: rest → e.room = x.held.length →
        (∀ q ∈ x.queue, makesBreak q.instr → o.seq < q.seq) →
        o.kind = .store → o.size ≠ 0 → o.locs = [(loc, n)] → o.bytes.length = n → s.bars = [] → Memory.wf s.mem = true →
        s.translate (h / 4) (s.rootOf x) false (if o.vector then .vector else .scalar) .store (BitVec.ofNat 64 o.va)
          = .at loc dev →
        Completes (.heldEntryEnter h) s (fun t => enters rest t
          ∧ (∀ k y, o.bytes[k]? = some y → Memory.read t.mem (loc + k) = y)
          ∧ (∀ a, a < loc ∨ loc + n ≤ a → Memory.read t.mem a = Memory.read s.mem a)
          ∧ t = { s.setHartAt h { x with
                held := (t.hartAt h).held, waiting := es, drained := true, moved := (t.hartAt h).moved } with
              mem := t.mem, poison := t.poison })))
    ∧ (∀ (e : QEntry) (d a c : BitVec 6) (b : Binding), OneBegun s h e [d, c] → e.instr = .vadd d a c 0 0 0 →
      e.consumed = false → x.binds = [b] → b.reg = a.toNat → a.toNat < 48 → b.ladder = 0 → b.planes = 1 →
      b.ew = ewNow (asOf s h) → ewNow (asOf s h) ≤ 4 → 0 < vlNow (asOf s h) →
      vlNow (asOf s h) + b.used ≤ b.data.length → (∀ y ∈ b.data, y.bad = false) →
      let w := bitsNow (asOf s h)
      Completes (.streamDelivery h) s (fun t =>
        (∀ k < vlNow (asOf s h), elementAt ((t.hartAt h).vget a.toNat) w k =
          ((b.data[b.used + k]?).map (·.p0)).getD 0 % 2 ^ w)
        ∧ (∀ i, vlNow (asOf s h) * w ≤ i →
            ((t.hartAt h).vget a.toNat).getLsbD i = (x.vget a.toNat).getLsbD i)
        ∧ (∀ r, r ≠ a.toNat → (t.hartAt h).vget r = x.vget r)
        ∧ t = s.setHartAt h { x with
            v := (t.hartAt h).v, binds := [{ b with used := b.used + vlNow (asOf s h) }]
            queue := [{ e with consumed := true }] }))
    ∧ (∀ (i : Nat) (b : Binding) (at' : Nat) (dev : Bool), h < 512 → s.bars = [] → s.transit = [] →
      Memory.wf s.mem = true →
      x.binds[i]? = some b → b.status = 1 → b.ladder = 0 → b.planes = 1 → b.data.length < b.total →
      s.translate (h / 4) (s.rootOf x) false .engine .store (b.record + 0x30) = .at at' dev →
      let w := 4 * 2 ^ b.ew
      let k := b.data.length
      let produces := fun (ev : Instr) (es : List StreamElem) => Completes ev s (Produced s h i b at' es)
      (∀ (v loc : Nat) (dev : Bool), b.packed = false → 1 ≤ b.ew → b.ew ≤ 4 →
        let va := b.base + BitVec.ofNat 64 k * b.stride
        va.toNat % (w / 8) = 0 →
        s.translate (h / 4) (s.rootOf x) false .engine .load va = .at loc dev →
        (∀ j < w / 8, s.damagedAt (loc + j) = false ∧ Memory.read s.mem (loc + j) = byteOf v j) →
        produces (.streamFetch h i 1) [{ p0 := v % 2 ^ w, p1 := 0, p2 := 0, bad := false }])
      ∧ (∀ (c : Nat), b.packed = false → 1 ≤ b.ew → b.ew ≤ 4 →
        let va := b.base + BitVec.ofNat 64 k * b.stride
        va.toNat % (w / 8) = 0 → s.translate (h / 4) (s.rootOf x) false .engine .load va = .fault c →
        Completes (.streamFetch h i 1) s (fun t =>
          (t.hartAt h).binds = x.binds.set i { b with status := 3, cause := c }
          ∧ (b.tl < 4096 → (s.timeline b.tl).err = false → (t.timeline b.tl).err = true
            ∧ (t.timeline b.tl).ecode = 8 ∧ (t.timeline b.tl).ekind = 2
            ∧ (t.timeline b.tl).eticket = BitVec.ofNat 64 b.ticket ∧ (t.timeline b.tl).eaddr = va)))
      ∧ (∀ (out : List Byte), b.packed = true → b.ew ≤ 4 → k % (512 / w) = 0 →
        BlockBy (EngineBytes s h) b.base 0 (k / (512 / w)) out →
        produces (.streamBlockDecode h i) ((List.range (min (512 / w) (b.total - k))).map (fun j =>
          { p0 := leNat out / 2 ^ (w * j) % 2 ^ w, p1 := 0, p2 := 0, bad := false }))))


/-! ### Events of the copy and kite engines and of the links -/

namespace Sys2Proof.Stated

/-- Slot i of zone z of core c. -/
def slotOf (s : State) (c z i : Nat) : Option Slot := ((((s.core c).zones[z]?).getD none)).bind (fun x => x.slots[i]?)

/-- The number under which a path to a device is kept. -/
def keyOf (dev path : Nat) : Nat := 65536 * path + dev

/-- The Ethernet paths of t are those of s, but that one path to a device is e. -/
def PathNow (s : State) (dev path : Nat) (e : EthPath) (t : State) : Prop :=
  t.ethPath dev path = e ∧ ∀ d q, keyOf d q ≠ keyOf dev path → t.ethPath d q = s.ethPath d q

/-- Does a message fit the payload of one flit (R408)? -/
def inFlit : KMsg → Prop
  | .data _ _ _ _ _ bs _ => bs.length ≤ 120
  | _ => True

/-- A message reaches this device: the oldest of the internal fabric (R410), or one over a path whose port is up: over
Ethernet a flit of the last frame that was taken in (R415, R416). u is the machine without it. -/
def Reached (s : State) (dev path : Nat) (m : KMsg) (u : State) : Prop :=
  let port := path % 32
  let less := { s.ethPath dev path with flits := (s.ethPath dev path).flits - 1 }
  (path = 31 ∧ s.fabric = m :: u.fabric ∧ u = { s with fabric := u.fabric })
  ∨ (inFlit m ∧ (s.portAt port).up = true ∧
      ((port < 18 ∧ u = s)
      ∨ ((port = 18 ∨ port = 19) ∧ 0 < (s.ethPath dev path).flits
          ∧ u = { s with eth := putSorted (keyOf dev path) less s.eth })))

/-- v is u once messages left over a path to a device, or over the fabric to this device itself (R408, R410). -/
def Posted (u : State) (port dev : Nat) (ms : List KMsg) (v : State) : Prop :=
  if port = 31 then v = { u with fabric := u.fabric ++ ms }
  else (∃ ps, v.sent = u.sent ++ ps ∧ Packets u port dev ms ps)
    ∧ (∀ p, v.portAt p = { u.portAt p with seq := (v.portAt p).seq })
    ∧ v = { u with sent := v.sent, ports := v.ports, lastSent := v.lastSent, eth := v.eth, fresh := v.fresh }

/-- Launches without the counts of moved bytes in their saved contexts. -/
def uncounted (l : List Launch) : List Launch :=
  l.map (fun l => { l with gangs := l.gangs.map (fun g => { g with ranks := g.ranks.map (fun r =>
    match r with
    | .saved c => .saved { c with moved := { dev := 0, host := 0, kite := 0, eth := 0 } }
    | r => r) }) })

/-- Nothing of the contexts of s is new in t but the bytes that were moved for them; those of a rank that has left its
hart may be kept with its hearth for the charge to come (R456, R458). -/
structure OnlyMoved (s t : State) : Prop where
  harts : ∀ h, t.hartAt h = { s.hartAt h with moved := (t.hartAt h).moved }
  saved : uncounted t.launches = uncounted s.launches
  stays : ∀ k, ∃ more, (t.hearth k).stays = (s.hearth k).stays ++ more
    ∧ ∀ x ∈ more, x.ns = 0 ∧ x.activity = 0 ∧ x.paid = false

/-- Nothing of the hearths of s is new in t but what is kept for the charge to come. -/
def HearthsKept (s t : State) : Prop := ∀ k, t.hearth k = { s.hearth k with stays := (t.hearth k).stays }

/-- Where slot i of a zone of core c lies (R268). -/
def slotPlace (x : Zone) (c i : Nat) : Nat := Config.spadLoc + c * 0x200000 + x.base + i * x.slotSize

/-- t is v but for trace records and for slot i of zone z of core c, which is y; the counts of its zone moved with it
(R268, R269). Bytes of the slot may be new where `vague` says so. -/
def SlotNow (v : State) (c z i : Nat) (y : Slot) (vague : Bool) (t : State) : Prop :=
  ∃ x old, (v.core c).zones[z]? = some (some x) ∧ x.slots[i]? = some old
    ∧ (t.core c).zones[z]? = some (some { x with
        slots := x.slots.set i y
        arrived := if y.state = .arrived ∧ old.state ≠ .arrived then x.arrived + 1 else x.arrived
        failed := if y.state = .failed ∧ old.state ≠ .failed then x.failed + 1 else x.failed })
    ∧ (∀ j, j ≠ z → (t.core c).zones[j]? = (v.core c).zones[j]?)
    ∧ (t.core c) = { v.core c with zones := (t.core c).zones }
    ∧ (∀ k, k ≠ c → t.core k = v.core k)
    ∧ (let lo := slotPlace x c i
       ∀ a, vague = false ∨ a < lo ∨ lo + x.slotSize ≤ a → Memory.read t.mem a = Memory.read v.mem a)
    ∧ Traced t { v with cores := t.cores, mem := t.mem, fresh := t.fresh }

/-- An operation finished on timeline n with this ticket, with an error (code, kind, address) or without (R259, R260).
-/
structure Finished (s : State) (n ticket : Nat) (err : Option (Nat × Nat × Word)) (t : State) : Prop where
  none : n = 0xFFFF → t.timelines = s.timelines
  others : ∀ m, m ≠ n → t.timeline m = s.timeline m
  next : n ≠ 0xFFFF → (t.timeline n).next = (s.timeline n).next
  value : n ≠ 0xFFFF → ticket = (s.timeline n).value.toNat + 1 → ticket < 2 ^ 64 → (s.timeline n).done = [] →
    (t.timeline n).value = BitVec.ofNat 64 ticket
  first : n ≠ 0xFFFF → (s.timeline n).err = false → ∀ c k a, err = some (c, k, a) →
    (t.timeline n).err = true ∧ (t.timeline n).ecode = BitVec.ofNat 8 c ∧ (t.timeline n).ekind = BitVec.ofNat 8 k
    ∧ (t.timeline n).eticket = BitVec.ofNat 64 ticket ∧ (t.timeline n).eaddr = a
  kept : n ≠ 0xFFFF → (s.timeline n).err = true ∨ err = .none →
    (t.timeline n).err = (s.timeline n).err ∧ (t.timeline n).ecode = (s.timeline n).ecode
    ∧ (t.timeline n).ekind = (s.timeline n).ekind ∧ (t.timeline n).eticket = (s.timeline n).eticket
    ∧ (t.timeline n).eaddr = (s.timeline n).eaddr

/-- Kite operation o of this device is the one with its number. -/
def Only (s : State) (o : KiteOp) : Prop := o ∈ s.kites ∧ ∀ k ∈ s.kites, k.op = o.op → k = o

/-- The paths that `hit` names fail (R413, R269, R271): RESERVED and FILLING slots whose sender is behind one become
FAILED with LEN 0, and their bytes are unspecified; operations over one end with LINK, a reservation's word with
status 3; slots reserved elsewhere are reached over one no more. Every other slot and every other operation stays. -/
structure PathsFail (s : State) (hit : Nat → Nat → Bool) (t : State) : Prop where
  slots : ∀ c z i, slotOf t c z i = (slotOf s c z i).map (fun y =>
    if (y.state = .reserved ∨ y.state = .filling) ∧ (∃ o, y.owner = some o ∧ hit o.dev o.port = true)
    then { y with state := .failed, len := 0 } else y)
  kites : t.kites = s.kites.filter (fun o => !hit o.dev o.port)
  paths : t.paths = s.paths.map (fun e => if hit e.1.1 e.2.2 then (e.1, e.2.1, 30) else e)
  links : ∀ o ∈ s.kites, hit o.dev o.port = true → o.tl ≠ 0xFFFF → (t.timeline o.tl).err = true
  held : (∀ o ∈ s.kites, hit o.dev o.port = false) → t.timelines = s.timelines
  calm : s.bars = [] → t.bars = [] ∧ OnlyMoved s t
  frame : Traced t { s with
    cores := t.cores, kites := t.kites, paths := t.paths, timelines := t.timelines, fresh := t.fresh, mem := t.mem
    poison := t.poison, transit := t.transit, uecount := t.uecount, bars := t.bars, harts := t.harts
    launches := t.launches, hearths := t.hearths, eth := t.eth, ports := t.ports, svcreq := t.svcreq }

/-- A range of n bytes of an engine's access lies in one page and leads to a location, all of it undamaged. -/
def PageAt (s : State) (core root : Nat) (acc : Acc) (va n loc : Nat) : Prop :=
  va % 4096 + n ≤ 4096 ∧ va < 2 ^ 64 ∧ (∃ dev, s.translate core root false .engine acc (BitVec.ofNat 64 va) = .at loc dev)

/-- Memory where a location range holds what another held. -/
def CopiedTo (s t : State) (src dst n : Nat) : Prop :=
  (∀ k < n, Memory.read t.mem (dst + k) = Memory.read s.mem (src + k))
  ∧ (∀ a, a < dst ∨ dst + n ≤ a → Memory.read t.mem a = Memory.read s.mem a)

end Sys2Proof.Stated

/-- R264, R265, R267, R259, R260, R269, R271, R272. A copy operation ends: a plain copy moves its bytes, with source
and destination each in one page; ranges that meet end it with OVERLAP, and a page that cannot be accessed with
TRANSLATION or ACCESS at its address, each destination byte old or new; a descriptor out of its limits ends with
BADDESC and STATUS 1; a row is copied and STATUS is 0; an index list that cannot be read ends with STATUS 2 and no
row. A reservation takes the lowest FREE slot, or is answered BUSY or NOZONE; the reply is written as the reservation
word and ends the request. A header fills its slot, is rejected and leaves it, or is too long and fails it; data lands
in a FILLING slot of its sender; the last flit makes it ARRIVED with its LEN and bytes and returns a completion, which
ends the send; a rejection ends it with REJECTED or TOOLONG.
Where the specification is silent this rests on the model's choices in log entries 9, 10 and 39. -/
def Obligations.CopiesAndMessagesEndOnTheirTimelines : Prop :=
  (∀ (s : State) (c k : Nat) (o : CopyOp), c < 128 → (s.core c).copies[k]? = some o → s.bars = [] → s.transit = [] →
      s.poison = [] → Memory.wf s.mem = true →
      let core := o.hart / 4
      let root := s.rootOfSerial o.serial
      let ends := fun (err : Option (Nat × Nat × Word)) (p : State → Prop) => Completes (.copyFinish c k) s (fun t =>
        (t.core c).copies = (s.core c).copies.eraseIdx k ∧ Finished s o.tl o.ticket err t ∧ p t
        ∧ (∀ j, j ≠ c → t.core j = s.core j) ∧ t.core c = { s.core c with copies := (t.core c).copies }
        ∧ OnlyMoved s t ∧ HearthsKept s t
        ∧ t = { s with
            harts := t.harts, launches := t.launches, hearths := t.hearths, cores := t.cores
            timelines := t.timelines, mem := t.mem, fresh := t.fresh })
      (∀ dst src n, o.kind = .bytes dst src n → 0 < n →
        (src < dst + n → dst < src + n → ends (some (3, 0, 0)) (fun t => t.mem = s.mem ∧ t.fresh = s.fresh))
        ∧ (src + n ≤ dst ∨ dst + n ≤ src →
          (∀ a b, PageAt s core root .load src n a → PageAt s core root .store dst n b →
            ends none (fun t => CopiedTo s t a b n ∧ t.fresh = s.fresh))
          ∧ (∀ b e, src % 4096 + n ≤ 4096 → src < 2 ^ 64 → PageAt s core root .store dst n b →
            s.translate core root false .engine .load (BitVec.ofNat 64 src) = .fault e →
            ends (some (if e = 8 then 2 else 1, 0, BitVec.ofNat 64 src)) (fun t => t.mem = s.mem))
          ∧ (∀ a e, dst % 4096 + n ≤ 4096 → dst < 2 ^ 64 → PageAt s core root .load src n a →
            s.translate core root false .engine .store (BitVec.ofNat 64 dst) = .fault e →
            ends (some (if e = 8 then 2 else 1, 0, BitVec.ofNat 64 dst)) (fun t => t.mem = s.mem))
          ∧ (∀ a b e dev, let m := 4096 - src % 4096
            m < n → n - m ≤ 4096 → src + n < 2 ^ 64 → dst % 4096 + n ≤ 4096 → dst < 2 ^ 64 → PageAt s core root .load src m a →
            PageAt s core root .store dst m b → a + m ≤ b ∨ b + m ≤ a →
            s.translate core root false .engine .store (BitVec.ofNat 64 (dst + m)) = .at (b + m) dev →
            (∀ mem, (∀ x, x < b ∨ b + m ≤ x → Memory.read mem x = Memory.read s.mem x) →
              State.translate { s with mem := mem } core root false .engine .load (BitVec.ofNat 64 (src + m)) = .fault e) →
            ends (some (if e = 8 then 2 else 1, 0, BitVec.ofNat 64 (src + m))) (fun t =>
              (∀ k < m, Memory.read t.mem (b + k) = Memory.read s.mem (b + k)
                ∨ Memory.read t.mem (b + k) = Memory.read s.mem (a + k))
              ∧ (∀ x, x < b ∨ b + m ≤ x → Memory.read t.mem x = Memory.read s.mem x)))))
      ∧ (∀ desc st dev, o.kind = .bad desc →
        s.translate core root false .engine .store (BitVec.ofNat 64 (desc + 0x34)) = .at st dev →
        ends (some (4, 0, BitVec.ofNat 64 desc)) (fun t =>
          (∀ j < 8, Memory.read t.mem (st + j) = if j = 0 then 1 else 0)
          ∧ (∀ a, a < st ∨ st + 8 ≤ a → Memory.read t.mem a = Memory.read s.mem a)))
      ∧ (∀ desc (dst ds src ss : Word) rb j (r : Word) a b st dev, o.kind = .rows desc dst ds src ss rb [(j, r)] → 0 < rb →
        let from' := (src + r * ss).toNat
        let to' := (dst + BitVec.ofNat 64 j * ds).toNat
        from' + rb ≤ to' ∨ to' + rb ≤ from' → PageAt s core root .load from' rb a → PageAt s core root .store to' rb b →
        (∀ m, (∀ x, x < b ∨ b + rb ≤ x → Memory.read m x = Memory.read s.mem x) →
          State.translate { s with mem := m } core root false .engine .store (BitVec.ofNat 64 (desc + 0x34)) = .at st dev) →
        st + 8 ≤ b ∨ b + rb ≤ st →
        ends none (fun t =>
          (∀ q < rb, Memory.read t.mem (b + q) = Memory.read s.mem (a + q))
          ∧ (∀ q < 8, Memory.read t.mem (st + q) = 0)
          ∧ (∀ x, x < b ∨ b + rb ≤ x → x < st ∨ st + 8 ≤ x → Memory.read t.mem x = Memory.read s.mem x)))
      ∧ (∀ desc (dst ds src ss : Word) rb idx count signed e st dev, o.kind = .listed desc dst ds src ss rb idx count signed →
        0 < count → idx < 2 ^ 64 → s.translate core root false .engine .load (BitVec.ofNat 64 idx) = .fault e →
        s.translate core root false .engine .store (BitVec.ofNat 64 (desc + 0x34)) = .at st dev →
        ends (some (if e = 8 then 2 else 1, 0, BitVec.ofNat 64 idx)) (fun t =>
          (∀ q < 8, Memory.read t.mem (st + q) = if q = 0 then 2 else 0)
          ∧ (∀ x, x < st ∨ st + 8 ≤ x → Memory.read t.mem x = Memory.read s.mem x))))
  ∧ (∀ (s u : State),
      (∀ (o : Origin) (c z : Nat), Reached s o.dev o.port (.reserve o c z) u →
        (((u.core c).zones[z]?).getD none = none →
          Completes (.reservation o c z) s (Posted u o.port o.dev [.reply o.op 1 0 0]))
        ∧ (∀ x, (u.core c).zones[z]? = some (some x) →
          ((∀ y ∈ x.slots, y.state ≠ .free) → Completes (.reservation o c z) s (Posted u o.port o.dev [.reply o.op 2 0 0]))
          ∧ (∀ i y, x.slots[i]? = some y → y.state = .free → (∀ j < i, ∀ e, x.slots[j]? = some e → e.state ≠ .free) →
            Completes (.reservation o c z) s (fun t => ∃ v, Posted u o.port o.dev [.reply o.op 0 i y.gen.toNat] v
              ∧ SlotNow v c z i { y with state := .reserved, owner := some o, landed := [] } false t))))
      ∧ (∀ (o : Origin) (c z i gen len : Nat), Reached s o.dev o.port (.head o c z i gen len) u →
        let event := Instr.messageHead o c z i gen len
        let fits := fun (y : Slot) => y.state = .reserved ∧ y.gen.toNat = gen
          ∧ ∃ w, y.owner = some w ∧ w.launch = o.launch ∧ w.dev = o.dev
        ((slotOf u c z i = none ∨ ∃ y, slotOf u c z i = some y ∧ ¬fits y) →
          Completes event s (Posted u o.port o.dev [.rejection o.op false]))
        ∧ (∀ x y, (u.core c).zones[z]? = some (some x) → x.slots[i]? = some y → fits y →
          (x.slotSize < len → Completes event s (fun t => ∃ v, Posted u o.port o.dev [.rejection o.op true] v
            ∧ SlotNow v c z i { y with state := .failed, len := 0 } true t))
          ∧ (len ≤ x.slotSize → Completes event s (SlotNow u c z i
            { y with
              state := .filling, owner := some o, landed := [], want := len
              kept := (u.fresh, Memory.reads u.mem (slotPlace x c i + len) (x.slotSize - len)) } true))))
      ∧ (∀ (o w : Origin) (c z i off : Nat) (bs : List Byte) (bad : Bool) (x : Zone) (y : Slot),
        (u.core c).zones[z]? = some (some x) → x.slots[i]? = some y → y.owner = some w →
        let mine := y.state = .filling ∧ w.dev = o.dev ∧ w.port = o.port ∧ w.launch = o.launch ∧ w.op = o.op
        (Reached s o.dev o.port (.data o c z i off bs bad) u →
          (mine → off + bs.length ≤ x.slotSize → Completes (.messageData o c z i off bs bad) s
            (SlotNow u c z i { y with landed := y.landed ++ [(off, bs, bad)] } false))
          ∧ (¬mine → Completes (.messageData o c z i off bs bad) s (· = u)))
        ∧ (Reached s o.dev o.port (.last o c z i) u →
          (mine → u.bars = [] → u.poison = [] → Memory.wf u.mem = true → y.landed = [(0, bs, false)] →
              y.want = bs.length → bs.length ≤ x.slotSize →
            Completes (.messageLast o c z i) s (fun t =>
              let lo := slotPlace x c i
              (∃ v, Posted u o.port o.dev [.completion o.op] v ∧ SlotNow v c z i
                { y with state := .arrived, len := bs.length, landed := [], kept := (0, []) } true t)
              ∧ (∀ k b, bs[k]? = some b → Memory.read t.mem (lo + k) = b)
              ∧ (∀ k b, y.kept.2[k]? = some b →
                  Memory.read u.mem (lo + bs.length + k) = Config.freeByte (y.kept.1 + bs.length + k) →
                  Memory.read t.mem (lo + bs.length + k) = b)))
          ∧ (¬mine → Completes (.messageLast o c z i) s (· = u))))
      ∧ (∀ (o : KiteOp), Only s o →
        let ended := fun (err : Option (Nat × Nat × Word)) (t : State) =>
          t.kites = u.kites.filter (fun k => decide (k.op ≠ o.op)) ∧ Finished u o.tl o.ticket err t
        (o.word = none →
          (Reached s o.dev o.port (.completion o.op) u → Completes (.completion o.op) s (fun t =>
            ended none t ∧ t = { u with kites := t.kites, timelines := t.timelines }))
          ∧ (∀ long, Reached s o.dev o.port (.rejection o.op long) u → Completes (.kiteRejection o.op long) s (fun t =>
            ended (some (if long then 7 else 6, 1, 0)) t ∧ t = { u with kites := t.kites, timelines := t.timelines })))
        ∧ (∀ status slot gen va, o.word = some va → status < 2 ^ 16 → slot < 2 ^ 16 → gen < 2 ^ 16 → u.bars = [] →
          Memory.wf u.mem = true → Reached s o.dev o.port (.reply o.op status slot gen) u →
          let at' := u.translate (o.hart / 4) (u.rootOfSerial o.serial) false .kite .store (BitVec.ofNat 64 va)
          (∀ c, at' = .fault c → Completes (.reply o.op status slot gen) s (fun t =>
            ended (some (if c = 8 then 2 else 1, 1, BitVec.ofNat 64 va)) t ∧ t.mem = u.mem))
          ∧ ∀ loc dev, at' = .at loc dev → Completes (.reply o.op status slot gen) s (fun t =>
            let v := if status = 0 then slot + gen * 2 ^ 32 else status * 2 ^ 16
            ended none t
            ∧ (∀ k < 8, Memory.read t.mem (loc + k) = byteOf v k)
            ∧ (∀ a, a < loc ∨ loc + 8 ≤ a → Memory.read t.mem a = Memory.read u.mem a)
            ∧ (status = 0 → ((o.dev, o.core, o.zone), (slot, gen), o.port) ∈ t.paths)
            ∧ (status ≠ 0 → t.paths = u.paths) ∧ OnlyMoved u t ∧ HearthsKept u t
            ∧ t = { u with
                harts := t.harts, launches := t.launches, hearths := t.hearths, kites := t.kites
                timelines := t.timelines, mem := t.mem, poison := t.poison, paths := t.paths }))))

/-- R408, R411 to R416, R421, R450: a path fails when a path-down flit names it, when it has been silent too long
while an operation waits on it, when its link goes down or after 16 retransmissions of a frame; a link that comes up
again mends no path. A replayed flit changes nothing but the count of replays that failed in a row, the eighth of
which takes the link down. A frame that is sent again goes out as it was. A frame that arrives is a kite frame of 1 to
64 flits, a PAUSE or flow control, or is dropped and counted; a kite frame acknowledges frames of its path, is taken in
where it is the next, and is acknowledged where it has a number.
Where the specification is silent this rests on the model's choices in log entries 58, 63 and 73. -/
def Obligations.PathsFailAndLinksComeBack : Prop :=
  ∀ (s : State) (dev path : Nat), (s.kites.map (·.op)).Nodup →
    let port := path % 32
    let ethernet := port = 18 ∨ port = 19
    let up := (s.portAt port).up
    let onPath := fun (d p : Nat) => decide (d = dev ∧ p = path)
    let waits := ∃ o ∈ s.kites, o.dev = dev ∧ o.port = path
    let busy := waits
      ∨ (∃ c z i y o, c < 128 ∧ z < 8 ∧ slotOf s c z i = some y ∧ (y.state = .reserved ∨ y.state = .filling)
          ∧ y.owner = some o ∧ o.dev = dev ∧ o.port = path)
    let silent := (s.tsc - ((s.lastSent.find? (fun e => decide (e.1 = keyOf dev path))).map (·.2)).getD 0).toNat
    let fails := fun (u t : State) => PathsFail u onPath t ∧ t.ports = u.ports ∧ t.svcreq = u.svcreq
      ∧ t.eth = u.eth.filter (fun e => decide (e.1 ≠ keyOf dev path))
    let down := fun (t : State) =>
      let p := { s.portAt port with up := false, downs := (s.portAt port).downs + 1, replays := 0 }
      PathsFail s (fun _ q => decide (q % 32 = port)) t ∧ t.portAt port = p
      ∧ (∀ q, q ≠ port → t.portAt q = s.portAt q)
      ∧ t.svcreq = (if 16 < p.downs then s.svcreq ||| 8 else s.svcreq)
      ∧ t.eth = s.eth.filter (fun e => decide (e.1 / 65536 % 32 ≠ port))
    let before := s.ethPath dev path
    (port < 20 → up = true → Completes (.pathDown dev path) s (fails s))
    ∧ (port < 20 → busy → (waits → (if port < 18 then 200000 else 2000000) ≤ silent) →
        Completes (.pathTimeout dev path) s (fails s))
    ∧ (port < 20 → up = true → Completes (.linkDown port) s down)
    ∧ (port < 20 → up = false → Completes (.linkUp port) s (fun t =>
        t.portAt port = { s.portAt port with up := true } ∧ (∀ q, q ≠ port → t.portAt q = s.portAt q)
        ∧ Traced t { s with ports := t.ports }))
    ∧ (∀ ok, port < 18 → up = true →
        let n := if ok then 0 else (s.portAt port).replays + 1
        (n < 8 → Completes (.flitReplay { port := port, ok := ok }) s (fun t => t.portAt port = { s.portAt port with replays := n }
          ∧ (∀ q, q ≠ port → t.portAt q = s.portAt q) ∧ t = { s with ports := t.ports }))
        ∧ (8 ≤ n → Completes (.flitReplay { port := port, ok := ok }) s down))
    ∧ (∀ n w, ethernet →
        before.unacked.find? (fun x => decide (x.frame.number = n) && decide (100000 ≤ (s.tsc - x.since).toNat)) = some w →
        let again := fun (t : State) =>
          PathNow s dev path { before with unacked := before.unacked.map (fun x =>
            if x.frame.number = n then { x with since := s.tsc, resent := x.resent + 1 } else x) } t
          ∧ t = { s with
              eth := t.eth, sent := s.sent ++ [.frame port dev w.frame]
              lastSent := putSorted (keyOf dev path) s.tsc s.lastSent }
        (w.resent + 1 < 16 → Completes (.frameRetransmit dev { port := path, number := n }) s again)
        ∧ (16 ≤ w.resent + 1 →
          Completes (.frameRetransmit dev { port := path, number := n }) s (fun t => ∃ u, again u ∧ fails u t)))
    ∧ (ethernet → up = true →
        let dropped := fun (t : State) =>
          t.portAt port = { s.portAt port with dropped := (s.portAt port).dropped + 1 }
          ∧ (∀ q, q ≠ port → t.portAt q = s.portAt q) ∧ t = { s with ports := t.ports }
        (∀ (src : BitVec 48) (ty : BitVec 16) (n flits ack : Nat), path / 32 = src.toNat →
          Completes (.ethernetFrame port (.typed src ty dev n flits ack)) s (fun t =>
            let kite := ty = s.ketype.setWidth 16 ∧ 1 ≤ flits ∧ flits ≤ 64
            (kite → ∃ u,
              let next := n = before.taken + 1 ∧ before.flits = 0
              PathNow s dev path { before with
                unacked := before.unacked.filter (fun x => decide (ack < x.frame.number))
                taken := if next then n else before.taken, flits := if next then flits else before.flits } u
              ∧ u = { s with eth := u.eth }
              ∧ (n = 0 → t = u)
              ∧ (n ≠ 0 → ∃ f x, Carries u dev port 0 .ack f ∧ Frames u dev path 0 f x
                ∧ (∀ q, t.portAt q = { s.portAt q with seq := (t.portAt q).seq })
                ∧ t = { u with
                    sent := s.sent ++ [.frame port dev x], ports := t.ports, fresh := t.fresh
                    lastSent := putSorted (keyOf dev path) s.tsc s.lastSent }))
            ∧ (¬kite → dropped t)))
        ∧ Completes (.ethernetFrame port .pause) s (· = s) ∧ Completes (.ethernetFrame port .pfc) s (· = s))

/-! ### Events of launches, dispatch and pre-emption -/

namespace Sys2Proof.Stated

/-- The field checks of R369 in the order of R370, with the REASON codes of R380: true where the field is out of its
limits. -/
def fieldChecks (r : LRecord) : List (Bool × Nat) :=
  let tl := fun (n : Nat) => decide (4096 ≤ n ∧ n ≠ 0xFFFF)
  [(decide (r.entry % 64 ≠ 0 ∨ 2 ^ 48 ≤ r.entry), 16), (decide (r.compl % 64 ≠ 0), 17), (tl r.w0tl || tl r.w1tl, 18),
    (tl r.ctl, 19), (decide (r.gsize = 0 ∨ 16 < r.gsize), 20), (decide (7 < r.prio), 21),
    (decide (r.gcount = 0 ∨ 2 ^ 24 < r.gcount), 22), (decide (7 < r.flags), 23)]

/-- The fields of a record are as wide as R369 lays them out. -/
structure Sized (r : LRecord) : Prop where
  dwords : r.entry < 2 ^ 64 ∧ r.param < 2 ^ 64 ∧ r.compl < 2 ^ 64 ∧ r.w0val < 2 ^ 64 ∧ r.w1val < 2 ^ 64 ∧ r.tag < 2 ^ 64
  words : r.gcount < 2 ^ 32 ∧ r.flags < 2 ^ 32
  halves : r.w0tl < 2 ^ 16 ∧ r.w1tl < 2 ^ 16 ∧ r.ctl < 2 ^ 16
  bytes : r.gsize < 2 ^ 8 ∧ r.prio < 2 ^ 8

/-- The 64 bytes of a completion record (R380). -/
def completionBytes (status reason launch tag tstart tend energy fval fgang frank : Nat) : List Byte :=
  [BitVec.ofNat 8 status, BitVec.ofNat 8 reason, 0, 0] ++ leBytes 4 launch ++ leBytes 8 tag ++ leBytes 8 tstart
  ++ leBytes 8 tend ++ leBytes 8 energy ++ leBytes 8 fval ++ leBytes 4 fgang ++ [BitVec.ofNat 8 frank] ++ leBytes 11 0

/-- Queue q has records to take in, and of all such queues it comes first after the one served last (R374). -/
def Serves (s : State) (q : Nat) : Prop :=
  let full := fun (p : Nat) => (s.queueAt p).qenable.getLsbD 0 = true ∧ (s.queueAt p).error = false
    ∧ (s.queueAt p).tail ≠ (s.queueAt p).head
  let turn := fun (p : Nat) => (p + 63 - s.servedLast % 64) % 64
  q < 64 ∧ full q ∧ ∀ p < 64, full p → turn q ≤ turn p

/-- The next gang of launch l is the one candidate of R376, and nothing blocks. -/
structure Lone (s : State) (l : Launch) : Prop where
  mem : l ∈ s.launches
  serials : (s.launches.map (·.serial)).Nodup
  state : l.state = .eligible ∨ l.state = .dispatching
  left : l.nextGang < l.gcount
  prio : l.prio ≤ 7
  gangs : ∀ k ∈ s.launches, ∀ g ∈ k.gangs, g.state ≠ .resumable
  others : ∀ k ∈ s.launches, k ≠ l → (k.state = .eligible ∨ k.state = .dispatching) → k.gcount ≤ k.nextGang
  block : s.blocking = none

/-- The free harts of a hearth in rising HARTID (R377, R440). -/
def freeOn (s : State) (k : Nat) : List Nat :=
  ((List.range 16).map (16 * k + ·)).filter (fun h =>
    (s.hartAt h).place.isNone && !(s.core (h / 4)).retired)

/-- Harts after a placement: those of the gang start their launch (R49), and every other one is as before, but for what
lane groups it asks for. -/
def Started (s : State) (l : Launch) (hs : List Nat) (t : State) : Prop :=
  (∀ r h, hs[r]? = some h →
    let x := t.hartAt h
    let y := s.hartAt h
    x.place = some { serial := l.serial, gang := l.nextGang, rank := r } ∧ x.placedTsc = s.tsc ∧ x.pc = l.entry
    ∧ (∀ n < 32, x.gget n = if n = 1 then l.param else 0) ∧ (∀ n < 48, x.vget n = 0) ∧ (∀ n < 32, x.pget n = 0)
    ∧ x.tiles = [] ∧ x.queue = [] ∧ x.held = [] ∧ x.waiting = [] ∧ x.ckpt = none ∧ x.binds = [] ∧ x.wait = none
    ∧ x.sup = false ∧ x.vcfg = 0x8000 ∧ x.vmsk = 0 ∧ x.mscale = 0x600000 ∧ x.fpmode = 0 ∧ x.fpflags = 0
    ∧ x.sckm = 0 ∧ x.heblim = 0 ∧ x.mirror = l.mirror ∧ x.miract = false ∧ x.trapvec = l.tvec
    ∧ (x.trapcause, x.trappc, x.trapmem, x.trapelem, x.trapval, x.trapspc)
        = (y.trapcause, y.trappc, y.trapmem, y.trapelem, y.trapval, y.trapspc)
    ∧ (x.psup, x.sscratch, x.retiredLanes) = (y.psup, y.sscratch, y.retiredLanes) ∧ x.dbg = y.dbg)
  ∧ (∀ h, h ∉ hs → t.hartAt h = { s.hartAt h with laneSince := (t.hartAt h).laneSince, laneShort := (t.hartAt h).laneShort })

/-- Hart h was saved for its rank (R318, R389, R390): the hart is free, and the rank of its gang holds a context with
all that the hart held, and its image, whose stop record has KIND 2 and the address at which the scalar unit goes on
(R326); a store that waits for room has not happened yet. -/
def SavedOff (s : State) (h : Nat) (p : Place) (l : Launch) (g : Gang) (t : State) : Prop :=
  let x := s.hartAt h
  (t.hartAt h).place = none ∧ (t.hartAt h).queue = [] ∧ (t.hartAt h).held = [] ∧ (t.hartAt h).tiles = []
  ∧ (∀ i < 4, (t.core (h / 4)).groups[i]? ≠ some (.holds h))
  ∧ ∃ l' g' c, l' ∈ t.launches ∧ l'.serial = l.serial ∧ g' ∈ l'.gangs ∧ g'.index = g.index
    ∧ g'.ranks = g.ranks.set p.rank (.saved c)
    ∧ (c.g, c.v, c.p, c.tiles) = (x.g, x.v, x.p, x.tiles) ∧ c.sup = x.sup
    ∧ c.pc = (if x.waiting = [] then x.pc else x.pc - 4) ∧ c.waiting = []
    ∧ leNat (c.image.take 4) = 0x58435842 ∧ c.image[0x40]? = some 2 ∧ leNat ((c.image.drop 0x48).take 8) = c.pc.toNat
    ∧ c.queue = x.queue.map (fun e => { e with begun := false }) ∧ c.held = x.held
    ∧ c.stopped = x.stopped ∧ c.wait = x.wait ∧ c.ckpt = x.ckpt ∧ c.binds = x.binds ∧ c.vcfg = x.vcfg ∧ c.place = x.place
    ∧ (g'.state = if g'.ranks.any (fun r => match r with
        | .on _ => true
        | _ => false) then g.state else if g.state = .stopping then (if g.swapped then .saved else .resumable) else g.state)

/-- A packet that carries this message to a device over a port (R408, R415). -/
def tells (port dev : Nat) (m : KMsg) : Packet → Prop
  | .flit q d f => q = port ∧ d = dev ∧ f.msg = m
  | .frame q d f => q = port ∧ d = dev ∧ f.flits.map (·.msg) = [m]

/-- Gang g of launch m, one rank on hart h of hearth k, is the only one that runs; every hearth has too few free harts
for the next gang of l, and with h free hearth k has enough. -/
structure Crowded (s : State) (l m : Launch) (g : Gang) (k h : Nat) : Prop where
  lone : Lone s l
  passed : l.passedSince ≠ none
  mem : m ∈ s.launches ∧ g ∈ m.gangs ∧ m ≠ l ∧ m.state ≠ .complete
  gang : g.state = .running ∧ g.ranks = [.on h] ∧ g.hearth = k
  indices : (m.gangs.map (·.index)).Nodup
  idle : ∀ n ∈ s.launches, ∀ e ∈ n.gangs, (n = m ∧ e = g) ∨ (e.ranks = e.ranks.map (fun _ => Rank.halted) ∧ e.state = .running)
  hart : k < 32 ∧ h / 16 = k ∧ (s.hartAt h).place = some { serial := m.serial, gang := g.index, rank := 0 }
    ∧ (s.core (h / 4)).retired = false ∧ (s.hartAt h).dbg.halted = false
  crowded : ∀ j < 32, (freeOn s j).length < l.gsize
  enough : l.gsize ≤ (freeOn s k).length + 1

end Sys2Proof.Stated

/-- R370, R372 to R375, R379 to R382, R420: the next record of the queue whose turn it is is accepted with a serial,
or rejected with a completion record that names its first failing field, and HEAD moves on. A pending launch becomes
ELIGIBLE once its waits are met; a draining one with no engine operation left writes its completion record and ends
its ticket, and the devices to which it had paths are told, where the slots that it owned fail (R269); the energy of
its last window is a measured value (log 12). The host's kill drains the launch of its serial.
Where the specification is silent this rests on the model's choices in log entries 12, 54 and 62. -/
def Obligations.RecordsAreTakenInAndLaunchesEnd : Prop :=
  ∀ (s : State),
    (∀ q r, Serves s q → Sized r → s.bars = [] → Memory.wf s.mem = true →
      let x := s.queueAt q
      let root := x.qroot.toNat / 2 ^ 12 % 2 ^ 40 * 2 ^ 12
      let bad := (fieldChecks r).find? (·.1)
      let moved := fun (t : State) => (t.queueAt q) = { x with head := x.head + 1 } ∧ t.servedLast = q
        ∧ (∀ p, p ≠ q → t.queueAt p = s.queueAt p)
      Memory.reads s.mem (x.qbase.toNat + 64 * (x.head.toNat % x.qsize.toNat)) 64 = launchBytes r →
      (bad = none → poolHeld s < Config.poolSize → Completes (.recordIntake q) s (fun t => moved t
        ∧ (∃ l, t.launches = s.launches ++ [l] ∧ l.serial = s.nextSerial ∧ l.state = .pending ∧ l.inPool = true
          ∧ l.kill = none ∧ l.gangs = [] ∧ l.nextGang = 0 ∧ l.queue = some q
          ∧ (l.entry, l.param, l.compl) = (BitVec.ofNat 64 r.entry, BitVec.ofNat 64 r.param, BitVec.ofNat 64 r.compl)
          ∧ (l.w0tl, l.w0val, l.w1tl, l.w1val) = (r.w0tl, BitVec.ofNat 64 r.w0val, r.w1tl, BitVec.ofNat 64 r.w1val)
          ∧ l.ctl = r.ctl ∧ l.ticket = ticketOn s r.ctl ∧ l.gsize = r.gsize ∧ l.gcount = r.gcount
          ∧ l.prio = min r.prio x.priomax.toNat ∧ l.tag = BitVec.ofNat 64 r.tag ∧ l.root = root ∧ l.tvec = x.qtvec
          ∧ (l.mirror, l.rewind, l.charged) = (r.flags.testBit 0, r.flags.testBit 1, r.flags.testBit 2))
        ∧ t.nextSerial = (if s.nextSerial + 1 = 0 then 1 else s.nextSerial + 1) ∧ Timed s r.ctl (ticketed s r.ctl) t
        ∧ t = { s with launches := t.launches, nextSerial := t.nextSerial, timelines := t.timelines
                       transit := t.transit, uecount := t.uecount, queues := t.queues, servedLast := q }))
      ∧ (∀ reason, bad = some (true, reason) → Completes (.recordIntake q) s (fun t => moved t
        ∧ (r.compl % 64 = 0 → r.compl ≠ 0 → ¬(0xC00000000000 ≤ r.compl ∧ r.compl < 0xC00000200000) → ∀ loc dev,
          s.translate 0 root false .engine .store (BitVec.ofNat 64 r.compl) = .at loc dev →
          (∀ k b, (completionBytes 2 reason 0 r.tag 0 s.tsc.toNat 0 0 0 0)[k]? = some b → Memory.read t.mem (loc + k) = b)
          ∧ (∀ a, a < loc ∨ loc + 64 ≤ a → Memory.read t.mem a = Memory.read s.mem a))
        ∧ (r.compl = 0 → t.mem = s.mem)
        ∧ (timelineOk r.ctl → r.ctl ≠ 0xFFFF → let n := s.timeline r.ctl
          (t.timeline r.ctl).next = n.next + 1 ∧ (n.value = n.next → n.done = [] → (t.timeline r.ctl).value = n.next + 1)
          ∧ (n.err = false → (t.timeline r.ctl).err = true ∧ (t.timeline r.ctl).ecode = 0 ∧ (t.timeline r.ctl).ekind = 4
            ∧ (t.timeline r.ctl).eticket = n.next + 1
            ∧ (t.timeline r.ctl).eaddr = if r.compl % 64 = 0 then BitVec.ofNat 64 r.compl else 0))
        ∧ (¬timelineOk r.ctl ∨ r.ctl = 0xFFFF → t.timelines = s.timelines)
        ∧ t = { s with
            timelines := t.timelines, mem := t.mem, poison := t.poison, transit := t.transit, uecount := t.uecount
            queues := t.queues, servedLast := q })))
    ∧ (∀ l, s.launchOf l.serial = some l → l.state = .pending →
      (l.w0tl = 0xFFFF ∨ l.w0val.toNat ≤ (s.timeline l.w0tl).value.toNat) →
      (l.w1tl = 0xFFFF ∨ l.w1val.toNat ≤ (s.timeline l.w1tl).value.toNat) →
      Completes (.launchEligible l.serial) s (· = { s with launches := s.launches.map (fun k =>
        if k.serial = l.serial ∧ k.state ≠ .complete then { k with state := .eligible } else k) }))
    ∧ (∀ l, s.launchOf l.serial = some l → l.state = .draining → s.bars = [] →
      Memory.wf s.mem = true →
      (∀ o ∈ s.kites, o.serial ≠ l.serial) → (∀ c < 128, ∀ o ∈ (s.core c).copies, o.serial ≠ l.serial) →
      (∀ c z i y o, slotOf s c z i = some y → y.owner = some o → o.launch = l.serial →
        o.port = 31 ∨ o.dev = s.devnum.toNat → y.state ≠ .reserved ∧ y.state ≠ .filling) →
      ∀ loc dev, (l.compl = 0 ∨ (¬(0xC00000000000 ≤ l.compl.toNat ∧ l.compl.toNat < 0xC00000200000)
        ∧ s.translate 0 l.root false .engine .store l.compl = .at loc dev)) →
      Completes (.launchComplete { dev := s.devnum.toNat, serial := l.serial }) s (fun t => ∃ e,
        let whole := l.energy + e
        let energy := if l.charged then whole / 1000000 else 0
        let kill := l.kill.getD { reason := 0, fval := 0, fgang := 0, frank := 0 }
        let status := if l.kill.isSome then 1 else 0
        t.unattr = s.unattr + (whole - 1000000 * energy)
        ∧ (l.compl = 0 → t.mem = s.mem)
        ∧ (l.compl ≠ 0 →
          (∀ k b, (completionBytes status kill.reason l.serial.toNat l.tag.toNat l.tstart.toNat s.tsc.toNat energy
              kill.fval.toNat kill.fgang kill.frank)[k]? = some b → Memory.read t.mem (loc + k) = b)
          ∧ (∀ a, a < loc ∨ loc + 64 ≤ a → Memory.read t.mem a = Memory.read s.mem a))
        ∧ t.launches = s.launches.map (fun k =>
            if k.serial = l.serial ∧ k.state ≠ .complete then { k with state := .complete } else k)
        ∧ Finished s l.ctl l.ticket (if l.kill.isSome then some (0, 4, l.compl) else none) t
        ∧ t.msix = (match l.queue with
            | some q => if (s.queueAt q).qirq.getLsbD 0 then q :: s.msix else s.msix
            | none => s.msix)
        ∧ (∀ e ∈ s.paths, e.2.2 % 32 < 20 → ∃ x ∈ t.sent, tells (e.2.2 % 32) e.1.1 (.ended l.serial) x)
        ∧ ((∀ e ∈ s.paths, 20 ≤ e.2.2 % 32) → t.sent = s.sent)
        ∧ Traced t { s with
            unattr := t.unattr, fresh := t.fresh, mem := t.mem, poison := t.poison, launches := t.launches
            timelines := t.timelines, msix := t.msix, sent := t.sent, ports := t.ports, lastSent := t.lastSent
            eth := t.eth }))
    ∧ (∀ dev serial, dev ≠ s.devnum.toNat → Completes (.launchComplete { dev := dev, serial := serial }) s (fun t =>
        (∀ c z i, slotOf t c z i = (slotOf s c z i).map (fun y =>
          if (y.state = .reserved ∨ y.state = .filling)
              ∧ (∃ o, y.owner = some o ∧ o.launch = serial ∧ o.port ≠ 31 ∧ o.dev = dev)
          then { y with state := .failed, len := 0 } else y))
        ∧ (∀ c < 128, ∀ z < 8, ∀ i y o, slotOf s c z i = some y → y.state = .filling → y.owner = some o → o.launch = serial →
            o.port % 32 < 20 → o.dev = dev → ∃ x ∈ t.sent, tells (o.port % 32) dev (.rejection o.op false) x)
        ∧ t.launches = s.launches ∧ t.kites = s.kites ∧ t.timelines = s.timelines))
    ∧ (∀ v : BitVec 64, (s.launchOf (v.setWidth 32) = none → Completes (.killWrite v) s (· = s))
      ∧ ∀ l, s.launchOf (v.setWidth 32) = some l → Completes (.killWrite v) s (fun t =>
        (∃ l', t.launchOf l.serial = some l' ∧ l'.state = .draining ∧ l'.inPool = false
          ∧ l'.kill = (if l.kill.isSome then l.kill else some { reason := 4, fval := 0, fgang := 0, frank := 0 })
          ∧ ∀ g ∈ l'.gangs, ∀ r ∈ g.ranks, r = .halted)
        ∧ (∀ g ∈ l.gangs, ∀ h < 512, Rank.on h ∈ g.ranks → (t.hartAt h).place = none ∧ (t.hartAt h).queue = []
          ∧ (t.hartAt h).held = [] ∧ (t.hartAt h).tiles = [] ∧ (t.hartAt h).ckpt = none ∧ (t.hartAt h).wait = none)))

/-- R375 to R379, R49, R385, R387 to R392: the dispatch unit places the one candidate, the next gang of launch l, on
the parent's hearth where it fits and else on the lowest-numbered hearth that it fits: its harts start the launch,
each with a lane group where its core has one free. A candidate passed over for 10 µs blocks. Where one gang of lower
priority is in its way, that gang is asked to stop; a hart that reaches no strip boundary in 20 µs is saved at its
commit front; a gang parked for 2 µs is swapped out, and it is resumable once its wait is over. A hart 20 µs without a
lane group takes one of the hart that holds most.
Where the specification is silent this rests on the model's choices in log entries 4, 15, 19, 51, 64, 65, 71 and 88.
-/
def Obligations.GangsArePlacedStoppedAndResumed : Prop :=
  ∀ (s : State),
    (∀ (l : Launch) (k : Nat), Lone s l → k < 32 → 1 ≤ l.gsize → l.gsize ≤ (freeOn s k).length → s.noDispatch = false →
      (s.hearth k).gated = false → (∀ x ∈ s.contexts, x.wait ≠ some .slot) →
      (match l.parentHearth with
        | some j => j = k ∨ (∀ i < k, (freeOn s i).length < l.gsize) ∧ (j < 32 → (freeOn s j).length < l.gsize)
        | none => ∀ i < k, (freeOn s i).length < l.gsize) →
      let hs := (freeOn s k).take l.gsize
      let last := l.nextGang + 1 = l.gcount
      Completes .gangDispatch s (fun t =>
        Started s l hs t
        ∧ (∀ h ∈ hs, (∀ i < 4, (s.core (h / 4)).groups[i]? = some .free) →
            (∀ j, j / 4 = h / 4 → (s.hartAt j).laneShort = 0 ∨ (s.hartAt j).laneSince = none) →
            ((List.range 4).filter (fun i => decide ((t.core (h / 4)).groups[i]? = some (.holds h)))).length = 1)
        ∧ t.launches = s.launches.map (fun m => if m.serial = l.serial then { m with
            state := if last then .running else .dispatching, inPool := m.inPool && !decide last
            tstart := if m.nextGang = 0 then s.tsc else m.tstart, nextGang := m.nextGang + 1, passedSince := none
            gangs := m.gangs ++ [{ index := m.nextGang, hearth := k, ranks := hs.map Rank.on, state := .running, phase := 0
                                   arrived := 0, ggrant := 0, ring := [], swapped := false, passedSince := none }] } else m)
        ∧ (∀ c, t.core c = { s.core c with groups := (t.core c).groups })
        ∧ ∃ hearths, t = { s with harts := t.harts, cores := t.cores, launches := t.launches, stamp := t.stamp
                                  hearths := hearths, rings := t.rings, devFlue := t.devFlue }))
    ∧ (∀ (l : Launch) (t₀ : Word), Lone s l → l.passedSince = some t₀ → 10000 ≤ (s.tsc - t₀).toNat →
      Completes .candidateBlocking s (· = { s with blocking := some (l.serial, none) }))
    ∧ (∀ (l m : Launch) (g : Gang) (k h : Nat), Crowded s l m g k h →
      let x := s.hartAt h
      let p : Place := { serial := m.serial, gang := g.index, rank := 0 }
      (m.prio < l.prio →
        (x.wait = none ∨ x.sup = true → Completes .preemption s (· = { s.setHartAt h { x with stopping := some s.tsc } with
          launches := withGang s p (fun g => { g with state := .stopping, swapped := false }) }))
        ∧ (x.wait ≠ none → x.sup = false → Completes .preemption s
            (SavedOff s h p m { g with state := .stopping, swapped := false })))
      ∧ (∀ w, x.wait = some w → s.waitOver x w = false → 2000 ≤ (s.tsc - x.parkedTsc).toNat → x.sup = false →
        Completes .swapOut s (SavedOff s h p m { g with state := .stopping, swapped := true })))
    ∧ (∀ (h : Nat) (p : Place) (l : Launch) (g : Gang) (t₀ : Word), h < 512 → (s.hartAt h).place = some p →
      (s.hartAt h).stopping = some t₀ → 20000 ≤ (s.tsc - t₀).toNat → (s.hartAt h).sup = false →
      (s.hartAt h).dbg.halted = false → s.launchOf p.serial = some l → g ∈ l.gangs → g.index = p.gang →
      p.rank < g.ranks.length → (l.gangs.map (·.index)).Nodup →
      Completes (.preemptCommitFront h) s (SavedOff s h p l g))
    ∧ (∀ (l : Launch) (g : Gang) (c : Hart) (w : Wait), s.launchOf l.serial = some l →
      l.gangs.find? (fun e => decide (e.index = g.index)) = some g → g.state = .saved → .saved c ∈ g.ranks →
      c.wait = some w → s.waitOver c w = true →
      Completes (.gangResumable l.serial g.index) s (· = { s with
        launches := withGang s { serial := l.serial, gang := g.index, rank := 0 }
          (fun g => { g with state := .resumable }) }))
    ∧ (∀ (c h m i : Nat), c < 128 → h / 4 = c → m / 4 = c → (s.hartAt h).place ≠ none → s.lgrant h = 0 →
      20000 ≤ (s.tsc - (s.hartAt h).placedTsc).toNat → (s.hartAt h).laneSince ≠ none → (s.hartAt h).laneShort = 1 →
      2 ≤ s.lgrant m → (s.hartAt m).dbg.halted = false → (s.hartAt m).sup = false → (∀ k, k / 4 = c →
          s.lgrant k ≤ s.lgrant m ∧ (k < m → s.lgrant k < s.lgrant m)) →
      (∀ k, k / 4 = c → k ≠ h → s.lgrant k = 0 → (s.hartAt k).laneShort = 0 ∨ (s.hartAt k).laneSince = none) →
      (s.core c).groups[i]? = some (.holds m) → (∀ j, i < j → (s.core c).groups[j]? ≠ some (.holds m)) →
      Completes (.laneGroupTimeout c) s (fun t =>
        (∀ j < 4, (t.core c).groups[j]? = if j = i then some (.holds h) else (s.core c).groups[j]?)
        ∧ t = { s.setHartAt h { s.hartAt h with laneShort := 0, laneSince := none } with cores := t.cores }
        ∧ (∀ k, k ≠ c → t.core k = s.core k) ∧ t.core c = { s.core c with groups := (t.core c).groups }))

/-! ### Events of the host -/

namespace Sys2Proof.Stated

/-- t is s but for launch queue q, which is x. -/
def QueueNow (s : State) (q : Nat) (x : LQueue) (t : State) : Prop :=
  t.queueAt q = x ∧ (∀ p, p ≠ q → t.queueAt p = s.queueAt p) ∧ t = { s with queues := t.queues, msix := t.msix }

/-- A ring that a write of 1 to QENABLE accepts (R374, R466). -/
def ringFits (x : LQueue) : Prop :=
  x.qbase.toNat % 64 = 0 ∧ (∃ i ≤ 16, x.qsize.toNat = 2 ^ i) ∧ x.qbase.toNat + 64 * x.qsize.toNat ≤ 0x8F80000000
  ∧ (x.tail - x.head).toNat ≤ x.qsize.toNat

/-- What a device reset leaves (R465): memory, poison marks and retired parts as they were, everything else cleared,
and the BAR0 registers at their Reset values (R419, R425, R441, R451, R460). -/
structure AfterReset (s t : State) : Prop where
  memory : t.mem = s.mem ∧ t.poison = s.poison
  harts : ∀ h < 512, (t.hartAt h).place = none ∧ (t.hartAt h).queue = [] ∧ (t.hartAt h).held = [] ∧ (t.hartAt h).waiting = []
    ∧ (t.hartAt h).binds = [] ∧ (t.hartAt h).ckpt = none ∧ (t.hartAt h).tiles = [] ∧ (t.hartAt h).trapvec = 0
    ∧ (t.hartAt h).sscratch = 0 ∧ (t.hartAt h).dbg = Debug.reset
  cores : ∀ c < 128, (t.core c).copies = [] ∧ (∀ z, slotOf t c z 0 = none) ∧ (t.core c).suspect = 0
    ∧ (t.core c).retiredLanes = (s.core c).retiredLanes ∧ (t.core c).retired = (s.core c).retired
  hearths : ∀ k < 32, (t.hearth k).ngrams = [] ∧ (t.hearth k).flue = [] ∧ (t.hearth k).gated = false
  tables : t.timelines = [] ∧ t.prefixes = [] ∧ t.routes = [] ∧ t.launches = [] ∧ t.kites = [] ∧ t.fabric = [] ∧ t.bars = []
  serial : t.nextSerial = 1
  queues : ∀ q < 64, t.queueAt q = LQueue.reset
  rings : ∀ r < 33, t.ring r = Ring.reset
  ports : ∀ p < 20, t.portAt p = Port.reset
  registers : t.devnum = 0 ∧ t.ready = false ∧ t.cxlmem = false ∧ t.cxlcache = false ∧ t.svcreq = 0 ∧ t.ketype = 0x88B5
    ∧ t.unattr = 0 ∧ t.cehbm = 0 ∧ t.cesram = 0 ∧ t.uecount = 0 ∧ t.ueaddr = 0 ∧ t.fwsrc = 0 ∧ t.fwlen = 0 ∧ t.fw = .idle
    ∧ t.pwrcap = 2400 ∧ t.pwrnow = 0 ∧ t.temp = 0 ∧ t.pgate = 1 ∧ t.tsc = 0 ∧ t.tscSync = false ∧ t.lowering = false
  links : t.sent = [] ∧ t.lastSent = [] ∧ t.eth = [] ∧ t.paths = []

/-- 32-bit word i of some bytes. -/
def wordOfBytes (bs : List Byte) (i : Nat) : Nat := leNat ((bs.drop (4 * i)).take 4)

/-- A firmware image whose magic and sum agree (R466): the sum covers every word but the second. -/
def imageFits (bs : List Byte) : Prop :=
  wordOfBytes bs 0 = 0x58465731
  ∧ ((List.range (bs.length / 4)).map (fun i => if i = 1 then 0 else wordOfBytes bs i)).sum % 2 ^ 32 = wordOfBytes bs 1

/-- Is a location in a scratchpad or scalar data memory of hearth k? -/
def localTo (k a : Nat) : Prop :=
  (Config.spadLoc + 4 * k * 0x200000 ≤ a ∧ a < Config.spadLoc + 4 * (k + 1) * 0x200000)
  ∨ (Config.sdmLoc + 4 * k * 0x10000 ≤ a ∧ a < Config.sdmLoc + 4 * (k + 1) * 0x10000)

/-- What the cores held of the hearths that `lost` names reads as zero, and its poison marks are gone (R464). -/
def Emptied (s : State) (lost : Nat → Prop) (t : State) : Prop :=
  (∀ a, (∃ k, lost k ∧ localTo k a) → Memory.read t.mem a = 0)
  ∧ (∀ a, ¬(∃ k, lost k ∧ localTo k a) → Memory.read t.mem a = Memory.read s.mem a)
  ∧ (∀ a, a ∈ t.poison ↔ a ∈ s.poison ∧ ¬∃ k, lost k ∧ localTo k a)

/-- Two events have the same outcome. -/
def SameAs (s : State) (a b : Instr) : Prop := ∃ t, exec a s = .next t ∧ exec b s = .next t

end Sys2Proof.Stated

/-- R374, R417 to R421, R425, R438, R441, R451, R452, R460, R342, R464 to R466. The host's writes with a row of their
own, and its reads: TAIL, QENABLE with its checks, TLRESET while NEXT equals VALUE, SVCREQ and LANESTAT that clear by
ones, PGATE, TLVALUE and TRHEAD; memory through CXL.mem, where the firmware region reads as ones and takes no write
and damage is indicated; the host also writes its own memory, whence the device fetches its firmware. TLBINV changes
nothing here, since no translation is ever stale (the model's, log 8). A write of an aligned register of BAR0 stores
what its Access column lets it, or does what its own row does; a write to a misaligned or unlisted offset or a
read-only register is ignored. A device reset keeps memory, poison and retired parts and clears the rest; a write of
the key to RESET is one. The firmware load starts with GO and ends DONE, with READY, where magic and sum agree, and
FAILED otherwise, as it does where the image does not lie in host memory. A hearth that PGATE powers up finds its
scratchpads and scalar data memories zero.
Where the specification is silent this rests on the model's choices in log entries 5, 8, 61, 68, 74 and 96. -/
def Obligations.TheHostActsOnTheDevice : Prop :=
  (∀ (s : State) (v : Word),
      (∀ q < 64, let x := s.queueAt q
        (let y := { x with tail := v.setWidth 32 }
         let excess := x.qenable.getLsbD 0 = true ∧ x.error = false ∧ x.qsize.toNat < (y.tail - y.head).toNat
         (¬excess → Completes (.tailWrite q v) s (fun t => QueueNow s q y t ∧ t.msix = s.msix))
         ∧ (excess → Completes (.tailWrite q v) s (fun t => QueueNow s q { y with error := true } t ∧ t.msix = 65 :: s.msix)))
        ∧ (v.getLsbD 0 = false →
            Completes (.qenableWrite q v) s (fun t => QueueNow s q { x with qenable := 0, error := false } t ∧ t.msix = s.msix))
        ∧ (v.getLsbD 0 = true → s.cxlmem = true → s.cxlcache = true →
          (ringFits x → Completes (.qenableWrite q v) s (fun t =>
            QueueNow s q { x with qenable := 1, error := false } t ∧ t.msix = s.msix))
          ∧ (¬ringFits x → Completes (.qenableWrite q v) s (fun t =>
            QueueNow s q { x with qenable := 1, error := true } t ∧ t.msix = 65 :: s.msix)))
        ∧ (v.getLsbD 0 = true → s.cxlmem = false ∨ s.cxlcache = false → Completes (.qenableWrite q v) s (· = s)))
      ∧ (∀ n < 4096, let l := s.timeline n
        (l.next = l.value → Completes (.tlresetWrite n v) s (fun t =>
          t.timeline n = { value := v, next := v, err := false, ecode := 0, ekind := 0, eticket := 0, eaddr := 0, done := [] }
          ∧ (∀ m, m ≠ n → t.timeline m = s.timeline m) ∧ t = { s with timelines := t.timelines }))
        ∧ (l.next ≠ l.value → Completes (.tlresetWrite n v) s (· = s))
        ∧ Completes (.tlvalueRead n) s (· = { s with hostData := leBytes 8 l.value.toNat }))
      ∧ Completes (.svcreqClear v) s (fun t => t = { s with svcreq := t.svcreq }
          ∧ ∀ i < 64, t.svcreq.getLsbD i = (s.svcreq.getLsbD i && !(decide (i < 4) && v.getLsbD i)))
      ∧ (∀ c < 128, Completes (.lanestatClear c v) s (fun t =>
          (∀ i < 32, (t.core c).suspect.getLsbD i = ((s.core c).suspect.getLsbD i && !v.getLsbD (32 + i)))
          ∧ t.core c = { s.core c with suspect := (t.core c).suspect } ∧ (∀ k, k ≠ c → t.core k = s.core k)
          ∧ t = { s with cores := t.cores }))
      ∧ (∀ r < 33, Completes (.trheadRead r) s (· = { s with hostData := leBytes 8 (s.ring r).trhead.toNat }))
      ∧ (∀ addr n, addr + n ≤ 0x9000000000 → s.cxlmem = true →
        ((∀ i < n, addr + i < 0x8F80000000 → s.damagedAt (addr + i) = false) → Completes (.hostMemRead addr n) s (fun t =>
          t.hostData.length = n ∧ t = { s with hostData := t.hostData }
          ∧ ∀ i < n, t.hostData[i]? = some (if addr + i < 0x8F80000000 then Memory.read s.mem (addr + i) else 0xFF)))
        ∧ ((∃ i < n, addr + i < 0x8F80000000 ∧ s.damagedAt (addr + i) = true) → Completes (.hostMemRead addr n) s (fun t =>
          t.hostData = [] ∧ t = { s with hostData := [], transit := t.transit, uecount := t.uecount })))
      ∧ (∀ addr (bs : List Byte), addr + bs.length ≤ 0x9000000000 → s.cxlmem = true → s.bars = [] → Memory.wf s.mem = true →
        Completes (.hostMemWrite addr bs) s (fun t =>
          (∀ a, Memory.read t.mem a = if addr ≤ a ∧ a < addr + bs.length ∧ a < 0x8F80000000 then bs.getD (a - addr) 0
            else Memory.read s.mem a)
          ∧ (∀ g, g ∈ t.poison ↔ g ∈ s.poison ∧ ¬(addr ≤ g ∧ g + granule g ≤ min (addr + bs.length) (max addr 0x8F80000000)))
          ∧ t = { s with mem := t.mem, poison := t.poison }))
      ∧ (∀ addr (bs : List Byte), 0x8000000000000 ≤ addr → addr + bs.length ≤ 0x10000000000000 → s.bars = [] →
        Memory.wf s.mem = true → Completes (.hostMemWrite addr bs) s (fun t =>
          (∀ a, Memory.read t.mem a = if addr ≤ a ∧ a < addr + bs.length then bs.getD (a - addr) 0 else Memory.read s.mem a)
          ∧ (∀ g, g ∈ t.poison ↔ g ∈ s.poison ∧ ¬(addr ≤ g ∧ g + granule g ≤ addr + bs.length))
          ∧ t = { s with mem := t.mem, poison := t.poison }))
      ∧ (s.cxlmem = false → ∀ addr n (bs : List Byte), addr + n ≤ 0x9000000000 → addr + bs.length ≤ 0x9000000000 →
        Completes (.hostMemRead addr n) s (· = s) ∧ Completes (.hostMemWrite addr bs) s (· = s))
      ∧ (∀ h < 512, (s.hartAt h).sup = true → (∀ i < 64, v.getLsbD i = true → i = 0 ∨ (12 ≤ i ∧ i ≤ 47)) →
        Completes (.tlbinv h v) s (· = s))
      ∧ (v.getLsbD 0 = true → Completes (.pgateWrite v) s (· = { s with pgate := 1 }))
      ∧ (v.getLsbD 0 = false → Completes (.pgateWrite v) s (fun t =>
          (∀ k < 32, (t.hearth k).gated = false ∧ (t.hearth k).gating = none ∧ (t.hearth k).ngrams = (s.hearth k).ngrams)
          ∧ Emptied s (fun k => k < 32 ∧ (s.hearth k).gated = true) t
          ∧ Traced t { s with pgate := 0, mem := t.mem, poison := t.poison })))
  ∧ (∀ (s : State) (v : Word),
      let write := fun (off : Nat) => Instr.hostRegisterWrite off v
      let sets := fun (off : Nat) (u : State) => Completes (write off) s (· = u)
      sets 0x08 { s with devnum := v &&& 0xFFFF } ∧ sets 0x28 { s with ketype := v &&& 0xFFFF }
      ∧ sets 0x88 { s with fwsrc := v &&& 0xFFFFFFFFFFFFF } ∧ sets 0x90 { s with fwlen := v &&& 0xFFFFFFFF }
      ∧ sets 0xA0 (if 600 ≤ v.toNat % 4096 ∧ v.toNat % 4096 ≤ 2400 then { s with pwrcap := BitVec.ofNat 64 (v.toNat % 4096) } else s)
      ∧ SameAs s (write 0x18) (.svcreqClear v) ∧ SameAs s (write 0x20) (.killWrite v) ∧ SameAs s (write 0x80) (.resetWrite v)
      ∧ SameAs s (write 0x98) (.firmwareLoad v) ∧ SameAs s (write 0xB0) (.pgateWrite v)
      ∧ (∀ q < 64, let at' := 0x10000 + 128 * q
        let x := s.queueAt q
        let free := x.qenable.getLsbD 0 = false
        let stores := fun (off : Nat) (y : LQueue) => Completes (write (at' + off)) s (fun t => QueueNow s q y t
            ∧ t.msix = s.msix)
        (free → stores 0 { x with qbase := v } ∧ stores 8 { x with qsize := v } ∧ stores 0x10 { x with qasid := v }
          ∧ stores 0x18 { x with qroot := v } ∧ stores 0x50 { x with qtvec := v &&& 0xFFFFFFFFFFC0 })
        ∧ (¬free → ∀ off ∈ [0, 8, 0x10, 0x18, 0x50], sets (at' + off) s)
        ∧ stores 0x20 { x with priomax := v &&& 7 } ∧ stores 0x48 { x with qirq := v &&& 1 }
        ∧ SameAs s (write (at' + 0x28)) (.qenableWrite q v) ∧ SameAs s (write (at' + 0x30)) (.tailWrite q v)
        ∧ sets (at' + 0x38) s ∧ sets (at' + 0x40) s)
      ∧ (∀ p < 20, Completes (write (0x20008 + 64 * p)) s (fun t =>
          t.portAt p = (if 18 ≤ p then { s.portAt p with vlan := v &&& 0x1FFF } else s.portAt p)
          ∧ (∀ k, k ≠ p → t.portAt k = s.portAt k) ∧ t = { s with ports := t.ports }) ∧ sets (0x20000 + 64 * p) s)
      ∧ (∀ c < 128, SameAs s (write (0x30000 + 8 * c)) (.lanestatClear c v))
      ∧ (∀ r < 33, let at' := 0x40000 + 64 * r
        let g := s.ring r
        let idle := g.trhead = g.trtail
        let stores := fun (off : Nat) (y : Ring) => Completes (write (at' + off)) s (fun t =>
          t.ring r = y ∧ (∀ k, k ≠ r → t.ring k = s.ring k) ∧ t = { s with rings := t.rings })
        (idle → stores 0 { g with trbase := v } ∧ stores 8 { g with trsize := v }) ∧ (¬idle → sets at' s ∧ sets (at' + 8) s)
        ∧ stores 0x10 { g with trmask := v } ∧ stores 0x20 { g with trtail := v.setWidth 32 }
        ∧ sets (at' + 0x18) s ∧ sets (at' + 0x28) s)
      ∧ (∀ n < 4096, SameAs s (write (0x100008 + 16 * n)) (.tlresetWrite n v) ∧ sets (0x100000 + 16 * n) s)
      ∧ (∀ n < 262144, Completes (write (0x400000 + 8 * n)) s (fun t =>
          (∀ d r, r < 4 → t.route d r = if 4 * d + r = n then v &&& 0xFFFFFFFFFFFF003F else s.route d r)
          ∧ t = { s with routes := t.routes }))
      ∧ (∀ h < 512, let at' := 0x800000 + 64 * h
        let x := s.hartAt h
        let d := x.dbg
        (v.getLsbD 1 = true → v.getLsbD 2 = true → sets at' s)
        ∧ (v.getLsbD 1 = false → v.getLsbD 2 = false →
            sets at' (s.setHartAt h { x with dbg := { d with own := v.getLsbD 0, step := v.getLsbD 3 } }))
        ∧ (∀ off ∈ [8, 0x10, 0x18, 0x20, 0x28], sets (at' + off) s)
        ∧ (v.getLsbD 0 = false → SameAs s (write (at' + 0x30)) (.dimgSave h v))
        ∧ (v.getLsbD 0 = true → SameAs s (write (at' + 0x30)) (.dimgLoad h v))
        ∧ sets (at' + 0x38) (s.setHartAt h { x with dbg := { d with dsample := v &&& 0xFFFFFFFF } }))
      ∧ (∀ off, off % 8 ≠ 0 ∨ off ∈ [0, 0x10, 0x30, 0x38, 0x40, 0x48, 0x50, 0x58, 0x60, 0x68, 0x70, 0x78, 0xA8] ∨ 0xB8 ≤ off ∧ off < 0x10000
          ∨ 0x12000 ≤ off ∧ off < 0x20000 ∨ 0x20500 ≤ off ∧ off < 0x30000 ∨ 0x30400 ≤ off ∧ off < 0x40000
          ∨ 0x40840 ≤ off ∧ off < 0x100000 ∨ 0x110000 ≤ off ∧ off < 0x400000 ∨ 0x600000 ≤ off ∧ off < 0x800000
          ∨ 0x808000 ≤ off → sets off s)
      ∧ Completes .deviceReset s (AfterReset s)
      ∧ (v = 0x5245534554000001 → Completes (.resetWrite v) s (AfterReset s))
      ∧ (v ≠ 0x5245534554000001 → Completes (.resetWrite v) s (· = s))
      ∧ Completes (.firmwareLoad v) s (· = if v.getLsbD 0 = true then { s with fw := .loading } else s)
      ∧ (s.fw = .loading →
        let pa := 0x8000000000000 + s.fwsrc.toNat % 2 ^ 52
        let bs := Memory.reads s.mem pa (s.fwlen.toNat % 2 ^ 32)
        let inside := pa + s.fwlen.toNat % 2 ^ 32 ≤ 0x10000000000000
        (∀ bad, bad = true ∨ ¬inside → Completes (.firmwareLoadDone bad) s (· = { s with fw := .failed 2 }))
        ∧ (inside → 8 ≤ bs.length → imageFits bs → Completes (.firmwareLoadDone false) s
            (· = { s with fw := .done, ready := true, cxlmem := true, cxlcache := true }))
        ∧ (inside → 8 ≤ bs.length → ¬imageFits bs →
            Completes (.firmwareLoadDone false) s (· = { s with fw := .failed 1 }))))

/-! ### Events of the debugger and the trace -/

namespace Sys2Proof.Stated

/-- Low 48 bits of an address. -/
def low48 (a : Word) : Word := a &&& 0xFFFFFFFFFFFF

/-- t is s after hart h halted for the debugger (R442): the debug registers hold the cause and the places, the trap
registers and the mode stay, and a TRAP record may have left. -/
def HaltedAt (s : State) (h : Nat) (x : Hart) (cause : Nat) (pc spc : Word) (member elem : Nat) (t : State) : Prop :=
  Traced t (s.setHartAt h { x with dbg := { x.dbg with
    halted := true, haltReq := false, armed := false, retired := false, dcause := cause, dpc := low48 pc
    dspc := low48 spc, dstop := BitVec.ofNat 64 (member % 4 + elem % 8192 * 65536), dval := 0 } })

/-- The hart with its queue frozen: a store that waits for room has not happened yet, so that the scalar unit is back
at it (R192), and RESOLVED says that no break is queued (R32). -/
def queueFrozen (x y : Hart) : Prop :=
  y = { x with waiting := [], pc := if x.waiting = [] then x.pc else x.pc - 4, vexit := y.vexit }
  ∧ (y.vexit.getLsbD 16 = true ↔ ∀ e ∈ x.queue, ¬makesBreak e.instr)
  ∧ ∀ i < 64, i ≠ 16 → y.vexit.getLsbD i = x.vexit.getLsbD i

/-- The hart with a convoy stopped at its commit front: it replays from there, and what lies behind it keeps its own
convoys (R192, R323). -/
def frontStopped (x y : Hart) : Prop :=
  let at' := x.stopped.getD { member := 0, front := 0 }
  (∃ z, queueFrozen x z
    ∧ y = { z with queue := y.queue, split := y.split, stopped := some at', vresume := BitVec.ofNat 64 at'.front })
  ∧ y.queue.length = x.queue.length
  ∧ ∀ (i : Nat) (e : QEntry), x.queue[i]? = some e → ∃ b, y.queue[i]? = some { e with begun := false, split := b }

/-- The 32 bytes of a trace record (R448). -/
def traceBytes (x : TraceRec) : List Byte :=
  leBytes 8 x.time.toNat ++ leBytes 2 x.src ++ [BitVec.ofNat 8 x.ty, 0] ++ x.payload ++ List.replicate (20 - x.payload.length) 0

/-- The records that wait for ring r (R449, R451). -/
def waitingFor (s : State) (r : Nat) : List TraceRec := if r = 32 then s.devFlue else (s.hearth r).flue

/-- The physical address that a write of DIMG names (R441). -/
def imageAt (v : Word) : Nat := v.toNat / 2 ^ 12 % 2 ^ 40 * 2 ^ 12

end Sys2Proof.Stated

/-- R441 to R445, R446, R448 to R452: a halt request halts a hart before its next scalar word or at the commit front
of its oldest convoy; a hart with no launch halts once one is placed. GO resumes at DSPC, and with STEP the hart halts
again after one retirement; in program mode the stopped convoy is to replay as after ERET, and in supervisor mode it
stays frozen with its VRESUME (the model's choice, log 77). DIMG writes and loads the image of a halted hart with DSPC
for TRAPSPC, and says what failed. A SAMPLE names the hart's place, and its interval counts from the last one. The
next record of a flue goes to its ring while there is room, and TRHEAD moves on.
Where the specification is silent this rests on the model's choices in log entries 66, 67 and 70. -/
def Obligations.DebuggersHaltAndTracesAreWritten : Prop :=
  ∀ (s : State) (h : Nat), h < 512 →
    let x := s.hartAt h
    (x.dbg.halted = true → Completes (.dctlHalt h) s (· = s))
    ∧ (x.dbg.halted = false → x.place = none →
        Completes (.dctlHalt h) s (· = s.setHartAt h { x with dbg := { x.dbg with haltReq := true } }))
    ∧ (let halts := fun (ev : Instr) (cause : Nat) =>
        (x.sup = true → Completes ev s (HaltedAt s h x cause x.pc x.pc 0 0))
        ∧ (x.queue = [] → x.sup = false → Completes ev s (fun t =>
            ∃ y, queueFrozen x y ∧ HaltedAt s h y cause y.pc y.pc 0 0 t))
        ∧ (∀ q es, x.queue = q :: es → x.sup = false → Completes ev s (fun t => ∃ y, frontStopped x y
            ∧ (let at' := x.stopped.getD { member := 0, front := 0 }
               HaltedAt s h y cause q.addr y.pc at'.member at'.front t)))
       (x.dbg.halted = false → x.place ≠ none → halts (.dctlHalt h) 32)
       ∧ (x.dbg.halted = false → x.place ≠ none → x.dbg.armed = true → x.dbg.retired = true → halts (.stepHalt h) 33))
    ∧ (let goes := fun (ev : Instr) (step : Bool) =>
        (x.dbg.halted = false → Completes ev s (· = s.setHartAt h { x with dbg := { x.dbg with step := step } }))
        ∧ (x.dbg.halted = true → x.dbg.dspc.toNat % 4 = 0 → Completes ev s (fun t =>
            let y := t.hartAt h
            y.pc = x.dbg.dspc
            ∧ y.dbg = { x.dbg with halted := false, step := step, armed := step, retired := false }
            ∧ (x.sup = true → y.stopped = x.stopped ∧ y.queue = x.queue
                ∧ y.vresume = if x.stopped = none then 0 else x.vresume)
            ∧ (x.sup = false → Replays x y ∧ y.vresume = 0)
            ∧ t = s.setHartAt h { x with
                pc := x.dbg.dspc, entering := y.entering, dbg := y.dbg, vresume := y.vresume
                stopped := y.stopped, queue := y.queue }))
       goes (.dctlGo h) false ∧ goes (.dctlStep h) true)
    ∧ (∀ (v : Word), let pa := imageAt v
      let busy := fun (y : Hart) (failed : Bool) => { y with dbg := { y.dbg with imgBusy := true, imgErr := failed } }
      (x.dbg.halted = false ∨ x.dbg.imgBusy = true →
        Completes (.dimgSave h v) s (· = s) ∧ Completes (.dimgLoad h v) s (· = s))
      ∧ (x.dbg.halted = true → x.dbg.imgBusy = false → s.bars = [] → s.poison = [] → s.transit = [] →
        (Memory.wf s.mem = true → let size := (s.image h { x with trapspc := x.dbg.dspc } true).length
         (pa + size ≤ 0x9000000000 → Completes (.dimgSave h v) s (fun t =>
            leNat (Memory.reads t.mem pa 4) = 0x58435842
            ∧ (∀ n < 32, leNat (Memory.reads t.mem (pa + 0x100 + 8 * n) 8) = (x.gget n).toNat)
            ∧ leNat (Memory.reads t.mem (pa + 0x200 + 8 * 0x45) 8) = x.dbg.dspc.toNat
            ∧ (∀ a, a < pa ∨ pa + size ≤ a → Memory.read t.mem a = Memory.read s.mem a)
            ∧ t = { s.setHartAt h { busy x false with moved := (t.hartAt h).moved } with mem := t.mem }))
         ∧ (0x9000000000 < pa + size → Completes (.dimgSave h v) s (· = s.setHartAt h (busy x true))))
        ∧ (0x9000000000 < pa + 64 ∨ leNat (Memory.reads s.mem pa 4) ≠ 0x58435842 →
          Completes (.dimgLoad h v) s (· = s.setHartAt h (busy x true)))
        ∧ (∀ hd l, let rd := fun (off n : Nat) => Memory.reads s.mem (pa + off) n
          pa + 64 ≤ 0x9000000000 → readHeader rd = some hd → pa + hd.size ≤ 0x9000000000 →
          readImageFile rd hd (imageVlmax rd x) = some l →
          hd.ntiles ≤ s.freeTiles (h / 4) + x.tiles.length + x.keptTiles →
          Completes (.dimgLoad h v) s (fun t =>
            let word := fun (n : Nat) => BitVec.ofNat 64 (leNat (Memory.reads s.mem (pa + n) 8))
            (∀ n, 1 ≤ n → n < 32 → (t.hartAt h).gget n = word (0x100 + 8 * n))
            ∧ (t.hartAt h).vcfg = word 0x200 ∧ (t.hartAt h).vresume = word 0x220 ∧ (t.hartAt h).trapcause = word 0x400
            ∧ (t.hartAt h).dbg = { x.dbg with imgBusy := true, imgErr := false, dspc := word (0x200 + 8 * 0x45) }
            ∧ (t.hartAt h).trapspc = x.trapspc ∧ (t.hartAt h).pc = x.pc ∧ (t.hartAt h).sup = x.sup))))
    ∧ (x.dbg.imgBusy = true →
        Completes (.dimgComplete h) s (· = s.setHartAt h { x with dbg := { x.dbg with imgBusy := false } }))
    ∧ (x.dbg.dsample.toNat % 2 ^ 32 ≠ 0 → x.dbg.dsample.toNat % 2 ^ 32 ≤ x.dbg.since →
        Completes (.sample h) s (fun t =>
          Traced t (s.setHartAt h { x with dbg := { x.dbg with
            since := x.dbg.since - x.dbg.dsample.toNat % 2 ^ 32 } })
          ∧ ((s.ring (h / 16)).trsize ≠ 0 → (s.ring (h / 16)).trmask.getLsbD 5 = true →
              (s.hearth (h / 16)).flue.length < 8192 →
              let at' := x.stopped.getD { member := 0, front := 0 }
              let state := if x.dbg.halted then 4 else if x.sup then 3 else if x.wait.isSome then 2
                else if x.queue.isEmpty then 1 else 0
              let payload := leBytes 6 (((x.queue.head?).map (·.addr)).getD x.pc).toNat ++ leBytes 1 at'.member
                ++ leBytes 1 state ++ leBytes 2 at'.front ++ leBytes 4 x.stripNo.toNat
              (t.hearth (h / 16)).flue = (s.hearth (h / 16)).flue
                ++ [{ time := s.tsc, src := h, ty := 5, payload := payload }])))
    ∧ (∀ r i rec', r < 33 → (waitingFor s r)[i]? = some rec' → rec'.time.toNat < s.tsc.toNat → rec'.payload.length ≤ 20 →
        (∀ j y, (waitingFor s r)[j]? = some y → j ≠ i → rec'.time.toNat < y.time.toNat
          ∨ (rec'.time = y.time ∧ (rec'.src < y.src ∨ (rec'.src = y.src ∧ i < j)))) →
        (r < 32 → (s.hearth r).lost = 0 ∧ (s.hearth r).gating = none) → s.bars = [] → Memory.wf s.mem = true →
        let g := s.ring r
        (g.trhead - g.trtail).toNat < g.trsize.toNat →
        Completes (.traceRecordWrite r) s (fun t =>
          let at' := g.trbase.toNat + 32 * (g.trhead.toNat % g.trsize.toNat)
          (∀ k b, (traceBytes rec')[k]? = some b → Memory.read t.mem (at' + k) = b)
          ∧ (∀ a, a < at' ∨ at' + 32 ≤ a → Memory.read t.mem a = Memory.read s.mem a)
          ∧ t.ring r = { g with trhead := g.trhead + 1 } ∧ (∀ k, k ≠ r → t.ring k = s.ring k)
          ∧ waitingFor t r = (waitingFor s r).eraseIdx i ∧ (∀ k, k ≠ r → waitingFor t k = waitingFor s k)
          ∧ t = { s with mem := t.mem, poison := t.poison, rings := t.rings, hearths := t.hearths, devFlue := t.devFlue }))


/-! ### Events of energy, power, errors and clocks -/

namespace Sys2Proof.Stated

/-- The harts of hearth k. -/
def hartsIn (k : Nat) : List Nat := (List.range 16).map (16 * k + ·)

/-- Residency of hart h in the window of hearth k that ends now, in nanoseconds (R457). -/
def residentFor (s : State) (k h : Nat) : Nat :=
  if (s.hartAt h).place = none then 0
  else min (s.tsc - (s.hartAt h).placedTsc).toNat (s.tsc - (s.hearth k).winStart).toNat

/-- Activity of a resident hart. -/
def activityOf (s : State) (h : Nat) : Nat := if (s.hartAt h).place = none then 0 else (s.hartAt h).activity

/-- What a residency ns and an activity act on hearth k are charged of idle energy I and dynamic energy D, in
picojoules, rounded down (R457): the totals are those of the harts placed there and of the ranks that have left in the
window. -/
def windowShare (s : State) (k I D ns act : Nat) : Nat :=
  let stays := (s.hearth k).stays
  let allNs := ((hartsIn k).map (residentFor s k)).sum + (stays.map (·.ns)).sum
  let allAct := ((hartsIn k).map (activityOf s)).sum + (stays.map (·.activity)).sum
  let byTime := fun (e : Nat) => if allNs = 0 then 0 else e * ns / allNs
  byTime I + (if allAct = 0 then byTime D else D * act / allAct)

/-- The share of hart h of hearth k. -/
def hartShare (s : State) (k I D h : Nat) : Nat := windowShare s k I D (residentFor s k h) (activityOf s h)

/-- The shares of the ranks that have left hearth k in the window. -/
def leftShares (s : State) (k I D : Nat) : Nat :=
  ((s.hearth k).stays.map (fun y => windowShare s k I D y.ns y.activity)).sum

/-- A charge for bytes moved, at the rates of R458 in picojoules: of those of device memory c came from a memory-side
cache, and what crossed between dies, and what the model does not count, is measured (log 12). -/
def ByRates (m : Moved) (pj : Nat) : Prop :=
  ∃ c crossed other, c ≤ m.dev
    ∧ pj = (8 * (m.dev - c) + 2 * c + crossed + 16 * m.host + 12 * m.kite + 20 * m.eth) / 2 + other

/-- No bytes moved. -/
def still : Moved := { dev := 0, host := 0, kite := 0, eth := 0 }

/-- Hearth k has had no hart placed, no binding, copy, landing zone or kite operation (R464). -/
def Vacant (s : State) (k : Nat) : Prop :=
  (∀ h, h / 16 = k → (s.hartAt h).place = none ∧ (s.hartAt h).binds = [])
  ∧ (∀ c, c / 4 = k → (s.core c).copies = [] ∧ ∀ z < 8, (s.core c).zones[z]? = some none)
  ∧ (∀ o ∈ s.kites, o.hart / 16 ≠ k)

/-- Hearth k was power-gated (R464): its n-gram slice is empty, and what its cores held reads as zero. -/
def Gated (s : State) (k : Nat) (t : State) : Prop :=
  (t.hearth k).gated = true ∧ (t.hearth k).gating = none ∧ (t.hearth k).ngrams = [] ∧ (t.hearth k).flue = []
  ∧ Emptied s (· = k) t ∧ (∀ j, j ≠ k → t.hearth j = s.hearth j)
  ∧ t = { s with hearths := t.hearths, mem := t.mem, poison := t.poison, rings := t.rings }

/-- A lane or a core was retired: the bits of SVCREQ with PENDING, and vector 64 (R421). -/
def Serviced (s : State) (bits : Word) (t : State) : Prop := t.svcreq = s.svcreq ||| bits ||| 1 ∧ t.msix = 64 :: s.msix

end Sys2Proof.Stated

/-- R456 to R459, R461, R463, R455, R464, R454: a window of 1 µs splits its idle energy by residency and its dynamic
energy by activity, rounded down, among the harts placed and the ranks that left in it, and charges bytes moved at
their rates; the rest is unattributed, with what memory and links add, a measured value (log 12). The damper notes a
trip once, and an end 200 ns after the last trip; the power cap steps the clocks, down until the average falls below
it; the thermal thresholds slow the device and stop dispatch. A hearth idle for 50 µs is gated once its flue is empty,
or 20 µs later with the records lost, and powered up again for a placement, with its local memories zero.
Where the specification is silent this rests on the model's choices in log entries 12, 68 and 72. -/
def Obligations.EnergyIsSplitAndPowerIsManaged : Prop :=
  ∀ (s : State) (k : Nat), k < 32 →
    let x := s.hearth k
    (∀ E I, let D := E - I
      let over' := 1000 ≤ (s.tsc - x.winStart).toNat
      (¬over' → Completes (.energyWindow k E I) s (· = s))
      ∧ (over' → (∀ y ∈ x.stays, y.paid = true) →
        (∀ h < 512, ∀ i < 512, (s.hartAt h).place ≠ none → (s.hartAt h).place = (s.hartAt i).place → h = i) →
        (∀ l ∈ s.launches, ∀ g ∈ l.gangs, ∀ c, Rank.saved c ∈ g.ranks → ∀ h, c.place ≠ (s.hartAt h).place) →
        Completes (.energyWindow k E I) s (fun t =>
          (∀ h, h / 16 = k → (s.hartAt h).place ≠ none → ∃ pj, ByRates (s.hartAt h).moved pj ∧ t.hartAt h = { s.hartAt h with
            charge := (s.hartAt h).charge + (hartShare s k I D h + pj), activity := 0, moved := still })
          ∧ (∀ h, h / 16 = k → (s.hartAt h).place = none → t.hartAt h = { s.hartAt h with activity := 0, moved := still })
          ∧ (∀ h, h / 16 ≠ k → t.hartAt h = s.hartAt h)
          ∧ t.hearth k = { x with winStart := s.tsc, stays := [] } ∧ (∀ j, j ≠ k → t.hearth j = s.hearth j)
          ∧ (∃ rest, t.unattr = s.unattr + (I + D - (leftShares s k I D + ((hartsIn k).map (fun h =>
              if (s.hartAt h).place = none then 0 else hartShare s k I D h)).sum)) + rest)
          ∧ t = { s with harts := t.harts, hearths := t.hearths, unattr := t.unattr, fresh := t.fresh }))
      ∧ (∀ y, over' → x.stays = [y] → y.paid = false → (∀ h, h / 16 = k → (s.hartAt h).place = none) →
        (∀ c ∈ s.contexts, c.place ≠ some y.place) →
        Completes (.energyWindow k E I) s (fun t => ∃ pj, ByRates y.moved pj
          ∧ t.launches = s.launches.map (fun l => if l.serial = y.place.serial ∧ l.state ≠ .complete
              then { l with energy := l.energy + (leftShares s k I D + pj) } else l))))
    ∧ (let keeps := fun (d : Option Word) (last : Word) (t : State) => (t.hearth k).damper = d ∧ Traced t s
          ∧ (∀ j, j ≠ k → t.hearth j = s.hearth j)
          ∧ t.hearth k = { x with damper := d, tripped := last, flue := (t.hearth k).flue, lost := (t.hearth k).lost
                                  firstLost := (t.hearth k).firstLost }
       let long := 200 ≤ (s.tsc - x.tripped).toNat
       (x.damper = none → Completes (.damperTrip k) s (keeps (some s.tsc) s.tsc) ∧ Completes (.damperRecover k) s (· = s))
       ∧ (x.damper ≠ none →
         Completes (.damperTrip k) s (fun t => t.hearth k = { x with tripped := s.tsc }
           ∧ (∀ j, j ≠ k → t.hearth j = s.hearth j) ∧ t = { s with hearths := t.hearths })
         ∧ (¬long → Completes (.damperRecover k) s (· = s))
         ∧ (long → Completes (.damperRecover k) s (keeps none x.tripped))))
    ∧ (∀ watts, Completes (.powerCapStep watts) s (fun t =>
        let w := watts % 4096
        let cap := s.pwrcap.toNat % 4096
        (t.lowering = true ↔ cap < w ∨ (s.lowering = true ∧ ¬(w < cap)))
        ∧ (let rate := fun (r : Nat) =>
             if t.lowering = true then max 1200 (r - 100) else if 100 * w ≤ 95 * cap then min 2500 (r + 100) else r
           ∀ j < 32, t.hearth j = { s.hearth j with rate := rate (s.hearth j).rate })
        ∧ t = { s with pwrnow := w, lowering := t.lowering, hearths := t.hearths }))
    ∧ (∀ temp, Completes (.thermalThreshold temp) s (fun t =>
        t.hot = (if 1050 ≤ temp then true else if temp < 1000 then false else s.hot)
        ∧ t.noDispatch = (if 1150 ≤ temp then true else if temp < 1000 then false else s.noDispatch)
        ∧ t.svcreq = (if 1150 ≤ temp then s.svcreq ||| 1 else s.svcreq)
        ∧ (∀ j < 32, t.hot = true → t.clockOf j ≤ 1200)
        ∧ t = { s with temp := temp, hot := t.hot, noDispatch := t.noDispatch, svcreq := t.svcreq }))
    ∧ (let idle := ∃ t0, x.idleSince = some t0 ∧ 50000 ≤ (s.tsc - t0).toNat ∧ Vacant s k
      let may := s.pgate.getLsbD 0 = true ∧ x.gated = false ∧ x.gating = none ∧ idle
      (¬may → Completes (.hearthPowerGate k) s (· = s))
      ∧ (may → x.flue = [] → Completes (.hearthPowerGate k) s (Gated s k))
      ∧ (may → x.flue ≠ [] → Completes (.hearthPowerGate k) s (fun t => t.hearth k = { x with gating := some s.tsc }
          ∧ (∀ j, j ≠ k → t.hearth j = s.hearth j) ∧ t = { s with hearths := t.hearths })))
    ∧ (let drained := ∃ t0, x.gating = some t0 ∧ 20000 ≤ (s.tsc - t0).toNat
      (¬drained → Completes (.flueDrainTimeout k) s (· = s))
      ∧ (drained → Completes (.flueDrainTimeout k) s (fun t => Gated s k t
        ∧ (t.hearth k).lost = x.lost + x.flue.length
        ∧ t.ring k = { s.ring k with trlost := (s.ring k).trlost + BitVec.ofNat 64 x.flue.length }
        ∧ (∀ j, j ≠ k → t.ring j = s.ring j))))
    ∧ (x.gated = false ∨ s.noDispatch = true ∨ (∀ c, s.firstFit ≠ some (c, k)) → Completes (.hearthPowerUp k) s (· = s))
    ∧ (x.gated = true → s.noDispatch = false → (∃ c, s.firstFit = some (c, k)) →
        Completes (.hearthPowerUp k) s (fun t => (t.hearth k).gated = false
        ∧ (t.hearth k).ngrams = x.ngrams ∧ (∀ j, j ≠ k → t.hearth j = s.hearth j) ∧ Emptied s (· = k) t
        ∧ Traced t { s with mem := t.mem, poison := t.poison }
        ∧ (x.flue = [] → 0 < x.lost → (s.ring k).trsize ≠ 0 → (s.ring k).trmask.getLsbD 7 = true →
            let payload := leBytes 4 x.lost ++ leBytes 8 x.firstLost.toNat
            (t.hearth k).lost = 0
            ∧ (t.hearth k).flue = [{ time := s.tsc, src := 0x2C0 + k, ty := 7, payload := payload }])))

/-- R424 to R426, R438 to R440, R421, R42, R43, R376, R447, R446. A corrected error is counted; an uncorrectable one
in device memory or in a core's own memory marks its granule once and is counted, one in a marked granule or in host
memory changes nothing. A lane that needs correction again is retired, and a core where fewer than 8 lanes would be
left; a retired core's launches are killed with REASON 5, its zones are gone, and a send into one is rejected. An
arithmetic clock of a hart passes for its convoys where it has been charged for some, and otherwise adds 8 slots for
each lane group it holds to LCSTALL (log 16); the counts of readiness and of samples go on, and each core may start a
convoy again. The timestamp rises by one, or takes the synchronised value once after a reset, with the times that the
model keeps moved on alike (log 15); an energy window that is full ends before. A candidate that fits nowhere is passed
over from then on, and a hearth without work is idle from then on.
Where the specification is silent this rests on the model's choices in log entries 13, 15, 16, 49 and 69. -/
def Obligations.ErrorsAreCountedAndClocksAdvance : Prop :=
  (∀ (s : State),
      Completes (.scrub .correctedMem) s (· = { s with cehbm := s.cehbm + 1 })
      ∧ Completes (.scrub .correctedSram) s (· = { s with cesram := s.cesram + 1 })
      ∧ (∀ loc, loc < 0x9000000000 → let g := loc - loc % 32
        (g ∈ s.poison → Completes (.scrub (.uncorrectable loc)) s (· = s))
        ∧ (g ∉ s.poison → Completes (.scrub (.uncorrectable loc)) s (fun t =>
            t.poison = g :: s.poison ∧ t.uecount.toNat % 2 ^ 32 = (s.uecount.toNat % 2 ^ 32 + 1) % 2 ^ 32
            ∧ t.uecount.toNat / 2 ^ 32 = s.uecount.toNat / 2 ^ 32 ∧ t.ueaddr = 0x8000000000000000 ||| BitVec.ofNat 64 g
            ∧ t = { s with poison := t.poison, uecount := t.uecount, ueaddr := t.ueaddr })))
      ∧ (∀ loc, Config.spadLoc ≤ loc → let g := loc - loc % 8
        (g ∈ s.poison → Completes (.scrub (.uncorrectable loc)) s (· = s))
        ∧ (g ∉ s.poison → Completes (.scrub (.uncorrectable loc)) s (fun t =>
            t.poison = g :: s.poison ∧ t.uecount.toNat % 2 ^ 32 = s.uecount.toNat % 2 ^ 32
            ∧ t.uecount.toNat / 2 ^ 32 = (s.uecount.toNat / 2 ^ 32 + 1) % 2 ^ 32
            ∧ t = { s with poison := t.poison, uecount := t.uecount })))
      ∧ (∀ loc, 0x9000000000 ≤ loc → loc < Config.spadLoc → Completes (.scrub (.uncorrectable loc)) s (· = s))
      ∧ (∀ c p, c < 128 → p < 32 → let x := s.core c
        (x.retiredLanes.getLsbD p = true →
          Completes (.scrub (.laneAgain c p)) s (· = { s with cesram := s.cesram + 1 }))
        ∧ (x.retiredLanes.getLsbD p = false → 9 ≤ liveOf x.retiredLanes →
          Completes (.scrub (.laneAgain c p)) s (fun t =>
            (∀ i < 32, (t.core c).retiredLanes.getLsbD i = (x.retiredLanes.getLsbD i || decide (i = p)))
            ∧ t.core c = { x with retiredLanes := (t.core c).retiredLanes } ∧ (∀ j, j ≠ c → t.core j = s.core j)
            ∧ Serviced s 2 t
            ∧ Traced t { s with cores := t.cores, svcreq := t.svcreq, msix := t.msix, cesram := s.cesram + 1 }))
        ∧ (x.retiredLanes.getLsbD p = false → liveOf x.retiredLanes ≤ 8 → x.retired = false →
          Completes (.scrub (.laneAgain c p)) s (fun t => (t.core c).retired = true
            ∧ (t.core c).retiredLanes = x.retiredLanes ∧ t.cesram = s.cesram + 1 ∧ Serviced s 4 t)))
      ∧ (∀ c < 128, ((s.core c).retired = true → Completes (.coreRetire c) s (· = s))
        ∧ ((s.core c).retired = false → (s.launches.map (·.serial)).Nodup → Completes (.coreRetire c) s (fun t =>
            (t.core c).retired = true ∧ (∀ z i, slotOf t c z i = none) ∧ (∀ j, j ≠ c → (t.core j).retired = (s.core j).retired)
            ∧ Serviced s 4 t
            ∧ (∀ z i y o, slotOf s c z i = some y → y.state = .filling → y.owner = some o → o.port = 31 →
                .rejection o.op false ∈ t.fabric)
            ∧ (∀ l ∈ s.launches, l.state ≠ .complete → (∃ g ∈ l.gangs, ∃ h, Rank.on h ∈ g.ranks ∧ h / 4 = c) →
                ∃ l' ∈ t.launches, l'.serial = l.serial ∧ l'.state = .draining
                  ∧ l'.kill = (if l.kill.isSome then l.kill
                      else some { reason := 5, fval := BitVec.ofNat 64 c, fgang := 0, frank := 0 }))))))
  ∧ (∀ (s : State),
      (∀ k < 32, ((s.hearth k).gated = true → Completes (.arithmeticClock k) s (· = s))
        ∧ ((s.hearth k).gated = false → Completes (.arithmeticClock k) s (fun t =>
          (∀ h, h / 16 = k → let x := s.hartAt h
            t.hartAt h = { x with
              lcstall := if x.ahead = 0 then x.lcstall + BitVec.ofNat 64 (8 * s.lgrant h) else x.lcstall
              ahead := x.ahead - 1
              readyClocks := if s.convoyReady h then x.readyClocks + 1 else 0
              tileReady := if s.convoyReady h && s.wantsTiles h then x.tileReady + 1 else 0
              dbg := { x.dbg with since := if x.dbg.dsample.toNat % 2 ^ 32 = 0 then 0 else x.dbg.since + 1 } })
          ∧ (∀ h, h / 16 ≠ k → t.hartAt h = s.hartAt h)
          ∧ (∀ c < 128, t.core c = if c / 4 = k then { s.core c with started := false } else s.core c)
          ∧ t = { s with harts := t.harts, cores := t.cores })))
      ∧ (let ticks := fun (d : Word) (sync : Bool) (free : Nat) => Completes .tscIncrement s (fun t =>
          let now := s.tsc + d + 1
          t = { s with
            tsc := now, tscSync := sync, fresh := free, harts := t.harts, launches := t.launches, hearths := t.hearths
            lastSent := s.lastSent.map (fun e => (e.1, e.2 + d))
            eth := s.eth.map (fun e => (e.1, { e.2 with unacked := e.2.unacked.map (fun u => { u with since := u.since + d }) })) }
          ∧ (∀ h < 512, let x := s.hartAt h
              t.hartAt h = { x with
                parkedTsc := x.parkedTsc + d, placedTsc := x.placedTsc + d, stopping := x.stopping.map (· + d) })
          ∧ t.launches.length = s.launches.length
          ∧ (∀ (i : Nat) (l : Launch), s.launches[i]? = some l → ∃ since gangs, t.launches[i]? =
              some { l with passedSince := since, gangs := gangs } ∧ gangs.length = l.gangs.length)
          ∧ (∀ l, Lone s l →
              ((∀ k < 32, (freeOn s k).length < l.gsize) → ∃ m ∈ t.launches, m.serial = l.serial
                ∧ m.passedSince = some ((l.passedSince.map (· + d)).getD now))
              ∧ ((∃ k < 32, l.gsize ≤ (freeOn s k).length) → ∃ m ∈ t.launches, m.serial = l.serial ∧ m.passedSince = none))
          ∧ (∀ k < 32, let x := s.hearth k
              t.hearth k = { x with
                damper := x.damper.map (· + d), tripped := x.tripped + d, gating := x.gating.map (· + d)
                winStart := x.winStart + d, idleSince := (t.hearth k).idleSince }
              ∧ (Vacant s k → (t.hearth k).idleSince = some ((x.idleSince.map (· + d)).getD now))
              ∧ (¬Vacant s k → (t.hearth k).idleSince = none)))
        ((∀ k < 32, (s.tsc - (s.hearth k).winStart).toNat < 1000) →
          (s.tscSync = true → ticks 0 true s.fresh)
          ∧ (s.tscSync = false → ticks (((Config.freeSync s.fresh).map (· - (s.tsc + 1))).getD 0)
              (Config.freeSync s.fresh).isSome (s.fresh + 1)))
        ∧ (s.tscSync = true → ∀ k < 32, 1000 ≤ (s.tsc - (s.hearth k).winStart).toNat →
          Completes .tscIncrement s (fun t => t.tsc = s.tsc + 1 ∧ (t.hearth k).winStart = s.tsc
            ∧ (t.hearth k).stays = []))))

/-! ### Decoding, the step, memory and reset -/

/-- R78 to R110, R113: one word of each class, its fields written bit by bit as the class's layout gives them, and the
instruction it stands for. A word with a must-be-zero bit set, a reserved code in a field or a vector register field
above 47, and every word of the reserved classes 6 and 7, is no instruction. -/
def Obligations.WordsDecodeAsTheirLayoutsSay : Prop :=
  decode 0b0000_00011_00100_00101_00_00000_000110#32 = some (.div 3 4 5)
  ∧ decode 0b0001_00010_00011_0110_00000000_111111#32 = some (.srai 2 3 63)
  ∧ decode 0b0010_00111_1_1111111111111111111111#32 = some (.addpc 7 0x3FFFFF)
  ∧ decode 0b0011_110_00_00011_000_000000000000010#32 = some (.bpany 3 2)
  ∧ decode 0b0100_00110_00101_0010_00000000001000#32 = some (.ldw 6 5 8)
  ∧ decode 0b0100_00111_00101_1111_01000_1_0000_0000#32 = some (.aadd 7 5 8 1)
  ∧ decode 0b0101_00101_00000_000000010001_0_00000#32 = some (.crr 5 0x011)
  ∧ decode 0b1000_000011_000001_000010_0_0_000_10001#32 = some (.vsadd 3 1 2 0 0 0)
  ∧ decode 0b1001_000100_000001_000010_1_0_100_00011#32 = some (.vfma 4 1 2 1 0 4)
  ∧ decode 0b1010_00011_00001_00010_00_000000_00000#32 = some (.pand 3 1 2)
  ∧ decode 0b1011_000100_000001_000010_0_0_000_00010#32 = some (.vcompress 4 1 2)
  ∧ decode 0b1100_000011_01000_000010_0_00_000_00111#32 = some (.vscadd 3 8 2 0 0 0)
  ∧ decode 0b1101_00_000000_000000_0_0_0000_010_00000#32 = some (.mattach 2)
  ∧ decode 0b1110_00111_00101_00110_001001_00_00000#32 = some (.cpy 7 5 6 9)
  ∧ decode 0b1111_000111_000001_000010_00101_00000#32 = some (.vsample 7 1 2 5)
  ∧ decode 0b0000_00011_00100_00101_00_00001_000110#32 = none
  ∧ decode 0b0000_00011_00100_00101_10_00000_100000#32 = none
  ∧ decode 0b1000_110000_000001_000010_0_0_000_10001#32 = none
  ∧ (∀ w : BitVec 32, bitsAt w 28 4 = 6 ∨ bitsAt w 28 4 = 7 → decode w = none)

/-- R78, R80, R113: decoding gives back every instruction that was encoded: for every well-formed instruction that has a
word, and whatever its operands, the decoder reads it from that word and from the word's four bytes in little-endian
order, and what the decoder yields is always well-formed. Only events have no word. -/
def Obligations.DecodingGivesBackWhatWasEncoded : Prop :=
  (∀ (i : Instr) (w : IWord), WellFormed i → encode i = some w →
    decode w = some i ∧ decodeBytes [w.extractLsb' 0 8, w.extractLsb' 8 8, w.extractLsb' 16 8, w.extractLsb' 24 8] = some i)
  ∧ (∀ (i : Instr) (w : IWord), decode w = some i → WellFormed i)

/-- R78, R79, R113, R319, R430: a step at a hart's turn. An event that has come runs first; what the device has due
comes next; then, where hart h moves, is in no wait, has no register in error and has no convoy to be taken up, the
word at its pc is fetched and decoded, and the step is that instruction's effect on the machine with h moving; a word
that decodes to nothing traps ILLEGAL with the word in TRAPVAL; a pc that does not translate traps what its
translation found, outside the first word of a handler. The order of the turns is the model's (log 4).
Where the specification is silent this rests on the model's choices in log entries 4, 6 and 13. -/
def Obligations.AStepRunsTheDecodedInstruction : Prop :=
  (∀ (s : State) (i : Instr) (is : List Instr), s.inbox = i :: is → step s = exec i { s with inbox := is })
  ∧ (∀ (s t : State), s.inbox = [] → s.due = some t → step s = .next t)
  ∧ (∀ (s u : State) (h : Nat), s.inbox = [] → s.due = none →
      ((s.turns = [] ∧ s.mover = some h ∧ u = { s with cur := h, ticked := false })
        ∨ (∃ hs, s.turns = h :: hs ∧ s.runnable h = true ∧ h ∈ s.placed ∧
            u = { s with turns := hs, cur := h, ticked := false })) →
      u.hart.wait = none → u.hart.regError = false → u.convoyDue = false →
      let v := { u with harts := u.harts.setIfInBounds h { u.hart with entering := false } }
      (∀ loc, Reaches u .fetch u.hart.pc 4 loc → (∀ k < 4, u.damagedAt (loc + k) = false) →
        let w := BitVec.ofNat 32 (leNat (Memory.reads u.mem loc 4))
        (∀ i, decode w = some i → step s = exec i v)
        ∧ (decode w = none → step s = .next (v.trapAfter 1 (w.setWidth 64))))
      ∧ (∀ c, u.xlate .scalar .fetch u.hart.pc = .fault c → u.hart.entering = false →
          step s = .next (u.trapAfter c u.hart.pc)))

/-- R5, R312 and the model's own form of memory (log 3): every step keeps memory in its one canonical form, its
locations strictly rising and none listed that holds what an unlisted location reads as. -/
def Obligations.EveryStepKeepsMemoryCanonical : Prop :=
  ∀ (s t : State), Memory.wf s.mem = true → step s = .next t → Memory.wf t.mem = true

/-- The memory of the reset state is in the canonical form, and each of its bytes reads as the model's choice for a byte
that nothing has written (log 3). -/
def Obligations.ResetMemoryIsCanonical : Prop :=
  Memory.wf State.reset.mem = true ∧ ∀ loc, Memory.read State.reset.mem loc = Config.unwritten

/-- R50, R259, R303, R308, R372, R465 and the Reset columns of R419, R421, R425, R438, R441, R451 and R460: what a
device reset leaves. Every hart has TRAPVEC and SSCRATCH 0 and holds no launch; the prefix table, the n-gram pools,
the timelines, the zones and the launch queues are empty or zero; serials restart at 1, the timestamp at 0; and every
register of BAR0 reads its Reset value. -/
def Obligations.ResetLeavesTheStatedValues : Prop :=
  let s := State.reset
  (∀ h, (s.hartAt h).trapvec = 0 ∧ (s.hartAt h).sscratch = 0 ∧ (s.hartAt h).place = none ∧ (s.hartAt h).dbg.halted = false)
  ∧ s.launches = [] ∧ s.prefixes = [] ∧ s.kites = [] ∧ s.nextSerial = 1 ∧ s.tsc = 0
  ∧ (∀ k, (s.hearth k).ngrams = [])
  ∧ (∀ c, (s.core c).copies = [] ∧ ∀ z : Nat, ((s.core c).zones[z]?).getD none = none)
  ∧ (∀ t, (s.timeline t).value = 0 ∧ (s.timeline t).next = 0 ∧ (s.timeline t).err = false)
  ∧ (∀ p ∈ [(0x00, 0x585400800001), (0x08, 0), (0x10, 0), (0x18, 0), (0x20, 0), (0x28, 0x88B5), (0x30, 0), (0x38, 0),
        (0x40, 0), (0x48, 0), (0x50, 0), (0x58, 0), (0x60, 0), (0x68, 0), (0x80, 0), (0x88, 0), (0x90, 0), (0x98, 0),
        (0xA0, 2400), (0xA8, 0), (0xB0, 1)], s.barRead p.1 = BitVec.ofNat 64 p.2)
  ∧ (∀ q < 64, ∀ r < 11, s.barRead (0x10000 + 128 * q + 8 * r) = 0)
  ∧ (∀ p < 20, s.barRead (0x20000 + 64 * p) = 0)
  ∧ (s.barRead (0x20008 + 64 * 18) = 0 ∧ s.barRead (0x20008 + 64 * 19) = 0)
  ∧ (∀ c < 128, s.barRead (0x30000 + 8 * c) = 0)
  ∧ (∀ r < 33, ∀ k < 6, s.barRead (0x40000 + 64 * r + 8 * k) = 0)
  ∧ (∀ t < 4096, s.barRead (0x100000 + 16 * t) = 0)
  ∧ (∀ e < 4096, s.barRead (0x200000 + 16 * e) = 0 ∧ s.barRead (0x200008 + 16 * e) = 0)
  ∧ (∀ d < 65536, ∀ r < 4, s.barRead (0x400000 + 32 * d + 8 * r) = 0)
  ∧ (∀ h < 512, ∀ r < 8, s.barRead (0x800000 + 64 * h + 8 * r) = 0)
end Statements
end

