-- ==== Sys2Proof/Laws/Memory.lean ====
section
/-! SUPPORT. Memory: every operation keeps the canonical form, a read after a write, and that a memory in canonical form
is determined by what its locations read as. -/

namespace Sys2Proof.Machine

/-! ### The canonical form -/

theorem Memory.wfFrom_cons {lo a : Nat} {b : Byte} {m : List Host.Cell} :
    Memory.wfFrom lo ((a, b) :: m) = true ↔ lo ≤ a ∧ b ≠ Config.unwritten ∧ Memory.wfFrom (a + 1) m = true := by
  simp [Memory.wfFrom, and_assoc]

theorem Memory.wfFrom_mono {m : List Host.Cell} {lo lo' : Nat} (h : lo' ≤ lo) (hm : Memory.wfFrom lo m = true) :
    Memory.wfFrom lo' m = true := by
  cases m with
  | nil => rfl
  | cons c m =>
    obtain ⟨a, b⟩ := c
    rw [wfFrom_cons] at hm ⊢
    exact ⟨by omega, hm.2⟩

theorem Memory.write_wfFrom {m : List Host.Cell} {lo n : Nat} (x : Byte) (hn : lo ≤ n)
    (hm : Memory.wfFrom lo m = true) : Memory.wfFrom lo (Memory.write m n x) = true := by
  induction m generalizing lo with
  | nil => simp only [Memory.write]; split <;> simp [Memory.wfFrom, *]
  | cons c m ih =>
    obtain ⟨a, b⟩ := c
    have hc := wfFrom_cons.mp hm
    simp only [Memory.write]
    split
    · split
      · exact hm
      · rw [wfFrom_cons]; exact ⟨hn, ‹_›, wfFrom_cons.mpr ⟨by omega, hc.2⟩⟩
    · split
      · split
        · exact wfFrom_mono (by omega) hc.2.2
        · rw [wfFrom_cons]; exact ⟨hc.1, ‹_›, hc.2.2⟩
      · rw [wfFrom_cons]; exact ⟨hc.1, hc.2.1, ih (by omega) hc.2.2⟩

theorem Memory.write_wf {m : List Host.Cell} (n : Nat) (x : Byte) (h : Memory.wf m = true) :
    Memory.wf (Memory.write m n x) = true := write_wfFrom x (Nat.zero_le n) h

theorem Memory.writes_wf {m : List Host.Cell} (n : Nat) (bs : List Byte) (h : Memory.wf m = true) :
    Memory.wf (Memory.writes m n bs) = true := by
  induction bs generalizing m n with
  | nil => exact h
  | cons b bs ih => exact ih (n + 1) (write_wf n b h)

theorem Memory.filter_wfFrom {m : List Host.Cell} {lo : Nat} (p : Host.Cell → Bool) (h : Memory.wfFrom lo m = true) :
    Memory.wfFrom lo (m.filter p) = true := by
  induction m generalizing lo with
  | nil => rfl
  | cons c m ih =>
    obtain ⟨a, b⟩ := c
    have hc := wfFrom_cons.mp h
    rw [List.filter_cons]
    split
    · rw [wfFrom_cons]; exact ⟨hc.1, hc.2.1, ih hc.2.2⟩
    · exact wfFrom_mono (by omega) (ih hc.2.2)

theorem Memory.filter_wf {m : List Host.Cell} (p : Host.Cell → Bool) (h : Memory.wf m = true) :
    Memory.wf (m.filter p) = true := filter_wfFrom p h

theorem Memory.reset_wf : Memory.wf State.reset.mem = true := rfl

/-! ### Reads -/

theorem Memory.read_below {m : List Host.Cell} {lo k : Nat} (h : Memory.wfFrom lo m = true) (hk : k < lo) :
    Memory.read m k = Config.unwritten := by
  induction m generalizing lo with
  | nil => rfl
  | cons c m ih =>
    obtain ⟨a, b⟩ := c
    have hc := wfFrom_cons.mp h
    rw [Memory.read, if_neg (by omega)]
    exact ih hc.2.2 (by omega)

/-- A read after a write. -/
theorem Memory.read_write {m : List Host.Cell} {lo : Nat} (n k : Nat) (x : Byte) (h : Memory.wfFrom lo m = true) :
    Memory.read (Memory.write m n x) k = if k = n then x else Memory.read m k := by
  induction m generalizing lo with
  | nil =>
    simp only [Memory.write]
    by_cases hx : x = Config.unwritten <;> by_cases hk : k = n <;> simp [Memory.read, *]
    intro e; exact absurd e.symm hk
  | cons c m ih =>
    obtain ⟨a, b⟩ := c
    have hc := wfFrom_cons.mp h
    simp only [Memory.write]
    by_cases hk : k = n
    · subst hk
      rw [if_pos rfl]
      split
      · split
        · rw [Memory.read, if_neg (by omega), read_below hc.2.2 (by omega)]; exact Eq.symm ‹_›
        · simp [Memory.read]
      · split
        · split
          · rw [read_below hc.2.2 (by omega)]; exact Eq.symm ‹_›
          · simp [Memory.read, *]
        · rw [Memory.read, if_neg (by omega), ih hc.2.2, if_pos rfl]
    · rw [if_neg hk]
      split
      · split
        · rfl
        · rw [Memory.read, if_neg (Ne.symm hk)]
      · split
        · next he =>
          subst he
          split
          · simp [Memory.read, Ne.symm hk]
          · rw [Memory.read, Memory.read, if_neg (Ne.symm hk), if_neg (Ne.symm hk)]
        · rw [Memory.read, Memory.read, ih hc.2.2, if_neg hk]

theorem Memory.read_writes {m : List Host.Cell} (n k : Nat) (bs : List Byte) (h : Memory.wf m = true) :
    Memory.read (Memory.writes m n bs) k = if n ≤ k ∧ k < n + bs.length then bs.getD (k - n) 0 else Memory.read m k := by
  induction bs generalizing m n with
  | nil => rw [if_neg (fun h => by have := h.2; rw [List.length_nil] at this; omega)]; rfl
  | cons b bs ih =>
    rw [Memory.writes, ih (n + 1) (write_wf n b h), read_write n k b h]
    by_cases h1 : k = n
    · subst h1
      rw [if_neg (by omega), if_pos rfl, if_pos (by simp)]
      simp
    · by_cases h2 : n ≤ k ∧ k < n + (b :: bs).length
      · rw [if_pos (by simp only [List.length_cons] at h2; omega), if_pos h2]
        have : k - n = (k - (n + 1)) + 1 := by omega
        rw [this]; rfl
      · rw [if_neg (by simp only [List.length_cons] at h2; omega), if_neg h2, if_neg h1]

theorem Memory.read_writes_outside {m : List Host.Cell} {n k : Nat} {bs : List Byte} (h : Memory.wf m = true)
    (hk : k < n ∨ n + bs.length ≤ k) : Memory.read (Memory.writes m n bs) k = Memory.read m k := by
  rw [read_writes n k bs h, if_neg (by omega)]

theorem Memory.reads_length (m : List Host.Cell) (n k : Nat) : (Memory.reads m n k).length = k := by
  induction k generalizing n with
  | zero => rfl
  | succ k ih => simp [Memory.reads, ih]

theorem Memory.reads_getD (m : List Host.Cell) (n k i : Nat) (d : Byte) (h : i < k) :
    (Memory.reads m n k).getD i d = Memory.read m (n + i) := by
  induction k generalizing n i with
  | zero => omega
  | succ k ih =>
    cases i with
    | zero => rfl
    | succ i =>
      have := ih (n + 1) i (by omega)
      rw [Memory.reads, List.getD_cons_succ, this]
      congr 1
      omega

theorem Memory.reads_congr {m m' : List Host.Cell} {n k : Nat}
    (h : ∀ i < k, Memory.read m (n + i) = Memory.read m' (n + i)) : Memory.reads m n k = Memory.reads m' n k := by
  induction k generalizing n with
  | zero => rfl
  | succ k ih =>
    have h0 : Memory.read m n = Memory.read m' n := h 0 (by omega)
    rw [Memory.reads, Memory.reads, h0]
    congr 1
    exact ih (fun i hi => by have := h (i + 1) (by omega); rwa [show n + (i + 1) = n + 1 + i from by omega] at this)

/-- What a write put is what a read of the same bytes returns. -/
theorem Memory.reads_writes {m : List Host.Cell} (n : Nat) (bs : List Byte) (h : Memory.wf m = true) :
    Memory.reads (Memory.writes m n bs) n bs.length = bs := by
  induction bs generalizing m n with
  | nil => rfl
  | cons b bs ih =>
    rw [List.length_cons, Memory.reads, Memory.writes, ih (n + 1) (write_wf n b h),
      read_writes_outside (write_wf n b h) (by omega), read_write n n b h, if_pos rfl]

/-- Two memories in canonical form that read alike everywhere are the same data. -/
theorem Memory.ext_wfFrom {m m' : List Host.Cell} {lo : Nat} (h : Memory.wfFrom lo m = true)
    (h' : Memory.wfFrom lo m' = true) (hr : ∀ k, Memory.read m k = Memory.read m' k) : m = m' := by
  induction m generalizing m' lo with
  | nil =>
    cases m' with
    | nil => rfl
    | cons c m' =>
      obtain ⟨a, b⟩ := c
      have hc := wfFrom_cons.mp h'
      have := hr a
      simp only [Memory.read, if_true] at this
      exact absurd this.symm hc.2.1
  | cons c m ih =>
    obtain ⟨a, b⟩ := c
    have hc := wfFrom_cons.mp h
    cases m' with
    | nil =>
      have := hr a
      simp only [Memory.read, if_true] at this
      exact absurd this hc.2.1
    | cons c' m' =>
      obtain ⟨a', b'⟩ := c'
      have hc' := wfFrom_cons.mp h'
      have ha : a = a' := by
        rcases Nat.lt_trichotomy a a' with h1 | h1 | h1
        · have := hr a
          rw [Memory.read, if_pos rfl, Memory.read, if_neg (by omega), read_below hc'.2.2 (by omega)] at this
          exact absurd this hc.2.1
        · exact h1
        · have := hr a'
          rw [Memory.read, if_neg (by omega), read_below hc.2.2 (by omega), Memory.read, if_pos rfl] at this
          exact absurd this.symm hc'.2.1
      subst ha
      have hb : b = b' := by
        have := hr a
        simpa only [Memory.read, if_true] using this
      subst hb
      congr 1
      refine ih hc.2.2 hc'.2.2 (fun k => ?_)
      by_cases hk : a = k
      · subst hk; rw [read_below hc.2.2 (by omega), read_below hc'.2.2 (by omega)]
      · have := hr k
        rwa [Memory.read, if_neg hk, Memory.read, if_neg hk] at this

theorem Memory.ext_wf {m m' : List Host.Cell} (h : Memory.wf m = true) (h' : Memory.wf m' = true)
    (hr : ∀ k, Memory.read m k = Memory.read m' k) : m = m' := ext_wfFrom h h' hr

/-! ### Numbers as bytes -/

theorem leBytes_length (n x : Nat) : (leBytes n x).length = n := by
  induction n generalizing x with
  | zero => rfl
  | succ n ih => simp [leBytes, ih]

theorem leNat_leBytes (n x : Nat) : leNat (leBytes n x) = x % 256 ^ n := by
  induction n generalizing x with
  | zero => simp [leBytes, leNat, Nat.mod_one]
  | succ n ih =>
    rw [leBytes, leNat, ih, BitVec.toNat_ofNat, Nat.pow_succ 256 n, Nat.mul_comm (256 ^ n) 256, Nat.mod_mul]

theorem leNat_lt (bs : List Byte) : leNat bs < 256 ^ bs.length := by
  induction bs with
  | nil => simp [leNat]
  | cons b bs ih =>
    have := b.isLt
    simp only [leNat, List.length_cons, Nat.pow_succ]
    omega

end Sys2Proof.Machine
end

