-- ==== Sys2Proof/Laws/Context.lean ====
section
/-! SUPPORT. The length of a context image: the SIZE that R324 gives it. -/

namespace Sys2Proof.Machine

theorem padTo_length (n : Nat) (bs : List Byte) : (padTo n bs).length = max n bs.length := by
  simp only [padTo, List.length_append, List.length_replicate]
  omega

theorem dword_length (w : Word) : (dword w).length = 8 := leBytes_length 8 w.toNat

theorem flatMap_length_const {α : Type} (l : List α) (f : α → List Byte) (n : Nat) (h : ∀ x ∈ l, (f x).length = n) :
    (l.flatMap f).length = n * l.length := by
  induction l with
  | nil => rfl
  | cons x xs ih =>
    rw [List.flatMap_cons, List.length_append, ih (fun y hy => h y (List.mem_cons_of_mem x hy)), h x List.mem_cons_self,
      List.length_cons, Nat.mul_succ, Nat.add_comm]

theorem Held.image_length (e : Held) (off : Nat) : (e.image off).length = 16 := by
  simp only [Held.image, List.length_append, leBytes_length]
  split
  · rw [padTo_length, List.length_take]; omega
  · rw [leBytes_length]

theorem heldBytes_length (es : List Held) (off : Nat) : (heldBytes es off).1.length = 16 * es.length := by
  induction es generalizing off with
  | nil => rfl
  | cons e es ih => simp only [heldBytes, List.length_append, Held.image_length, ih, List.length_cons]; omega

theorem watchBytes_length (w : Vector Watch 4) : (watchBytes w).length = 64 := by
  rw [watchBytes, flatMap_length_const _ _ 16]
  · simp
  · intro e _
    rw [padTo_length, List.length_append, dword_length, leBytes_length]
    decide

theorem bindBytes_length (bs : List Binding) : (bindBytes bs).length = 64 := by
  rw [bindBytes, padTo_length, flatMap_length_const _ _ 16]
  · rw [List.length_take]; omega
  · intro b _
    rw [padTo_length, List.length_append, dword_length, leBytes_length]
    decide

theorem ckptBytes_length (c : Option Checkpoint) : (ckptBytes c).length = 128 := by
  cases c with
  | none => simp [ckptBytes]
  | some c =>
    have h1 : ((c.used.take 4).flatMap (leBytes 4)).length ≤ 16 := by
      rw [flatMap_length_const _ _ 4 (fun x _ => leBytes_length 4 x), List.length_take]; omega
    have h2 : ((c.gs.take 8).flatMap dword).length ≤ 64 := by
      rw [flatMap_length_const _ _ 8 (fun x _ => dword_length x), List.length_take]; omega
    simp only [ckptBytes, padTo_length, List.length_append, dword_length]
    omega

theorem ckptVectors_length (c : Option Checkpoint) : (ckptVectors c).length = 4096 := by
  cases c with
  | none => exact List.length_replicate
  | some c => rw [ckptVectors, List.length_append, leBytes_length, leBytes_length]

theorem queueBytes_length (e : QEntry) : (queueBytes e).length = 128 := by
  simp only [queueBytes, capBytes, padTo_length, List.length_append, dword_length, leBytes_length]
  decide

theorem headerBytes_length (h : Hart) (nk size xlen : Nat) (m : Bool) : (headerBytes h nk size xlen m).length = 64 := by
  simp only [headerBytes, padTo_length, List.length_append, dword_length, leBytes_length, apply_ite List.length]
  cases m <;> decide

theorem stopBytes_length (h : Hart) (p : Option Preempted) : (stopBytes h p).length = 64 := by
  have hp : ∀ x : List Byte, x.length = 3 → ∀ k r, (padTo 64 (padTo 8 (leBytes 1 k ++ x) ++ dword r)).length = 64 := by
    intro x hx k r
    rw [padTo_length, List.length_append, padTo_length, List.length_append, leBytes_length, dword_length, hx]; rfl
  have hn : ∀ x : List Byte, x.length = 3 → ∀ k, (padTo 64 (leBytes 1 k ++ x)).length = 64 := by
    intro x hx k
    rw [padTo_length, List.length_append, leBytes_length, hx]; rfl
  unfold stopBytes
  cases h.stopped <;> cases p
  · exact hn _ (leBytes_length 3 0) _
  · exact hp _ (leBytes_length 3 0) _ _
  · exact hn _ (by rw [List.length_append, leBytes_length, leBytes_length]) _
  · exact hp _ (by rw [List.length_append, leBytes_length, leBytes_length]) _ _

theorem State.crBytes_length (s : State) (k : Nat) (h : Hart) : (s.crBytes k h).length = 576 := by
  rw [State.crBytes, flatMap_length_const _ _ 8 (fun x _ => dword_length _), List.length_range]

/-- An image is as long as its header says (R324). -/
theorem State.image_length (s : State) (k : Nat) (h : Hart) (m : Bool) (ht : h.tiles.length ≤ 4)
    (hk : ((h.ckpt.map (·.tiles)).getD []).length ≤ 4) (he : h.entries.length ≤ 4096) :
    (s.image k h m).length = imageSize h.tiles.length ((h.ckpt.map (·.tiles)).getD []).length
      (heldBytes h.entries 0).2.length := by
  have hx := heldBytes_length h.entries 0
  have tl : ∀ l : List Tile, (l.flatMap tileBytes).length = 49152 * l.length :=
    fun l => flatMap_length_const l _ _ (fun x _ => leBytes_length 49152 x.toNat)
  have ql : ((h.queue.take 32).flatMap queueBytes).length ≤ 4096 := by
    rw [flatMap_length_const _ _ 128 (fun x _ => queueBytes_length x), List.length_take]; omega
  have gl : ((List.range 32).flatMap (fun i => dword (h.gget i))).length = 256 := by
    rw [flatMap_length_const _ _ 8 (fun x _ => dword_length _), List.length_range]
  have pl : ((List.range 32).flatMap (fun i => leBytes 512 (h.pget i).toNat)).length = 16384 := by
    rw [flatMap_length_const _ _ 512 (fun x _ => leBytes_length _ _), List.length_range]
  have vl : ((List.range 48).flatMap (fun i => leBytes 2048 (h.vget i).toNat)).length = 98304 := by
    rw [flatMap_length_const _ _ 2048 (fun x _ => leBytes_length _ _), List.length_range]
  simp only [State.image]
  generalize hb : heldBytes h.entries 0 = hb' at *
  obtain ⟨held, ext⟩ := hb'
  simp only at hx ⊢
  generalize hkt : (h.ckpt.map (·.tiles)).getD [] = kt at *
  unfold imageSize
  by_cases h1 : 0 < ext.length
  · rw [if_pos h1, if_pos (by omega), if_pos (by omega)]
    simp only [List.length_append, padTo_length, headerBytes_length, stopBytes_length, bindBytes_length, watchBytes_length,
      State.crBytes_length, ckptBytes_length, ckptVectors_length, tl, gl, pl, vl]
    omega
  · rw [if_neg h1]
    by_cases h2 : 0 < kt.length
    · rw [if_pos h2, if_neg (by omega), if_pos (by omega)]
      simp only [List.length_append, padTo_length, headerBytes_length, stopBytes_length, bindBytes_length,
        watchBytes_length, State.crBytes_length, ckptBytes_length, ckptVectors_length, tl, gl, pl, vl]
      omega
    · rw [if_neg h2, if_neg (by omega), if_neg (by omega)]
      simp only [List.length_append, padTo_length, headerBytes_length, stopBytes_length, bindBytes_length,
        watchBytes_length, State.crBytes_length, ckptBytes_length, ckptVectors_length, tl, gl, pl, vl]
      omega

end Sys2Proof.Machine
end

