-- ==== Sys2Proof/Laws/State.lean ====
section
/-! SUPPORT. What the accessors of harts and the plainest updates do, field by field, so that no proof unfolds a record
update. -/

namespace Sys2Proof.Machine

/-! ### One hart replaced: every other field of the state stays -/

@[simp] theorem State.setHartAt_cores (s : State) (n : Nat) (h : Hart) : (s.setHartAt n h).cores = s.cores := rfl
@[simp] theorem State.setHartAt_hearths (s : State) (n : Nat) (h : Hart) : (s.setHartAt n h).hearths = s.hearths := rfl
@[simp] theorem State.setHartAt_mem (s : State) (n : Nat) (h : Hart) : (s.setHartAt n h).mem = s.mem := rfl
@[simp] theorem State.setHartAt_poison (s : State) (n : Nat) (h : Hart) : (s.setHartAt n h).poison = s.poison := rfl
@[simp] theorem State.setHartAt_transit (s : State) (n : Nat) (h : Hart) : (s.setHartAt n h).transit = s.transit := rfl
@[simp] theorem State.setHartAt_timelines (s : State) (n : Nat) (h : Hart) : (s.setHartAt n h).timelines = s.timelines := rfl
@[simp] theorem State.setHartAt_prefixes (s : State) (n : Nat) (h : Hart) : (s.setHartAt n h).prefixes = s.prefixes := rfl
@[simp] theorem State.setHartAt_launches (s : State) (n : Nat) (h : Hart) : (s.setHartAt n h).launches = s.launches := rfl
@[simp] theorem State.setHartAt_nextSerial (s : State) (n : Nat) (h : Hart) : (s.setHartAt n h).nextSerial = s.nextSerial := rfl
@[simp] theorem State.setHartAt_queues (s : State) (n : Nat) (h : Hart) : (s.setHartAt n h).queues = s.queues := rfl
@[simp] theorem State.setHartAt_servedLast (s : State) (n : Nat) (h : Hart) : (s.setHartAt n h).servedLast = s.servedLast := rfl
@[simp] theorem State.setHartAt_kites (s : State) (n : Nat) (h : Hart) : (s.setHartAt n h).kites = s.kites := rfl
@[simp] theorem State.setHartAt_nextOp (s : State) (n : Nat) (h : Hart) : (s.setHartAt n h).nextOp = s.nextOp := rfl
@[simp] theorem State.setHartAt_bars (s : State) (n : Nat) (h : Hart) : (s.setHartAt n h).bars = s.bars := rfl
@[simp] theorem State.setHartAt_fabric (s : State) (n : Nat) (h : Hart) : (s.setHartAt n h).fabric = s.fabric := rfl
@[simp] theorem State.setHartAt_sent (s : State) (n : Nat) (h : Hart) : (s.setHartAt n h).sent = s.sent := rfl
@[simp] theorem State.setHartAt_lastSent (s : State) (n : Nat) (h : Hart) : (s.setHartAt n h).lastSent = s.lastSent := rfl
@[simp] theorem State.setHartAt_paths (s : State) (n : Nat) (h : Hart) : (s.setHartAt n h).paths = s.paths := rfl
@[simp] theorem State.setHartAt_routes (s : State) (n : Nat) (h : Hart) : (s.setHartAt n h).routes = s.routes := rfl
@[simp] theorem State.setHartAt_eth (s : State) (n : Nat) (h : Hart) : (s.setHartAt n h).eth = s.eth := rfl
@[simp] theorem State.setHartAt_ports (s : State) (n : Nat) (h : Hart) : (s.setHartAt n h).ports = s.ports := rfl
@[simp] theorem State.setHartAt_rings (s : State) (n : Nat) (h : Hart) : (s.setHartAt n h).rings = s.rings := rfl
@[simp] theorem State.setHartAt_devFlue (s : State) (n : Nat) (h : Hart) : (s.setHartAt n h).devFlue = s.devFlue := rfl
@[simp] theorem State.setHartAt_tsc (s : State) (n : Nat) (h : Hart) : (s.setHartAt n h).tsc = s.tsc := rfl
@[simp] theorem State.setHartAt_tscSync (s : State) (n : Nat) (h : Hart) : (s.setHartAt n h).tscSync = s.tscSync := rfl
@[simp] theorem State.setHartAt_devnum (s : State) (n : Nat) (h : Hart) : (s.setHartAt n h).devnum = s.devnum := rfl
@[simp] theorem State.setHartAt_ready (s : State) (n : Nat) (h : Hart) : (s.setHartAt n h).ready = s.ready := rfl
@[simp] theorem State.setHartAt_cxlmem (s : State) (n : Nat) (h : Hart) : (s.setHartAt n h).cxlmem = s.cxlmem := rfl
@[simp] theorem State.setHartAt_cxlcache (s : State) (n : Nat) (h : Hart) : (s.setHartAt n h).cxlcache = s.cxlcache := rfl
@[simp] theorem State.setHartAt_svcreq (s : State) (n : Nat) (h : Hart) : (s.setHartAt n h).svcreq = s.svcreq := rfl
@[simp] theorem State.setHartAt_ketype (s : State) (n : Nat) (h : Hart) : (s.setHartAt n h).ketype = s.ketype := rfl
@[simp] theorem State.setHartAt_unattr (s : State) (n : Nat) (h : Hart) : (s.setHartAt n h).unattr = s.unattr := rfl
@[simp] theorem State.setHartAt_cehbm (s : State) (n : Nat) (h : Hart) : (s.setHartAt n h).cehbm = s.cehbm := rfl
@[simp] theorem State.setHartAt_cesram (s : State) (n : Nat) (h : Hart) : (s.setHartAt n h).cesram = s.cesram := rfl
@[simp] theorem State.setHartAt_uecount (s : State) (n : Nat) (h : Hart) : (s.setHartAt n h).uecount = s.uecount := rfl
@[simp] theorem State.setHartAt_ueaddr (s : State) (n : Nat) (h : Hart) : (s.setHartAt n h).ueaddr = s.ueaddr := rfl
@[simp] theorem State.setHartAt_fwsrc (s : State) (n : Nat) (h : Hart) : (s.setHartAt n h).fwsrc = s.fwsrc := rfl
@[simp] theorem State.setHartAt_fwlen (s : State) (n : Nat) (h : Hart) : (s.setHartAt n h).fwlen = s.fwlen := rfl
@[simp] theorem State.setHartAt_fw (s : State) (n : Nat) (h : Hart) : (s.setHartAt n h).fw = s.fw := rfl
@[simp] theorem State.setHartAt_pwrcap (s : State) (n : Nat) (h : Hart) : (s.setHartAt n h).pwrcap = s.pwrcap := rfl
@[simp] theorem State.setHartAt_pwrnow (s : State) (n : Nat) (h : Hart) : (s.setHartAt n h).pwrnow = s.pwrnow := rfl
@[simp] theorem State.setHartAt_lowering (s : State) (n : Nat) (h : Hart) : (s.setHartAt n h).lowering = s.lowering := rfl
@[simp] theorem State.setHartAt_temp (s : State) (n : Nat) (h : Hart) : (s.setHartAt n h).temp = s.temp := rfl
@[simp] theorem State.setHartAt_hot (s : State) (n : Nat) (h : Hart) : (s.setHartAt n h).hot = s.hot := rfl
@[simp] theorem State.setHartAt_noDispatch (s : State) (n : Nat) (h : Hart) : (s.setHartAt n h).noDispatch = s.noDispatch := rfl
@[simp] theorem State.setHartAt_pgate (s : State) (n : Nat) (h : Hart) : (s.setHartAt n h).pgate = s.pgate := rfl
@[simp] theorem State.setHartAt_blocking (s : State) (n : Nat) (h : Hart) : (s.setHartAt n h).blocking = s.blocking := rfl
@[simp] theorem State.setHartAt_msix (s : State) (n : Nat) (h : Hart) : (s.setHartAt n h).msix = s.msix := rfl
@[simp] theorem State.setHartAt_hostData (s : State) (n : Nat) (h : Hart) : (s.setHartAt n h).hostData = s.hostData := rfl
@[simp] theorem State.setHartAt_cur (s : State) (n : Nat) (h : Hart) : (s.setHartAt n h).cur = s.cur := rfl
@[simp] theorem State.setHartAt_inbox (s : State) (n : Nat) (h : Hart) : (s.setHartAt n h).inbox = s.inbox := rfl
@[simp] theorem State.setHartAt_turns (s : State) (n : Nat) (h : Hart) : (s.setHartAt n h).turns = s.turns := rfl
@[simp] theorem State.setHartAt_ticked (s : State) (n : Nat) (h : Hart) : (s.setHartAt n h).ticked = s.ticked := rfl
@[simp] theorem State.setHartAt_eager (s : State) (n : Nat) (h : Hart) : (s.setHartAt n h).eager = s.eager := rfl
@[simp] theorem State.setHartAt_fresh (s : State) (n : Nat) (h : Hart) : (s.setHartAt n h).fresh = s.fresh := rfl
@[simp] theorem State.setHartAt_stamp (s : State) (n : Nat) (h : Hart) : (s.setHartAt n h).stamp = s.stamp := rfl
@[simp] theorem State.setHart_cores (s : State) (h : Hart) : (s.setHart h).cores = s.cores := rfl
@[simp] theorem State.setHart_hearths (s : State) (h : Hart) : (s.setHart h).hearths = s.hearths := rfl
@[simp] theorem State.setHart_mem (s : State) (h : Hart) : (s.setHart h).mem = s.mem := rfl
@[simp] theorem State.setHart_poison (s : State) (h : Hart) : (s.setHart h).poison = s.poison := rfl
@[simp] theorem State.setHart_transit (s : State) (h : Hart) : (s.setHart h).transit = s.transit := rfl
@[simp] theorem State.setHart_timelines (s : State) (h : Hart) : (s.setHart h).timelines = s.timelines := rfl
@[simp] theorem State.setHart_prefixes (s : State) (h : Hart) : (s.setHart h).prefixes = s.prefixes := rfl
@[simp] theorem State.setHart_launches (s : State) (h : Hart) : (s.setHart h).launches = s.launches := rfl
@[simp] theorem State.setHart_nextSerial (s : State) (h : Hart) : (s.setHart h).nextSerial = s.nextSerial := rfl
@[simp] theorem State.setHart_queues (s : State) (h : Hart) : (s.setHart h).queues = s.queues := rfl
@[simp] theorem State.setHart_servedLast (s : State) (h : Hart) : (s.setHart h).servedLast = s.servedLast := rfl
@[simp] theorem State.setHart_kites (s : State) (h : Hart) : (s.setHart h).kites = s.kites := rfl
@[simp] theorem State.setHart_nextOp (s : State) (h : Hart) : (s.setHart h).nextOp = s.nextOp := rfl
@[simp] theorem State.setHart_bars (s : State) (h : Hart) : (s.setHart h).bars = s.bars := rfl
@[simp] theorem State.setHart_fabric (s : State) (h : Hart) : (s.setHart h).fabric = s.fabric := rfl
@[simp] theorem State.setHart_sent (s : State) (h : Hart) : (s.setHart h).sent = s.sent := rfl
@[simp] theorem State.setHart_lastSent (s : State) (h : Hart) : (s.setHart h).lastSent = s.lastSent := rfl
@[simp] theorem State.setHart_paths (s : State) (h : Hart) : (s.setHart h).paths = s.paths := rfl
@[simp] theorem State.setHart_routes (s : State) (h : Hart) : (s.setHart h).routes = s.routes := rfl
@[simp] theorem State.setHart_eth (s : State) (h : Hart) : (s.setHart h).eth = s.eth := rfl
@[simp] theorem State.setHart_ports (s : State) (h : Hart) : (s.setHart h).ports = s.ports := rfl
@[simp] theorem State.setHart_rings (s : State) (h : Hart) : (s.setHart h).rings = s.rings := rfl
@[simp] theorem State.setHart_devFlue (s : State) (h : Hart) : (s.setHart h).devFlue = s.devFlue := rfl
@[simp] theorem State.setHart_tsc (s : State) (h : Hart) : (s.setHart h).tsc = s.tsc := rfl
@[simp] theorem State.setHart_tscSync (s : State) (h : Hart) : (s.setHart h).tscSync = s.tscSync := rfl
@[simp] theorem State.setHart_devnum (s : State) (h : Hart) : (s.setHart h).devnum = s.devnum := rfl
@[simp] theorem State.setHart_ready (s : State) (h : Hart) : (s.setHart h).ready = s.ready := rfl
@[simp] theorem State.setHart_cxlmem (s : State) (h : Hart) : (s.setHart h).cxlmem = s.cxlmem := rfl
@[simp] theorem State.setHart_cxlcache (s : State) (h : Hart) : (s.setHart h).cxlcache = s.cxlcache := rfl
@[simp] theorem State.setHart_svcreq (s : State) (h : Hart) : (s.setHart h).svcreq = s.svcreq := rfl
@[simp] theorem State.setHart_ketype (s : State) (h : Hart) : (s.setHart h).ketype = s.ketype := rfl
@[simp] theorem State.setHart_unattr (s : State) (h : Hart) : (s.setHart h).unattr = s.unattr := rfl
@[simp] theorem State.setHart_cehbm (s : State) (h : Hart) : (s.setHart h).cehbm = s.cehbm := rfl
@[simp] theorem State.setHart_cesram (s : State) (h : Hart) : (s.setHart h).cesram = s.cesram := rfl
@[simp] theorem State.setHart_uecount (s : State) (h : Hart) : (s.setHart h).uecount = s.uecount := rfl
@[simp] theorem State.setHart_ueaddr (s : State) (h : Hart) : (s.setHart h).ueaddr = s.ueaddr := rfl
@[simp] theorem State.setHart_fwsrc (s : State) (h : Hart) : (s.setHart h).fwsrc = s.fwsrc := rfl
@[simp] theorem State.setHart_fwlen (s : State) (h : Hart) : (s.setHart h).fwlen = s.fwlen := rfl
@[simp] theorem State.setHart_fw (s : State) (h : Hart) : (s.setHart h).fw = s.fw := rfl
@[simp] theorem State.setHart_pwrcap (s : State) (h : Hart) : (s.setHart h).pwrcap = s.pwrcap := rfl
@[simp] theorem State.setHart_pwrnow (s : State) (h : Hart) : (s.setHart h).pwrnow = s.pwrnow := rfl
@[simp] theorem State.setHart_lowering (s : State) (h : Hart) : (s.setHart h).lowering = s.lowering := rfl
@[simp] theorem State.setHart_temp (s : State) (h : Hart) : (s.setHart h).temp = s.temp := rfl
@[simp] theorem State.setHart_hot (s : State) (h : Hart) : (s.setHart h).hot = s.hot := rfl
@[simp] theorem State.setHart_noDispatch (s : State) (h : Hart) : (s.setHart h).noDispatch = s.noDispatch := rfl
@[simp] theorem State.setHart_pgate (s : State) (h : Hart) : (s.setHart h).pgate = s.pgate := rfl
@[simp] theorem State.setHart_blocking (s : State) (h : Hart) : (s.setHart h).blocking = s.blocking := rfl
@[simp] theorem State.setHart_msix (s : State) (h : Hart) : (s.setHart h).msix = s.msix := rfl
@[simp] theorem State.setHart_hostData (s : State) (h : Hart) : (s.setHart h).hostData = s.hostData := rfl
@[simp] theorem State.setHart_cur (s : State) (h : Hart) : (s.setHart h).cur = s.cur := rfl
@[simp] theorem State.setHart_inbox (s : State) (h : Hart) : (s.setHart h).inbox = s.inbox := rfl
@[simp] theorem State.setHart_turns (s : State) (h : Hart) : (s.setHart h).turns = s.turns := rfl
@[simp] theorem State.setHart_ticked (s : State) (h : Hart) : (s.setHart h).ticked = s.ticked := rfl
@[simp] theorem State.setHart_eager (s : State) (h : Hart) : (s.setHart h).eager = s.eager := rfl
@[simp] theorem State.setHart_fresh (s : State) (h : Hart) : (s.setHart h).fresh = s.fresh := rfl
@[simp] theorem State.setHart_stamp (s : State) (h : Hart) : (s.setHart h).stamp = s.stamp := rfl
@[simp] theorem State.modHart_cores (s : State) (f : Hart → Hart) : (s.modHart f).cores = s.cores := rfl
@[simp] theorem State.modHart_hearths (s : State) (f : Hart → Hart) : (s.modHart f).hearths = s.hearths := rfl
@[simp] theorem State.modHart_mem (s : State) (f : Hart → Hart) : (s.modHart f).mem = s.mem := rfl
@[simp] theorem State.modHart_poison (s : State) (f : Hart → Hart) : (s.modHart f).poison = s.poison := rfl
@[simp] theorem State.modHart_transit (s : State) (f : Hart → Hart) : (s.modHart f).transit = s.transit := rfl
@[simp] theorem State.modHart_timelines (s : State) (f : Hart → Hart) : (s.modHart f).timelines = s.timelines := rfl
@[simp] theorem State.modHart_prefixes (s : State) (f : Hart → Hart) : (s.modHart f).prefixes = s.prefixes := rfl
@[simp] theorem State.modHart_launches (s : State) (f : Hart → Hart) : (s.modHart f).launches = s.launches := rfl
@[simp] theorem State.modHart_nextSerial (s : State) (f : Hart → Hart) : (s.modHart f).nextSerial = s.nextSerial := rfl
@[simp] theorem State.modHart_queues (s : State) (f : Hart → Hart) : (s.modHart f).queues = s.queues := rfl
@[simp] theorem State.modHart_servedLast (s : State) (f : Hart → Hart) : (s.modHart f).servedLast = s.servedLast := rfl
@[simp] theorem State.modHart_kites (s : State) (f : Hart → Hart) : (s.modHart f).kites = s.kites := rfl
@[simp] theorem State.modHart_nextOp (s : State) (f : Hart → Hart) : (s.modHart f).nextOp = s.nextOp := rfl
@[simp] theorem State.modHart_bars (s : State) (f : Hart → Hart) : (s.modHart f).bars = s.bars := rfl
@[simp] theorem State.modHart_fabric (s : State) (f : Hart → Hart) : (s.modHart f).fabric = s.fabric := rfl
@[simp] theorem State.modHart_sent (s : State) (f : Hart → Hart) : (s.modHart f).sent = s.sent := rfl
@[simp] theorem State.modHart_lastSent (s : State) (f : Hart → Hart) : (s.modHart f).lastSent = s.lastSent := rfl
@[simp] theorem State.modHart_paths (s : State) (f : Hart → Hart) : (s.modHart f).paths = s.paths := rfl
@[simp] theorem State.modHart_routes (s : State) (f : Hart → Hart) : (s.modHart f).routes = s.routes := rfl
@[simp] theorem State.modHart_eth (s : State) (f : Hart → Hart) : (s.modHart f).eth = s.eth := rfl
@[simp] theorem State.modHart_ports (s : State) (f : Hart → Hart) : (s.modHart f).ports = s.ports := rfl
@[simp] theorem State.modHart_rings (s : State) (f : Hart → Hart) : (s.modHart f).rings = s.rings := rfl
@[simp] theorem State.modHart_devFlue (s : State) (f : Hart → Hart) : (s.modHart f).devFlue = s.devFlue := rfl
@[simp] theorem State.modHart_tsc (s : State) (f : Hart → Hart) : (s.modHart f).tsc = s.tsc := rfl
@[simp] theorem State.modHart_tscSync (s : State) (f : Hart → Hart) : (s.modHart f).tscSync = s.tscSync := rfl
@[simp] theorem State.modHart_devnum (s : State) (f : Hart → Hart) : (s.modHart f).devnum = s.devnum := rfl
@[simp] theorem State.modHart_ready (s : State) (f : Hart → Hart) : (s.modHart f).ready = s.ready := rfl
@[simp] theorem State.modHart_cxlmem (s : State) (f : Hart → Hart) : (s.modHart f).cxlmem = s.cxlmem := rfl
@[simp] theorem State.modHart_cxlcache (s : State) (f : Hart → Hart) : (s.modHart f).cxlcache = s.cxlcache := rfl
@[simp] theorem State.modHart_svcreq (s : State) (f : Hart → Hart) : (s.modHart f).svcreq = s.svcreq := rfl
@[simp] theorem State.modHart_ketype (s : State) (f : Hart → Hart) : (s.modHart f).ketype = s.ketype := rfl
@[simp] theorem State.modHart_unattr (s : State) (f : Hart → Hart) : (s.modHart f).unattr = s.unattr := rfl
@[simp] theorem State.modHart_cehbm (s : State) (f : Hart → Hart) : (s.modHart f).cehbm = s.cehbm := rfl
@[simp] theorem State.modHart_cesram (s : State) (f : Hart → Hart) : (s.modHart f).cesram = s.cesram := rfl
@[simp] theorem State.modHart_uecount (s : State) (f : Hart → Hart) : (s.modHart f).uecount = s.uecount := rfl
@[simp] theorem State.modHart_ueaddr (s : State) (f : Hart → Hart) : (s.modHart f).ueaddr = s.ueaddr := rfl
@[simp] theorem State.modHart_fwsrc (s : State) (f : Hart → Hart) : (s.modHart f).fwsrc = s.fwsrc := rfl
@[simp] theorem State.modHart_fwlen (s : State) (f : Hart → Hart) : (s.modHart f).fwlen = s.fwlen := rfl
@[simp] theorem State.modHart_fw (s : State) (f : Hart → Hart) : (s.modHart f).fw = s.fw := rfl
@[simp] theorem State.modHart_pwrcap (s : State) (f : Hart → Hart) : (s.modHart f).pwrcap = s.pwrcap := rfl
@[simp] theorem State.modHart_pwrnow (s : State) (f : Hart → Hart) : (s.modHart f).pwrnow = s.pwrnow := rfl
@[simp] theorem State.modHart_lowering (s : State) (f : Hart → Hart) : (s.modHart f).lowering = s.lowering := rfl
@[simp] theorem State.modHart_temp (s : State) (f : Hart → Hart) : (s.modHart f).temp = s.temp := rfl
@[simp] theorem State.modHart_hot (s : State) (f : Hart → Hart) : (s.modHart f).hot = s.hot := rfl
@[simp] theorem State.modHart_noDispatch (s : State) (f : Hart → Hart) : (s.modHart f).noDispatch = s.noDispatch := rfl
@[simp] theorem State.modHart_pgate (s : State) (f : Hart → Hart) : (s.modHart f).pgate = s.pgate := rfl
@[simp] theorem State.modHart_blocking (s : State) (f : Hart → Hart) : (s.modHart f).blocking = s.blocking := rfl
@[simp] theorem State.modHart_msix (s : State) (f : Hart → Hart) : (s.modHart f).msix = s.msix := rfl
@[simp] theorem State.modHart_hostData (s : State) (f : Hart → Hart) : (s.modHart f).hostData = s.hostData := rfl
@[simp] theorem State.modHart_cur (s : State) (f : Hart → Hart) : (s.modHart f).cur = s.cur := rfl
@[simp] theorem State.modHart_inbox (s : State) (f : Hart → Hart) : (s.modHart f).inbox = s.inbox := rfl
@[simp] theorem State.modHart_turns (s : State) (f : Hart → Hart) : (s.modHart f).turns = s.turns := rfl
@[simp] theorem State.modHart_ticked (s : State) (f : Hart → Hart) : (s.modHart f).ticked = s.ticked := rfl
@[simp] theorem State.modHart_eager (s : State) (f : Hart → Hart) : (s.modHart f).eager = s.eager := rfl
@[simp] theorem State.modHart_fresh (s : State) (f : Hart → Hart) : (s.modHart f).fresh = s.fresh := rfl
@[simp] theorem State.modHart_stamp (s : State) (f : Hart → Hart) : (s.modHart f).stamp = s.stamp := rfl
@[simp] theorem State.modHartAt_cores (s : State) (n : Nat) (f : Hart → Hart) : (s.modHartAt n f).cores = s.cores := rfl
@[simp] theorem State.modHartAt_hearths (s : State) (n : Nat) (f : Hart → Hart) : (s.modHartAt n f).hearths = s.hearths := rfl
@[simp] theorem State.modHartAt_mem (s : State) (n : Nat) (f : Hart → Hart) : (s.modHartAt n f).mem = s.mem := rfl
@[simp] theorem State.modHartAt_poison (s : State) (n : Nat) (f : Hart → Hart) : (s.modHartAt n f).poison = s.poison := rfl
@[simp] theorem State.modHartAt_transit (s : State) (n : Nat) (f : Hart → Hart) : (s.modHartAt n f).transit = s.transit := rfl
@[simp] theorem State.modHartAt_timelines (s : State) (n : Nat) (f : Hart → Hart) : (s.modHartAt n f).timelines = s.timelines := rfl
@[simp] theorem State.modHartAt_prefixes (s : State) (n : Nat) (f : Hart → Hart) : (s.modHartAt n f).prefixes = s.prefixes := rfl
@[simp] theorem State.modHartAt_launches (s : State) (n : Nat) (f : Hart → Hart) : (s.modHartAt n f).launches = s.launches := rfl
@[simp] theorem State.modHartAt_nextSerial (s : State) (n : Nat) (f : Hart → Hart) : (s.modHartAt n f).nextSerial = s.nextSerial := rfl
@[simp] theorem State.modHartAt_queues (s : State) (n : Nat) (f : Hart → Hart) : (s.modHartAt n f).queues = s.queues := rfl
@[simp] theorem State.modHartAt_servedLast (s : State) (n : Nat) (f : Hart → Hart) : (s.modHartAt n f).servedLast = s.servedLast := rfl
@[simp] theorem State.modHartAt_kites (s : State) (n : Nat) (f : Hart → Hart) : (s.modHartAt n f).kites = s.kites := rfl
@[simp] theorem State.modHartAt_nextOp (s : State) (n : Nat) (f : Hart → Hart) : (s.modHartAt n f).nextOp = s.nextOp := rfl
@[simp] theorem State.modHartAt_bars (s : State) (n : Nat) (f : Hart → Hart) : (s.modHartAt n f).bars = s.bars := rfl
@[simp] theorem State.modHartAt_fabric (s : State) (n : Nat) (f : Hart → Hart) : (s.modHartAt n f).fabric = s.fabric := rfl
@[simp] theorem State.modHartAt_sent (s : State) (n : Nat) (f : Hart → Hart) : (s.modHartAt n f).sent = s.sent := rfl
@[simp] theorem State.modHartAt_lastSent (s : State) (n : Nat) (f : Hart → Hart) : (s.modHartAt n f).lastSent = s.lastSent := rfl
@[simp] theorem State.modHartAt_paths (s : State) (n : Nat) (f : Hart → Hart) : (s.modHartAt n f).paths = s.paths := rfl
@[simp] theorem State.modHartAt_routes (s : State) (n : Nat) (f : Hart → Hart) : (s.modHartAt n f).routes = s.routes := rfl
@[simp] theorem State.modHartAt_eth (s : State) (n : Nat) (f : Hart → Hart) : (s.modHartAt n f).eth = s.eth := rfl
@[simp] theorem State.modHartAt_ports (s : State) (n : Nat) (f : Hart → Hart) : (s.modHartAt n f).ports = s.ports := rfl
@[simp] theorem State.modHartAt_rings (s : State) (n : Nat) (f : Hart → Hart) : (s.modHartAt n f).rings = s.rings := rfl
@[simp] theorem State.modHartAt_devFlue (s : State) (n : Nat) (f : Hart → Hart) : (s.modHartAt n f).devFlue = s.devFlue := rfl
@[simp] theorem State.modHartAt_tsc (s : State) (n : Nat) (f : Hart → Hart) : (s.modHartAt n f).tsc = s.tsc := rfl
@[simp] theorem State.modHartAt_tscSync (s : State) (n : Nat) (f : Hart → Hart) : (s.modHartAt n f).tscSync = s.tscSync := rfl
@[simp] theorem State.modHartAt_devnum (s : State) (n : Nat) (f : Hart → Hart) : (s.modHartAt n f).devnum = s.devnum := rfl
@[simp] theorem State.modHartAt_ready (s : State) (n : Nat) (f : Hart → Hart) : (s.modHartAt n f).ready = s.ready := rfl
@[simp] theorem State.modHartAt_cxlmem (s : State) (n : Nat) (f : Hart → Hart) : (s.modHartAt n f).cxlmem = s.cxlmem := rfl
@[simp] theorem State.modHartAt_cxlcache (s : State) (n : Nat) (f : Hart → Hart) : (s.modHartAt n f).cxlcache = s.cxlcache := rfl
@[simp] theorem State.modHartAt_svcreq (s : State) (n : Nat) (f : Hart → Hart) : (s.modHartAt n f).svcreq = s.svcreq := rfl
@[simp] theorem State.modHartAt_ketype (s : State) (n : Nat) (f : Hart → Hart) : (s.modHartAt n f).ketype = s.ketype := rfl
@[simp] theorem State.modHartAt_unattr (s : State) (n : Nat) (f : Hart → Hart) : (s.modHartAt n f).unattr = s.unattr := rfl
@[simp] theorem State.modHartAt_cehbm (s : State) (n : Nat) (f : Hart → Hart) : (s.modHartAt n f).cehbm = s.cehbm := rfl
@[simp] theorem State.modHartAt_cesram (s : State) (n : Nat) (f : Hart → Hart) : (s.modHartAt n f).cesram = s.cesram := rfl
@[simp] theorem State.modHartAt_uecount (s : State) (n : Nat) (f : Hart → Hart) : (s.modHartAt n f).uecount = s.uecount := rfl
@[simp] theorem State.modHartAt_ueaddr (s : State) (n : Nat) (f : Hart → Hart) : (s.modHartAt n f).ueaddr = s.ueaddr := rfl
@[simp] theorem State.modHartAt_fwsrc (s : State) (n : Nat) (f : Hart → Hart) : (s.modHartAt n f).fwsrc = s.fwsrc := rfl
@[simp] theorem State.modHartAt_fwlen (s : State) (n : Nat) (f : Hart → Hart) : (s.modHartAt n f).fwlen = s.fwlen := rfl
@[simp] theorem State.modHartAt_fw (s : State) (n : Nat) (f : Hart → Hart) : (s.modHartAt n f).fw = s.fw := rfl
@[simp] theorem State.modHartAt_pwrcap (s : State) (n : Nat) (f : Hart → Hart) : (s.modHartAt n f).pwrcap = s.pwrcap := rfl
@[simp] theorem State.modHartAt_pwrnow (s : State) (n : Nat) (f : Hart → Hart) : (s.modHartAt n f).pwrnow = s.pwrnow := rfl
@[simp] theorem State.modHartAt_lowering (s : State) (n : Nat) (f : Hart → Hart) : (s.modHartAt n f).lowering = s.lowering := rfl
@[simp] theorem State.modHartAt_temp (s : State) (n : Nat) (f : Hart → Hart) : (s.modHartAt n f).temp = s.temp := rfl
@[simp] theorem State.modHartAt_hot (s : State) (n : Nat) (f : Hart → Hart) : (s.modHartAt n f).hot = s.hot := rfl
@[simp] theorem State.modHartAt_noDispatch (s : State) (n : Nat) (f : Hart → Hart) : (s.modHartAt n f).noDispatch = s.noDispatch := rfl
@[simp] theorem State.modHartAt_pgate (s : State) (n : Nat) (f : Hart → Hart) : (s.modHartAt n f).pgate = s.pgate := rfl
@[simp] theorem State.modHartAt_blocking (s : State) (n : Nat) (f : Hart → Hart) : (s.modHartAt n f).blocking = s.blocking := rfl
@[simp] theorem State.modHartAt_msix (s : State) (n : Nat) (f : Hart → Hart) : (s.modHartAt n f).msix = s.msix := rfl
@[simp] theorem State.modHartAt_hostData (s : State) (n : Nat) (f : Hart → Hart) : (s.modHartAt n f).hostData = s.hostData := rfl
@[simp] theorem State.modHartAt_cur (s : State) (n : Nat) (f : Hart → Hart) : (s.modHartAt n f).cur = s.cur := rfl
@[simp] theorem State.modHartAt_inbox (s : State) (n : Nat) (f : Hart → Hart) : (s.modHartAt n f).inbox = s.inbox := rfl
@[simp] theorem State.modHartAt_turns (s : State) (n : Nat) (f : Hart → Hart) : (s.modHartAt n f).turns = s.turns := rfl
@[simp] theorem State.modHartAt_ticked (s : State) (n : Nat) (f : Hart → Hart) : (s.modHartAt n f).ticked = s.ticked := rfl
@[simp] theorem State.modHartAt_eager (s : State) (n : Nat) (f : Hart → Hart) : (s.modHartAt n f).eager = s.eager := rfl
@[simp] theorem State.modHartAt_fresh (s : State) (n : Nat) (f : Hart → Hart) : (s.modHartAt n f).fresh = s.fresh := rfl
@[simp] theorem State.modHartAt_stamp (s : State) (n : Nat) (f : Hart → Hart) : (s.modHartAt n f).stamp = s.stamp := rfl

/-! ### The hart read back -/

@[simp] theorem State.hartAt_setHartAt (s : State) (n : Nat) (h : Hart) (hn : n < 512) :
    (s.setHartAt n h).hartAt n = h := by
  simp [State.setHartAt, State.hartAt, hn]

theorem State.hartAt_setHartAt_ne (s : State) (n m : Nat) (h : Hart) (hm : m ≠ n) :
    (s.setHartAt n h).hartAt m = s.hartAt m := by
  simp [State.setHartAt, State.hartAt, Ne.symm hm]

@[simp] theorem State.hart_setHart (s : State) (h : Hart) (hc : s.cur < 512) : (s.setHart h).hart = h :=
  State.hartAt_setHartAt s s.cur h hc

@[simp] theorem State.hart_modHart (s : State) (f : Hart → Hart) (hc : s.cur < 512) :
    (s.modHart f).hart = f s.hart := State.hart_setHart s _ hc

theorem State.setHart_hart (s : State) : s.setHart s.hart = s := by
  have h : s.harts.setIfInBounds s.cur ((s.harts[s.cur]?).getD .reset) = s.harts := by
    apply Vector.ext
    intro i hi
    by_cases h : s.cur = i
    · subst h; simp [hi]
    · simp [h]
  cases s; simp only [State.setHart, State.setHartAt, State.hart, State.hartAt] at *; rw [h]

@[simp] theorem State.setHart_setHart (s : State) (h k : Hart) : (s.setHart h).setHart k = s.setHart k := by
  have e : (s.harts.setIfInBounds s.cur h).setIfInBounds s.cur k = s.harts.setIfInBounds s.cur k := by
    apply Vector.ext
    intro i hi
    by_cases h : s.cur = i <;> simp [h]
  simp only [State.setHart, State.setHartAt]; rw [e]

theorem State.modHart_eq (s : State) (f : Hart → Hart) : s.modHart f = s.setHart (f s.hart) := rfl

theorem State.modHart_modHart (s : State) (f g : Hart → Hart) (hc : s.cur < 512) :
    (s.modHart f).modHart g = s.modHart (fun h => g (f h)) := by
  simp only [State.modHart_eq, State.setHart_setHart, State.hart_setHart s _ hc]

/-! ### A g register written: g0 reads as zero, every other register reads back (R11) -/

@[simp] theorem Hart.gset_v (h : Hart) (i : Nat) (x : Word) : (h.gset i x).v = h.v := by unfold Hart.gset; split <;> rfl
@[simp] theorem Hart.gset_p (h : Hart) (i : Nat) (x : Word) : (h.gset i x).p = h.p := by unfold Hart.gset; split <;> rfl
@[simp] theorem Hart.gset_pc (h : Hart) (i : Nat) (x : Word) : (h.gset i x).pc = h.pc := by unfold Hart.gset; split <;> rfl
@[simp] theorem Hart.gset_tiles (h : Hart) (i : Nat) (x : Word) : (h.gset i x).tiles = h.tiles := by unfold Hart.gset; split <;> rfl
@[simp] theorem Hart.gset_keptTiles (h : Hart) (i : Nat) (x : Word) : (h.gset i x).keptTiles = h.keptTiles := by unfold Hart.gset; split <;> rfl
@[simp] theorem Hart.gset_vcfg (h : Hart) (i : Nat) (x : Word) : (h.gset i x).vcfg = h.vcfg := by unfold Hart.gset; split <;> rfl
@[simp] theorem Hart.gset_vmsk (h : Hart) (i : Nat) (x : Word) : (h.gset i x).vmsk = h.vmsk := by unfold Hart.gset; split <;> rfl
@[simp] theorem Hart.gset_vstr (h : Hart) (i : Nat) (x : Word) : (h.gset i x).vstr = h.vstr := by unfold Hart.gset; split <;> rfl
@[simp] theorem Hart.gset_vpstr (h : Hart) (i : Nat) (x : Word) : (h.gset i x).vpstr = h.vpstr := by unfold Hart.gset; split <;> rfl
@[simp] theorem Hart.gset_vresume (h : Hart) (i : Nat) (x : Word) : (h.gset i x).vresume = h.vresume := by unfold Hart.gset; split <;> rfl
@[simp] theorem Hart.gset_vexit (h : Hart) (i : Nat) (x : Word) : (h.gset i x).vexit = h.vexit := by unfold Hart.gset; split <;> rfl
@[simp] theorem Hart.gset_vftrim (h : Hart) (i : Nat) (x : Word) : (h.gset i x).vftrim = h.vftrim := by unfold Hart.gset; split <;> rfl
@[simp] theorem Hart.gset_ftrimPlace (h : Hart) (i : Nat) (x : Word) : (h.gset i x).ftrimPlace = h.ftrimPlace := by unfold Hart.gset; split <;> rfl
@[simp] theorem Hart.gset_sckm (h : Hart) (i : Nat) (x : Word) : (h.gset i x).sckm = h.sckm := by unfold Hart.gset; split <;> rfl
@[simp] theorem Hart.gset_heblim (h : Hart) (i : Nat) (x : Word) : (h.gset i x).heblim = h.heblim := by unfold Hart.gset; split <;> rfl
@[simp] theorem Hart.gset_mscale (h : Hart) (i : Nat) (x : Word) : (h.gset i x).mscale = h.mscale := by unfold Hart.gset; split <;> rfl
@[simp] theorem Hart.gset_fpmode (h : Hart) (i : Nat) (x : Word) : (h.gset i x).fpmode = h.fpmode := by unfold Hart.gset; split <;> rfl
@[simp] theorem Hart.gset_fpflags (h : Hart) (i : Nat) (x : Word) : (h.gset i x).fpflags = h.fpflags := by unfold Hart.gset; split <;> rfl
@[simp] theorem Hart.gset_retiredLanes (h : Hart) (i : Nat) (x : Word) : (h.gset i x).retiredLanes = h.retiredLanes := by unfold Hart.gset; split <;> rfl
@[simp] theorem Hart.gset_sup (h : Hart) (i : Nat) (x : Word) : (h.gset i x).sup = h.sup := by unfold Hart.gset; split <;> rfl
@[simp] theorem Hart.gset_psup (h : Hart) (i : Nat) (x : Word) : (h.gset i x).psup = h.psup := by unfold Hart.gset; split <;> rfl
@[simp] theorem Hart.gset_mirror (h : Hart) (i : Nat) (x : Word) : (h.gset i x).mirror = h.mirror := by unfold Hart.gset; split <;> rfl
@[simp] theorem Hart.gset_miract (h : Hart) (i : Nat) (x : Word) : (h.gset i x).miract = h.miract := by unfold Hart.gset; split <;> rfl
@[simp] theorem Hart.gset_stripNo (h : Hart) (i : Nat) (x : Word) : (h.gset i x).stripNo = h.stripNo := by unfold Hart.gset; split <;> rfl
@[simp] theorem Hart.gset_stripK (h : Hart) (i : Nat) (x : Word) : (h.gset i x).stripK = h.stripK := by unfold Hart.gset; split <;> rfl
@[simp] theorem Hart.gset_drained (h : Hart) (i : Nat) (x : Word) : (h.gset i x).drained = h.drained := by unfold Hart.gset; split <;> rfl
@[simp] theorem Hart.gset_poisoned (h : Hart) (i : Nat) (x : Word) : (h.gset i x).poisoned = h.poisoned := by unfold Hart.gset; split <;> rfl
@[simp] theorem Hart.gset_paddr (h : Hart) (i : Nat) (x : Word) : (h.gset i x).paddr = h.paddr := by unfold Hart.gset; split <;> rfl
@[simp] theorem Hart.gset_paddrPlace (h : Hart) (i : Nat) (x : Word) : (h.gset i x).paddrPlace = h.paddrPlace := by unfold Hart.gset; split <;> rfl
@[simp] theorem Hart.gset_kvcfg (h : Hart) (i : Nat) (x : Word) : (h.gset i x).kvcfg = h.kvcfg := by unfold Hart.gset; split <;> rfl
@[simp] theorem Hart.gset_lcuse (h : Hart) (i : Nat) (x : Word) : (h.gset i x).lcuse = h.lcuse := by unfold Hart.gset; split <;> rfl
@[simp] theorem Hart.gset_lcmask (h : Hart) (i : Nat) (x : Word) : (h.gset i x).lcmask = h.lcmask := by unfold Hart.gset; split <;> rfl
@[simp] theorem Hart.gset_lctail (h : Hart) (i : Nat) (x : Word) : (h.gset i x).lctail = h.lctail := by unfold Hart.gset; split <;> rfl
@[simp] theorem Hart.gset_lcstart (h : Hart) (i : Nat) (x : Word) : (h.gset i x).lcstart = h.lcstart := by unfold Hart.gset; split <;> rfl
@[simp] theorem Hart.gset_lcstall (h : Hart) (i : Nat) (x : Word) : (h.gset i x).lcstall = h.lcstall := by unfold Hart.gset; split <;> rfl
@[simp] theorem Hart.gset_charge (h : Hart) (i : Nat) (x : Word) : (h.gset i x).charge = h.charge := by unfold Hart.gset; split <;> rfl
@[simp] theorem Hart.gset_activity (h : Hart) (i : Nat) (x : Word) : (h.gset i x).activity = h.activity := by unfold Hart.gset; split <;> rfl
@[simp] theorem Hart.gset_ahead (h : Hart) (i : Nat) (x : Word) : (h.gset i x).ahead = h.ahead := by unfold Hart.gset; split <;> rfl
@[simp] theorem Hart.gset_moved (h : Hart) (i : Nat) (x : Word) : (h.gset i x).moved = h.moved := by unfold Hart.gset; split <;> rfl
@[simp] theorem Hart.gset_trapcause (h : Hart) (i : Nat) (x : Word) : (h.gset i x).trapcause = h.trapcause := by unfold Hart.gset; split <;> rfl
@[simp] theorem Hart.gset_trappc (h : Hart) (i : Nat) (x : Word) : (h.gset i x).trappc = h.trappc := by unfold Hart.gset; split <;> rfl
@[simp] theorem Hart.gset_trapmem (h : Hart) (i : Nat) (x : Word) : (h.gset i x).trapmem = h.trapmem := by unfold Hart.gset; split <;> rfl
@[simp] theorem Hart.gset_trapelem (h : Hart) (i : Nat) (x : Word) : (h.gset i x).trapelem = h.trapelem := by unfold Hart.gset; split <;> rfl
@[simp] theorem Hart.gset_trapval (h : Hart) (i : Nat) (x : Word) : (h.gset i x).trapval = h.trapval := by unfold Hart.gset; split <;> rfl
@[simp] theorem Hart.gset_trapspc (h : Hart) (i : Nat) (x : Word) : (h.gset i x).trapspc = h.trapspc := by unfold Hart.gset; split <;> rfl
@[simp] theorem Hart.gset_trapvec (h : Hart) (i : Nat) (x : Word) : (h.gset i x).trapvec = h.trapvec := by unfold Hart.gset; split <;> rfl
@[simp] theorem Hart.gset_sscratch (h : Hart) (i : Nat) (x : Word) : (h.gset i x).sscratch = h.sscratch := by unfold Hart.gset; split <;> rfl
@[simp] theorem Hart.gset_queue (h : Hart) (i : Nat) (x : Word) : (h.gset i x).queue = h.queue := by unfold Hart.gset; split <;> rfl
@[simp] theorem Hart.gset_stopped (h : Hart) (i : Nat) (x : Word) : (h.gset i x).stopped = h.stopped := by unfold Hart.gset; split <;> rfl
@[simp] theorem Hart.gset_watched (h : Hart) (i : Nat) (x : Word) : (h.gset i x).watched = h.watched := by unfold Hart.gset; split <;> rfl
@[simp] theorem Hart.gset_held (h : Hart) (i : Nat) (x : Word) : (h.gset i x).held = h.held := by unfold Hart.gset; split <;> rfl
@[simp] theorem Hart.gset_waiting (h : Hart) (i : Nat) (x : Word) : (h.gset i x).waiting = h.waiting := by unfold Hart.gset; split <;> rfl
@[simp] theorem Hart.gset_ckpt (h : Hart) (i : Nat) (x : Word) : (h.gset i x).ckpt = h.ckpt := by unfold Hart.gset; split <;> rfl
@[simp] theorem Hart.gset_bound (h : Hart) (i : Nat) (x : Word) : (h.gset i x).bound = h.bound := by unfold Hart.gset; split <;> rfl
@[simp] theorem Hart.gset_binds (h : Hart) (i : Nat) (x : Word) : (h.gset i x).binds = h.binds := by unfold Hart.gset; split <;> rfl
@[simp] theorem Hart.gset_watch (h : Hart) (i : Nat) (x : Word) : (h.gset i x).watch = h.watch := by unfold Hart.gset; split <;> rfl
@[simp] theorem Hart.gset_wait (h : Hart) (i : Nat) (x : Word) : (h.gset i x).wait = h.wait := by unfold Hart.gset; split <;> rfl
@[simp] theorem Hart.gset_parkedAt (h : Hart) (i : Nat) (x : Word) : (h.gset i x).parkedAt = h.parkedAt := by unfold Hart.gset; split <;> rfl
@[simp] theorem Hart.gset_parkedTsc (h : Hart) (i : Nat) (x : Word) : (h.gset i x).parkedTsc = h.parkedTsc := by unfold Hart.gset; split <;> rfl
@[simp] theorem Hart.gset_slotRes (h : Hart) (i : Nat) (x : Word) : (h.gset i x).slotRes = h.slotRes := by unfold Hart.gset; split <;> rfl
@[simp] theorem Hart.gset_place (h : Hart) (i : Nat) (x : Word) : (h.gset i x).place = h.place := by unfold Hart.gset; split <;> rfl
@[simp] theorem Hart.gset_laneSince (h : Hart) (i : Nat) (x : Word) : (h.gset i x).laneSince = h.laneSince := by unfold Hart.gset; split <;> rfl
@[simp] theorem Hart.gset_laneShort (h : Hart) (i : Nat) (x : Word) : (h.gset i x).laneShort = h.laneShort := by unfold Hart.gset; split <;> rfl
@[simp] theorem Hart.gset_readyClocks (h : Hart) (i : Nat) (x : Word) : (h.gset i x).readyClocks = h.readyClocks := by unfold Hart.gset; split <;> rfl
@[simp] theorem Hart.gset_promoted (h : Hart) (i : Nat) (x : Word) : (h.gset i x).promoted = h.promoted := by unfold Hart.gset; split <;> rfl
@[simp] theorem Hart.gset_tileReady (h : Hart) (i : Nat) (x : Word) : (h.gset i x).tileReady = h.tileReady := by unfold Hart.gset; split <;> rfl
@[simp] theorem Hart.gset_tilePromoted (h : Hart) (i : Nat) (x : Word) : (h.gset i x).tilePromoted = h.tilePromoted := by unfold Hart.gset; split <;> rfl
@[simp] theorem Hart.gset_yielded (h : Hart) (i : Nat) (x : Word) : (h.gset i x).yielded = h.yielded := by unfold Hart.gset; split <;> rfl
@[simp] theorem Hart.gset_entering (h : Hart) (i : Nat) (x : Word) : (h.gset i x).entering = h.entering := by unfold Hart.gset; split <;> rfl
@[simp] theorem Hart.gset_split (h : Hart) (i : Nat) (x : Word) : (h.gset i x).split = h.split := by unfold Hart.gset; split <;> rfl
@[simp] theorem Hart.gset_nextSeq (h : Hart) (i : Nat) (x : Word) : (h.gset i x).nextSeq = h.nextSeq := by unfold Hart.gset; split <;> rfl
@[simp] theorem Hart.gset_fences (h : Hart) (i : Nat) (x : Word) : (h.gset i x).fences = h.fences := by unfold Hart.gset; split <;> rfl
@[simp] theorem Hart.gset_lastVl (h : Hart) (i : Nat) (x : Word) : (h.gset i x).lastVl = h.lastVl := by unfold Hart.gset; split <;> rfl
@[simp] theorem Hart.gset_stopping (h : Hart) (i : Nat) (x : Word) : (h.gset i x).stopping = h.stopping := by unfold Hart.gset; split <;> rfl
@[simp] theorem Hart.gset_placedTsc (h : Hart) (i : Nat) (x : Word) : (h.gset i x).placedTsc = h.placedTsc := by unfold Hart.gset; split <;> rfl
@[simp] theorem Hart.gset_dbg (h : Hart) (i : Nat) (x : Word) : (h.gset i x).dbg = h.dbg := by unfold Hart.gset; split <;> rfl
@[simp] theorem Hart.gset_regError (h : Hart) (i : Nat) (x : Word) : (h.gset i x).regError = h.regError := by unfold Hart.gset; split <;> rfl
@[simp] theorem Hart.gset_mirrorError (h : Hart) (i : Nat) (x : Word) : (h.gset i x).mirrorError = h.mirrorError := by unfold Hart.gset; split <;> rfl
@[simp] theorem Hart.gset_image (h : Hart) (i : Nat) (x : Word) : (h.gset i x).image = h.image := by unfold Hart.gset; split <;> rfl

@[simp] theorem Hart.gget_zero (h : Hart) : h.gget 0 = 0 := rfl

theorem Hart.gget_gset (h : Hart) (i : Nat) (x : Word) (hi : i < 32) :
    (h.gset i x).gget i = if i = 0 then 0 else x := by
  unfold Hart.gset Hart.gget
  by_cases h0 : i = 0 <;> simp [h0, hi]

theorem Hart.gget_gset_ne (h : Hart) (i j : Nat) (x : Word) (hij : j ≠ i) : (h.gset i x).gget j = h.gget j := by
  unfold Hart.gset Hart.gget
  by_cases h0 : i = 0 <;> simp [h0, Ne.symm hij]

theorem Hart.gset_eq (h : Hart) (i : Nat) (x : Word) : h.gset i x = { h with g := (h.gset i x).g } := by
  unfold Hart.gset; split <;> rfl

/-! ### A vector register written -/

@[simp] theorem Hart.vset_g (h : Hart) (i : Nat) (x : VReg) : (h.vset i x).g = h.g := rfl
@[simp] theorem Hart.vset_p (h : Hart) (i : Nat) (x : VReg) : (h.vset i x).p = h.p := rfl
@[simp] theorem Hart.vset_pc (h : Hart) (i : Nat) (x : VReg) : (h.vset i x).pc = h.pc := rfl
@[simp] theorem Hart.vset_tiles (h : Hart) (i : Nat) (x : VReg) : (h.vset i x).tiles = h.tiles := rfl
@[simp] theorem Hart.vset_keptTiles (h : Hart) (i : Nat) (x : VReg) : (h.vset i x).keptTiles = h.keptTiles := rfl
@[simp] theorem Hart.vset_vcfg (h : Hart) (i : Nat) (x : VReg) : (h.vset i x).vcfg = h.vcfg := rfl
@[simp] theorem Hart.vset_vmsk (h : Hart) (i : Nat) (x : VReg) : (h.vset i x).vmsk = h.vmsk := rfl
@[simp] theorem Hart.vset_vstr (h : Hart) (i : Nat) (x : VReg) : (h.vset i x).vstr = h.vstr := rfl
@[simp] theorem Hart.vset_vpstr (h : Hart) (i : Nat) (x : VReg) : (h.vset i x).vpstr = h.vpstr := rfl
@[simp] theorem Hart.vset_vresume (h : Hart) (i : Nat) (x : VReg) : (h.vset i x).vresume = h.vresume := rfl
@[simp] theorem Hart.vset_vexit (h : Hart) (i : Nat) (x : VReg) : (h.vset i x).vexit = h.vexit := rfl
@[simp] theorem Hart.vset_vftrim (h : Hart) (i : Nat) (x : VReg) : (h.vset i x).vftrim = h.vftrim := rfl
@[simp] theorem Hart.vset_ftrimPlace (h : Hart) (i : Nat) (x : VReg) : (h.vset i x).ftrimPlace = h.ftrimPlace := rfl
@[simp] theorem Hart.vset_sckm (h : Hart) (i : Nat) (x : VReg) : (h.vset i x).sckm = h.sckm := rfl
@[simp] theorem Hart.vset_heblim (h : Hart) (i : Nat) (x : VReg) : (h.vset i x).heblim = h.heblim := rfl
@[simp] theorem Hart.vset_mscale (h : Hart) (i : Nat) (x : VReg) : (h.vset i x).mscale = h.mscale := rfl
@[simp] theorem Hart.vset_fpmode (h : Hart) (i : Nat) (x : VReg) : (h.vset i x).fpmode = h.fpmode := rfl
@[simp] theorem Hart.vset_fpflags (h : Hart) (i : Nat) (x : VReg) : (h.vset i x).fpflags = h.fpflags := rfl
@[simp] theorem Hart.vset_retiredLanes (h : Hart) (i : Nat) (x : VReg) : (h.vset i x).retiredLanes = h.retiredLanes := rfl
@[simp] theorem Hart.vset_sup (h : Hart) (i : Nat) (x : VReg) : (h.vset i x).sup = h.sup := rfl
@[simp] theorem Hart.vset_psup (h : Hart) (i : Nat) (x : VReg) : (h.vset i x).psup = h.psup := rfl
@[simp] theorem Hart.vset_mirror (h : Hart) (i : Nat) (x : VReg) : (h.vset i x).mirror = h.mirror := rfl
@[simp] theorem Hart.vset_miract (h : Hart) (i : Nat) (x : VReg) : (h.vset i x).miract = h.miract := rfl
@[simp] theorem Hart.vset_stripNo (h : Hart) (i : Nat) (x : VReg) : (h.vset i x).stripNo = h.stripNo := rfl
@[simp] theorem Hart.vset_stripK (h : Hart) (i : Nat) (x : VReg) : (h.vset i x).stripK = h.stripK := rfl
@[simp] theorem Hart.vset_drained (h : Hart) (i : Nat) (x : VReg) : (h.vset i x).drained = h.drained := rfl
@[simp] theorem Hart.vset_poisoned (h : Hart) (i : Nat) (x : VReg) : (h.vset i x).poisoned = h.poisoned := rfl
@[simp] theorem Hart.vset_paddr (h : Hart) (i : Nat) (x : VReg) : (h.vset i x).paddr = h.paddr := rfl
@[simp] theorem Hart.vset_paddrPlace (h : Hart) (i : Nat) (x : VReg) : (h.vset i x).paddrPlace = h.paddrPlace := rfl
@[simp] theorem Hart.vset_kvcfg (h : Hart) (i : Nat) (x : VReg) : (h.vset i x).kvcfg = h.kvcfg := rfl
@[simp] theorem Hart.vset_lcuse (h : Hart) (i : Nat) (x : VReg) : (h.vset i x).lcuse = h.lcuse := rfl
@[simp] theorem Hart.vset_lcmask (h : Hart) (i : Nat) (x : VReg) : (h.vset i x).lcmask = h.lcmask := rfl
@[simp] theorem Hart.vset_lctail (h : Hart) (i : Nat) (x : VReg) : (h.vset i x).lctail = h.lctail := rfl
@[simp] theorem Hart.vset_lcstart (h : Hart) (i : Nat) (x : VReg) : (h.vset i x).lcstart = h.lcstart := rfl
@[simp] theorem Hart.vset_lcstall (h : Hart) (i : Nat) (x : VReg) : (h.vset i x).lcstall = h.lcstall := rfl
@[simp] theorem Hart.vset_charge (h : Hart) (i : Nat) (x : VReg) : (h.vset i x).charge = h.charge := rfl
@[simp] theorem Hart.vset_activity (h : Hart) (i : Nat) (x : VReg) : (h.vset i x).activity = h.activity := rfl
@[simp] theorem Hart.vset_ahead (h : Hart) (i : Nat) (x : VReg) : (h.vset i x).ahead = h.ahead := rfl
@[simp] theorem Hart.vset_moved (h : Hart) (i : Nat) (x : VReg) : (h.vset i x).moved = h.moved := rfl
@[simp] theorem Hart.vset_trapcause (h : Hart) (i : Nat) (x : VReg) : (h.vset i x).trapcause = h.trapcause := rfl
@[simp] theorem Hart.vset_trappc (h : Hart) (i : Nat) (x : VReg) : (h.vset i x).trappc = h.trappc := rfl
@[simp] theorem Hart.vset_trapmem (h : Hart) (i : Nat) (x : VReg) : (h.vset i x).trapmem = h.trapmem := rfl
@[simp] theorem Hart.vset_trapelem (h : Hart) (i : Nat) (x : VReg) : (h.vset i x).trapelem = h.trapelem := rfl
@[simp] theorem Hart.vset_trapval (h : Hart) (i : Nat) (x : VReg) : (h.vset i x).trapval = h.trapval := rfl
@[simp] theorem Hart.vset_trapspc (h : Hart) (i : Nat) (x : VReg) : (h.vset i x).trapspc = h.trapspc := rfl
@[simp] theorem Hart.vset_trapvec (h : Hart) (i : Nat) (x : VReg) : (h.vset i x).trapvec = h.trapvec := rfl
@[simp] theorem Hart.vset_sscratch (h : Hart) (i : Nat) (x : VReg) : (h.vset i x).sscratch = h.sscratch := rfl
@[simp] theorem Hart.vset_queue (h : Hart) (i : Nat) (x : VReg) : (h.vset i x).queue = h.queue := rfl
@[simp] theorem Hart.vset_stopped (h : Hart) (i : Nat) (x : VReg) : (h.vset i x).stopped = h.stopped := rfl
@[simp] theorem Hart.vset_watched (h : Hart) (i : Nat) (x : VReg) : (h.vset i x).watched = h.watched := rfl
@[simp] theorem Hart.vset_held (h : Hart) (i : Nat) (x : VReg) : (h.vset i x).held = h.held := rfl
@[simp] theorem Hart.vset_waiting (h : Hart) (i : Nat) (x : VReg) : (h.vset i x).waiting = h.waiting := rfl
@[simp] theorem Hart.vset_ckpt (h : Hart) (i : Nat) (x : VReg) : (h.vset i x).ckpt = h.ckpt := rfl
@[simp] theorem Hart.vset_bound (h : Hart) (i : Nat) (x : VReg) : (h.vset i x).bound = h.bound := rfl
@[simp] theorem Hart.vset_binds (h : Hart) (i : Nat) (x : VReg) : (h.vset i x).binds = h.binds := rfl
@[simp] theorem Hart.vset_watch (h : Hart) (i : Nat) (x : VReg) : (h.vset i x).watch = h.watch := rfl
@[simp] theorem Hart.vset_wait (h : Hart) (i : Nat) (x : VReg) : (h.vset i x).wait = h.wait := rfl
@[simp] theorem Hart.vset_parkedAt (h : Hart) (i : Nat) (x : VReg) : (h.vset i x).parkedAt = h.parkedAt := rfl
@[simp] theorem Hart.vset_parkedTsc (h : Hart) (i : Nat) (x : VReg) : (h.vset i x).parkedTsc = h.parkedTsc := rfl
@[simp] theorem Hart.vset_slotRes (h : Hart) (i : Nat) (x : VReg) : (h.vset i x).slotRes = h.slotRes := rfl
@[simp] theorem Hart.vset_place (h : Hart) (i : Nat) (x : VReg) : (h.vset i x).place = h.place := rfl
@[simp] theorem Hart.vset_laneSince (h : Hart) (i : Nat) (x : VReg) : (h.vset i x).laneSince = h.laneSince := rfl
@[simp] theorem Hart.vset_laneShort (h : Hart) (i : Nat) (x : VReg) : (h.vset i x).laneShort = h.laneShort := rfl
@[simp] theorem Hart.vset_readyClocks (h : Hart) (i : Nat) (x : VReg) : (h.vset i x).readyClocks = h.readyClocks := rfl
@[simp] theorem Hart.vset_promoted (h : Hart) (i : Nat) (x : VReg) : (h.vset i x).promoted = h.promoted := rfl
@[simp] theorem Hart.vset_tileReady (h : Hart) (i : Nat) (x : VReg) : (h.vset i x).tileReady = h.tileReady := rfl
@[simp] theorem Hart.vset_tilePromoted (h : Hart) (i : Nat) (x : VReg) : (h.vset i x).tilePromoted = h.tilePromoted := rfl
@[simp] theorem Hart.vset_yielded (h : Hart) (i : Nat) (x : VReg) : (h.vset i x).yielded = h.yielded := rfl
@[simp] theorem Hart.vset_entering (h : Hart) (i : Nat) (x : VReg) : (h.vset i x).entering = h.entering := rfl
@[simp] theorem Hart.vset_split (h : Hart) (i : Nat) (x : VReg) : (h.vset i x).split = h.split := rfl
@[simp] theorem Hart.vset_nextSeq (h : Hart) (i : Nat) (x : VReg) : (h.vset i x).nextSeq = h.nextSeq := rfl
@[simp] theorem Hart.vset_fences (h : Hart) (i : Nat) (x : VReg) : (h.vset i x).fences = h.fences := rfl
@[simp] theorem Hart.vset_lastVl (h : Hart) (i : Nat) (x : VReg) : (h.vset i x).lastVl = h.lastVl := rfl
@[simp] theorem Hart.vset_stopping (h : Hart) (i : Nat) (x : VReg) : (h.vset i x).stopping = h.stopping := rfl
@[simp] theorem Hart.vset_placedTsc (h : Hart) (i : Nat) (x : VReg) : (h.vset i x).placedTsc = h.placedTsc := rfl
@[simp] theorem Hart.vset_dbg (h : Hart) (i : Nat) (x : VReg) : (h.vset i x).dbg = h.dbg := rfl
@[simp] theorem Hart.vset_regError (h : Hart) (i : Nat) (x : VReg) : (h.vset i x).regError = h.regError := rfl
@[simp] theorem Hart.vset_mirrorError (h : Hart) (i : Nat) (x : VReg) : (h.vset i x).mirrorError = h.mirrorError := rfl
@[simp] theorem Hart.vset_image (h : Hart) (i : Nat) (x : VReg) : (h.vset i x).image = h.image := rfl

/-! ### A predicate register written -/

@[simp] theorem Hart.pset_g (h : Hart) (i : Nat) (x : PReg) : (h.pset i x).g = h.g := rfl
@[simp] theorem Hart.pset_v (h : Hart) (i : Nat) (x : PReg) : (h.pset i x).v = h.v := rfl
@[simp] theorem Hart.pset_pc (h : Hart) (i : Nat) (x : PReg) : (h.pset i x).pc = h.pc := rfl
@[simp] theorem Hart.pset_tiles (h : Hart) (i : Nat) (x : PReg) : (h.pset i x).tiles = h.tiles := rfl
@[simp] theorem Hart.pset_keptTiles (h : Hart) (i : Nat) (x : PReg) : (h.pset i x).keptTiles = h.keptTiles := rfl
@[simp] theorem Hart.pset_vcfg (h : Hart) (i : Nat) (x : PReg) : (h.pset i x).vcfg = h.vcfg := rfl
@[simp] theorem Hart.pset_vmsk (h : Hart) (i : Nat) (x : PReg) : (h.pset i x).vmsk = h.vmsk := rfl
@[simp] theorem Hart.pset_vstr (h : Hart) (i : Nat) (x : PReg) : (h.pset i x).vstr = h.vstr := rfl
@[simp] theorem Hart.pset_vpstr (h : Hart) (i : Nat) (x : PReg) : (h.pset i x).vpstr = h.vpstr := rfl
@[simp] theorem Hart.pset_vresume (h : Hart) (i : Nat) (x : PReg) : (h.pset i x).vresume = h.vresume := rfl
@[simp] theorem Hart.pset_vexit (h : Hart) (i : Nat) (x : PReg) : (h.pset i x).vexit = h.vexit := rfl
@[simp] theorem Hart.pset_vftrim (h : Hart) (i : Nat) (x : PReg) : (h.pset i x).vftrim = h.vftrim := rfl
@[simp] theorem Hart.pset_ftrimPlace (h : Hart) (i : Nat) (x : PReg) : (h.pset i x).ftrimPlace = h.ftrimPlace := rfl
@[simp] theorem Hart.pset_sckm (h : Hart) (i : Nat) (x : PReg) : (h.pset i x).sckm = h.sckm := rfl
@[simp] theorem Hart.pset_heblim (h : Hart) (i : Nat) (x : PReg) : (h.pset i x).heblim = h.heblim := rfl
@[simp] theorem Hart.pset_mscale (h : Hart) (i : Nat) (x : PReg) : (h.pset i x).mscale = h.mscale := rfl
@[simp] theorem Hart.pset_fpmode (h : Hart) (i : Nat) (x : PReg) : (h.pset i x).fpmode = h.fpmode := rfl
@[simp] theorem Hart.pset_fpflags (h : Hart) (i : Nat) (x : PReg) : (h.pset i x).fpflags = h.fpflags := rfl
@[simp] theorem Hart.pset_retiredLanes (h : Hart) (i : Nat) (x : PReg) : (h.pset i x).retiredLanes = h.retiredLanes := rfl
@[simp] theorem Hart.pset_sup (h : Hart) (i : Nat) (x : PReg) : (h.pset i x).sup = h.sup := rfl
@[simp] theorem Hart.pset_psup (h : Hart) (i : Nat) (x : PReg) : (h.pset i x).psup = h.psup := rfl
@[simp] theorem Hart.pset_mirror (h : Hart) (i : Nat) (x : PReg) : (h.pset i x).mirror = h.mirror := rfl
@[simp] theorem Hart.pset_miract (h : Hart) (i : Nat) (x : PReg) : (h.pset i x).miract = h.miract := rfl
@[simp] theorem Hart.pset_stripNo (h : Hart) (i : Nat) (x : PReg) : (h.pset i x).stripNo = h.stripNo := rfl
@[simp] theorem Hart.pset_stripK (h : Hart) (i : Nat) (x : PReg) : (h.pset i x).stripK = h.stripK := rfl
@[simp] theorem Hart.pset_drained (h : Hart) (i : Nat) (x : PReg) : (h.pset i x).drained = h.drained := rfl
@[simp] theorem Hart.pset_poisoned (h : Hart) (i : Nat) (x : PReg) : (h.pset i x).poisoned = h.poisoned := rfl
@[simp] theorem Hart.pset_paddr (h : Hart) (i : Nat) (x : PReg) : (h.pset i x).paddr = h.paddr := rfl
@[simp] theorem Hart.pset_paddrPlace (h : Hart) (i : Nat) (x : PReg) : (h.pset i x).paddrPlace = h.paddrPlace := rfl
@[simp] theorem Hart.pset_kvcfg (h : Hart) (i : Nat) (x : PReg) : (h.pset i x).kvcfg = h.kvcfg := rfl
@[simp] theorem Hart.pset_lcuse (h : Hart) (i : Nat) (x : PReg) : (h.pset i x).lcuse = h.lcuse := rfl
@[simp] theorem Hart.pset_lcmask (h : Hart) (i : Nat) (x : PReg) : (h.pset i x).lcmask = h.lcmask := rfl
@[simp] theorem Hart.pset_lctail (h : Hart) (i : Nat) (x : PReg) : (h.pset i x).lctail = h.lctail := rfl
@[simp] theorem Hart.pset_lcstart (h : Hart) (i : Nat) (x : PReg) : (h.pset i x).lcstart = h.lcstart := rfl
@[simp] theorem Hart.pset_lcstall (h : Hart) (i : Nat) (x : PReg) : (h.pset i x).lcstall = h.lcstall := rfl
@[simp] theorem Hart.pset_charge (h : Hart) (i : Nat) (x : PReg) : (h.pset i x).charge = h.charge := rfl
@[simp] theorem Hart.pset_activity (h : Hart) (i : Nat) (x : PReg) : (h.pset i x).activity = h.activity := rfl
@[simp] theorem Hart.pset_ahead (h : Hart) (i : Nat) (x : PReg) : (h.pset i x).ahead = h.ahead := rfl
@[simp] theorem Hart.pset_moved (h : Hart) (i : Nat) (x : PReg) : (h.pset i x).moved = h.moved := rfl
@[simp] theorem Hart.pset_trapcause (h : Hart) (i : Nat) (x : PReg) : (h.pset i x).trapcause = h.trapcause := rfl
@[simp] theorem Hart.pset_trappc (h : Hart) (i : Nat) (x : PReg) : (h.pset i x).trappc = h.trappc := rfl
@[simp] theorem Hart.pset_trapmem (h : Hart) (i : Nat) (x : PReg) : (h.pset i x).trapmem = h.trapmem := rfl
@[simp] theorem Hart.pset_trapelem (h : Hart) (i : Nat) (x : PReg) : (h.pset i x).trapelem = h.trapelem := rfl
@[simp] theorem Hart.pset_trapval (h : Hart) (i : Nat) (x : PReg) : (h.pset i x).trapval = h.trapval := rfl
@[simp] theorem Hart.pset_trapspc (h : Hart) (i : Nat) (x : PReg) : (h.pset i x).trapspc = h.trapspc := rfl
@[simp] theorem Hart.pset_trapvec (h : Hart) (i : Nat) (x : PReg) : (h.pset i x).trapvec = h.trapvec := rfl
@[simp] theorem Hart.pset_sscratch (h : Hart) (i : Nat) (x : PReg) : (h.pset i x).sscratch = h.sscratch := rfl
@[simp] theorem Hart.pset_queue (h : Hart) (i : Nat) (x : PReg) : (h.pset i x).queue = h.queue := rfl
@[simp] theorem Hart.pset_stopped (h : Hart) (i : Nat) (x : PReg) : (h.pset i x).stopped = h.stopped := rfl
@[simp] theorem Hart.pset_watched (h : Hart) (i : Nat) (x : PReg) : (h.pset i x).watched = h.watched := rfl
@[simp] theorem Hart.pset_held (h : Hart) (i : Nat) (x : PReg) : (h.pset i x).held = h.held := rfl
@[simp] theorem Hart.pset_waiting (h : Hart) (i : Nat) (x : PReg) : (h.pset i x).waiting = h.waiting := rfl
@[simp] theorem Hart.pset_ckpt (h : Hart) (i : Nat) (x : PReg) : (h.pset i x).ckpt = h.ckpt := rfl
@[simp] theorem Hart.pset_bound (h : Hart) (i : Nat) (x : PReg) : (h.pset i x).bound = h.bound := rfl
@[simp] theorem Hart.pset_binds (h : Hart) (i : Nat) (x : PReg) : (h.pset i x).binds = h.binds := rfl
@[simp] theorem Hart.pset_watch (h : Hart) (i : Nat) (x : PReg) : (h.pset i x).watch = h.watch := rfl
@[simp] theorem Hart.pset_wait (h : Hart) (i : Nat) (x : PReg) : (h.pset i x).wait = h.wait := rfl
@[simp] theorem Hart.pset_parkedAt (h : Hart) (i : Nat) (x : PReg) : (h.pset i x).parkedAt = h.parkedAt := rfl
@[simp] theorem Hart.pset_parkedTsc (h : Hart) (i : Nat) (x : PReg) : (h.pset i x).parkedTsc = h.parkedTsc := rfl
@[simp] theorem Hart.pset_slotRes (h : Hart) (i : Nat) (x : PReg) : (h.pset i x).slotRes = h.slotRes := rfl
@[simp] theorem Hart.pset_place (h : Hart) (i : Nat) (x : PReg) : (h.pset i x).place = h.place := rfl
@[simp] theorem Hart.pset_laneSince (h : Hart) (i : Nat) (x : PReg) : (h.pset i x).laneSince = h.laneSince := rfl
@[simp] theorem Hart.pset_laneShort (h : Hart) (i : Nat) (x : PReg) : (h.pset i x).laneShort = h.laneShort := rfl
@[simp] theorem Hart.pset_readyClocks (h : Hart) (i : Nat) (x : PReg) : (h.pset i x).readyClocks = h.readyClocks := rfl
@[simp] theorem Hart.pset_promoted (h : Hart) (i : Nat) (x : PReg) : (h.pset i x).promoted = h.promoted := rfl
@[simp] theorem Hart.pset_tileReady (h : Hart) (i : Nat) (x : PReg) : (h.pset i x).tileReady = h.tileReady := rfl
@[simp] theorem Hart.pset_tilePromoted (h : Hart) (i : Nat) (x : PReg) : (h.pset i x).tilePromoted = h.tilePromoted := rfl
@[simp] theorem Hart.pset_yielded (h : Hart) (i : Nat) (x : PReg) : (h.pset i x).yielded = h.yielded := rfl
@[simp] theorem Hart.pset_entering (h : Hart) (i : Nat) (x : PReg) : (h.pset i x).entering = h.entering := rfl
@[simp] theorem Hart.pset_split (h : Hart) (i : Nat) (x : PReg) : (h.pset i x).split = h.split := rfl
@[simp] theorem Hart.pset_nextSeq (h : Hart) (i : Nat) (x : PReg) : (h.pset i x).nextSeq = h.nextSeq := rfl
@[simp] theorem Hart.pset_fences (h : Hart) (i : Nat) (x : PReg) : (h.pset i x).fences = h.fences := rfl
@[simp] theorem Hart.pset_lastVl (h : Hart) (i : Nat) (x : PReg) : (h.pset i x).lastVl = h.lastVl := rfl
@[simp] theorem Hart.pset_stopping (h : Hart) (i : Nat) (x : PReg) : (h.pset i x).stopping = h.stopping := rfl
@[simp] theorem Hart.pset_placedTsc (h : Hart) (i : Nat) (x : PReg) : (h.pset i x).placedTsc = h.placedTsc := rfl
@[simp] theorem Hart.pset_dbg (h : Hart) (i : Nat) (x : PReg) : (h.pset i x).dbg = h.dbg := rfl
@[simp] theorem Hart.pset_regError (h : Hart) (i : Nat) (x : PReg) : (h.pset i x).regError = h.regError := rfl
@[simp] theorem Hart.pset_mirrorError (h : Hart) (i : Nat) (x : PReg) : (h.pset i x).mirrorError = h.mirrorError := rfl
@[simp] theorem Hart.pset_image (h : Hart) (i : Nat) (x : PReg) : (h.pset i x).image = h.image := rfl

@[simp] theorem Hart.vset_vmask (h : Hart) (i : Nat) (x : VReg) : (h.vset i x).vmask = h.vmask := rfl

@[simp] theorem Hart.pset_pmask (h : Hart) (i : Nat) (x : PReg) : (h.pset i x).pmask = h.pmask := rfl

theorem Hart.vget_vset (h : Hart) (i : Nat) (x : VReg) (hi : i < 48) : (h.vset i x).vget i = x &&& h.vmask := by
  change ((h.v.setIfInBounds i (x &&& h.vmask))[i]?).getD 0 &&& h.vmask = x &&& h.vmask
  simp [hi, BitVec.and_assoc]

theorem Hart.vget_vset_ne (h : Hart) (i j : Nat) (x : VReg) (hij : j ≠ i) : (h.vset i x).vget j = h.vget j := by
  change ((h.v.setIfInBounds i (x &&& h.vmask))[j]?).getD 0 &&& h.vmask = _
  simp [Hart.vget, Ne.symm hij]

theorem Hart.pget_pset (h : Hart) (i : Nat) (x : PReg) (hi : i < 32) : (h.pset i x).pget i = x &&& h.pmask := by
  change ((h.p.setIfInBounds i (x &&& h.pmask))[i]?).getD 0 &&& h.pmask = x &&& h.pmask
  simp [hi, BitVec.and_assoc]

theorem Hart.pget_pset_ne (h : Hart) (i j : Nat) (x : PReg) (hij : j ≠ i) : (h.pset i x).pget j = h.pget j := by
  change ((h.p.setIfInBounds i (x &&& h.pmask))[j]?).getD 0 &&& h.pmask = _
  simp [Hart.pget, Ne.symm hij]

end Sys2Proof.Machine
end

