-- ==== Sys2Proof/Laws/Elems.lean ====
section
/-! SUPPORT. Elements of registers: what writing one does to each bit, and what an element loop leaves (R12, R13, R197). -/

namespace Sys2Proof.Machine

/-- An element is the slice of the register at its place. -/
theorem elemOf_eq (r : VReg) (w i : Nat) : elemOf r w i = (r.extractLsb' (i * w) w).toNat := by
  unfold elemOf
  simp [BitVec.extractLsb'_toNat]

theorem elemOf_lt (r : VReg) (w i : Nat) : elemOf r w i < 2 ^ w := by
  unfold elemOf
  exact Nat.mod_lt _ (Nat.two_pow_pos w)

/-- A bit of a register after an element was written. -/
theorem setElem_bit (r : VReg) (w i x j : Nat) (hj : j < 16384) :
    (setElem r w i x).getLsbD j = if i * w ≤ j ∧ j < i * w + w then x.testBit (j - i * w) else r.getLsbD j := by
  unfold setElem
  simp only [BitVec.getLsbD_or, BitVec.getLsbD_and, BitVec.getLsbD_not, BitVec.getLsbD_ofNat, hj, decide_true,
    Bool.true_and, Nat.testBit_shiftLeft, Nat.testBit_two_pow_sub_one, Nat.testBit_mod_two_pow]
  by_cases h1 : i * w ≤ j
  · by_cases h2 : j < i * w + w
    · have : j - i * w < w := by omega
      simp [h1, h2, this]
    · have : ¬ (j - i * w < w) := by omega
      simp [h2, this]
  · simp [h1]

/-- One round of an element loop. -/
def Ctx.mapStep (c : Ctx) (w : Nat) (f : Nat → Nat × Nat) (a : VReg × Nat) (i : Nat) : VReg × Nat :=
  if c.on i then (setElem a.1 w i (f i).1, a.2 ||| (f i).2)
  else if c.zero then (setElem a.1 w i 0, a.2) else a

theorem Ctx.mapElems_eq (c : Ctx) (old : VReg) (w : Nat) (f : Nat → Nat × Nat) :
    c.mapElems old w f = c.elems.foldl (c.mapStep w f) (old, 0) := rfl

theorem Ctx.mapFold_bit (c : Ctx) (w : Nat) (f : Nat → Nat × Nat) (hw : 0 < w) (j : Nat) (hj : j < 16384) :
    ∀ (n lo : Nat) (a : VReg × Nat),
      ((List.range' lo n).foldl (c.mapStep w f) a).1.getLsbD j =
        if lo ≤ j / w ∧ j / w < lo + n then
          (if c.on (j / w) then (f (j / w)).1.testBit (j % w) else if c.zero then false else a.1.getLsbD j)
        else a.1.getLsbD j := by
  intro n
  induction n with
  | zero =>
    intro lo a
    have : ¬ (lo ≤ j / w ∧ j / w < lo + 0) := by omega
    rw [if_neg this]; rfl
  | succ n ih =>
    intro lo a
    rw [List.range'_succ, List.foldl_cons, ih]
    have key : ∀ x, (setElem a.1 w lo x).getLsbD j = if j / w = lo then x.testBit (j % w) else a.1.getLsbD j := by
      intro x
      rw [setElem_bit _ _ _ _ _ hj]
      by_cases h : j / w = lo
      · have h1 : lo * w ≤ j := by rw [← h]; exact Nat.div_mul_le_self j w
        have h2 : j < lo * w + w := by
          have := Nat.lt_div_mul_add hw (a := j); rw [h] at this; omega
        have h3 : j - lo * w = j % w := by
          have := Nat.div_add_mod j w; rw [h, Nat.mul_comm] at this; omega
        rw [if_pos ⟨h1, h2⟩, if_pos h, h3]
      · have : ¬ (lo * w ≤ j ∧ j < lo * w + w) := by
          rintro ⟨h1, h2⟩
          apply h
          have hb : j < (lo + 1) * w := by rw [Nat.succ_mul]; exact h2
          exact Nat.le_antisymm (Nat.lt_succ_iff.mp ((Nat.div_lt_iff_lt_mul hw).mpr hb))
            ((Nat.le_div_iff_mul_le hw).mpr h1)
        rw [if_neg this, if_neg h]
    have step : (c.mapStep w f a lo).1.getLsbD j =
        if j / w = lo then
          (if c.on lo then (f lo).1.testBit (j % w) else if c.zero then false else a.1.getLsbD j)
        else a.1.getLsbD j := by
      unfold Ctx.mapStep
      by_cases h1 : c.on lo <;> by_cases h2 : c.zero <;> simp [h1, h2, key]
    rw [step]
    by_cases h : j / w = lo
    · have e1 : ¬ (lo + 1 ≤ j / w ∧ j / w < lo + 1 + n) := by omega
      have e2 : lo ≤ j / w ∧ j / w < lo + (n + 1) := by omega
      rw [if_neg e1, if_pos e2, if_pos h, h]
    · by_cases e : lo + 1 ≤ j / w ∧ j / w < lo + 1 + n
      · have e2 : lo ≤ j / w ∧ j / w < lo + (n + 1) := by omega
        rw [if_pos e, if_pos e2, if_neg h]
      · have e2 : ¬ (lo ≤ j / w ∧ j / w < lo + (n + 1)) := by omega
        rw [if_neg e, if_neg e2, if_neg h]

/-- Where no handler has had elements skipped, an instruction covers the elements from `lo` to its bound. -/
theorem Ctx.elems_plain (c : Ctx) (hs : c.skips = []) : c.elems = List.range' c.lo (min c.hi c.vl - c.lo) := by
  simp [Ctx.elems, hs]

/-- What an element loop leaves in each bit of the register (R197): the covered elements take f's value where they are
written and become zero or stay where they are not; every other bit stays. -/
theorem Ctx.mapElems_bit (c : Ctx) (old : VReg) (w : Nat) (f : Nat → Nat × Nat) (hw : 0 < w) (hs : c.skips = [])
    (j : Nat) (hj : j < 16384) :
    (c.mapElems old w f).1.getLsbD j =
      if c.lo ≤ j / w ∧ j / w < c.lo + (min c.hi c.vl - c.lo) then
        (if c.on (j / w) then (f (j / w)).1.testBit (j % w) else if c.zero then false else old.getLsbD j)
      else old.getLsbD j := by
  rw [Ctx.mapElems_eq, Ctx.elems_plain c hs]
  exact Ctx.mapFold_bit c w f hw j hj _ _ _

/-- The flags of an element loop are those of the written elements. -/
theorem Ctx.mapFold_flag (c : Ctx) (w : Nat) (f : Nat → Nat × Nat) (k : Nat) :
    ∀ (l : List Nat) (a : VReg × Nat),
      (l.foldl (c.mapStep w f) a).2.testBit k = (a.2.testBit k || l.any (fun i => c.on i && (f i).2.testBit k)) := by
  intro l
  induction l with
  | nil => intro a; simp
  | cons i l ih =>
    intro a
    rw [List.foldl_cons, ih, List.any_cons]
    unfold Ctx.mapStep
    by_cases h1 : c.on i <;> by_cases h2 : c.zero <;> simp [h1, h2, Bool.or_assoc]

theorem Ctx.mapElems_flag (c : Ctx) (old : VReg) (w : Nat) (f : Nat → Nat × Nat) (k : Nat) :
    (c.mapElems old w f).2.testBit k = c.elems.any (fun i => c.on i && (f i).2.testBit k) := by
  rw [Ctx.mapElems_eq, Ctx.mapFold_flag]
  simp

/-- One round of a predicate loop. -/
def Ctx.bitStep (on f : Nat → Bool) (r : PReg) (i : Nat) : PReg :=
  if on i && f i then r ||| BitVec.ofNat 4096 (2 ^ i) else r &&& ~~~(BitVec.ofNat 4096 (2 ^ i))

theorem Ctx.bitStep_bit (on f : Nat → Bool) (r : PReg) (i j : Nat) (hj : j < 4096) :
    (Ctx.bitStep on f r i).getLsbD j = if j = i then on i && f i else r.getLsbD j := by
  unfold Ctx.bitStep
  by_cases h : on i && f i
  · simp only [h, if_true, BitVec.getLsbD_or, BitVec.getLsbD_ofNat, hj, decide_true, Bool.true_and,
      Nat.testBit_two_pow]
    by_cases e : j = i
    · simp [e]
    · simp [e, Ne.symm e]
  · simp only [h, if_false, BitVec.getLsbD_and, BitVec.getLsbD_not, BitVec.getLsbD_ofNat, hj, decide_true,
      Bool.true_and, Nat.testBit_two_pow, Bool.false_eq_true]
    by_cases e : j = i
    · simp [e]
    · simp [e, Ne.symm e]

theorem Ctx.bitFold_bit (on f : Nat → Bool) (j : Nat) (hj : j < 4096) :
    ∀ (n lo : Nat) (r : PReg),
      ((List.range' lo n).foldl (Ctx.bitStep on f) r).getLsbD j =
        if lo ≤ j ∧ j < lo + n then on j && f j else r.getLsbD j := by
  intro n
  induction n with
  | zero =>
    intro lo r
    rw [if_neg (by omega)]; rfl
  | succ n ih =>
    intro lo r
    rw [List.range'_succ, List.foldl_cons, ih, Ctx.bitStep_bit _ _ _ _ _ hj]
    by_cases h : j = lo
    · rw [if_neg (by omega), if_pos h, if_pos (by omega), h]
    · by_cases e : lo + 1 ≤ j ∧ j < lo + 1 + n
      · rw [if_pos e, if_pos (by omega)]
      · rw [if_neg e, if_neg h, if_neg (by omega)]

/-- What a predicate loop over a whole strip leaves in each bit (R177, R19). -/
theorem Ctx.mapBits_bit (c : Ctx) (old : PReg) (on f : Nat → Bool) (hs : c.skips = []) (h0 : c.lo = 0)
    (hh : c.vl ≤ c.hi) (j : Nat) (hj : j < 4096) : (c.mapBits old on f).getLsbD j = (decide (j < c.vl) && (on j && f j)) := by
  have e : c.mapBits old on f =
      (c.elems.foldl (Ctx.bitStep on f) old) &&& BitVec.ofNat 4096 (2 ^ c.vl - 1) := by
    unfold Ctx.mapBits Ctx.ends
    rw [decide_eq_true hh, if_pos rfl]
    rfl
  rw [e, BitVec.getLsbD_and, BitVec.getLsbD_ofNat, Nat.testBit_two_pow_sub_one]
  rw [Ctx.elems_plain c hs, Ctx.bitFold_bit _ _ _ hj, h0]
  have : min c.hi c.vl = c.vl := by omega
  rw [this]
  by_cases h : j < c.vl
  · simp [h, hj]
  · simp [h]

end Sys2Proof.Machine
end

