-- ==== Sys2Proof/Laws/Fields.lean ====
section
/-! SUPPORT. Fields of a word: what is read where something was placed. With these the decoding of an encoded
instruction is evaluated field by field. -/

namespace Sys2Proof

@[simp] theorem bitsAt_or (v w : IWord) (lo n : Nat) : bitsAt (v ||| w) lo n = bitsAt v lo n ||| bitsAt w lo n := by
  unfold bitsAt
  ext i hi
  simp

theorem bitsAt_placed_same {n : Nat} (x : BitVec n) (lo : Nat) (h : lo + n ≤ 32) : bitsAt (placed x lo) lo n = x := by
  unfold bitsAt placed
  ext i hi
  have h1 : lo + i < 32 := by omega
  have h2 : ¬ lo + i < lo := by omega
  have h3 : i < 32 := by omega
  simp [h1, h2, ← BitVec.getLsbD_eq_getElem, hi, h3]

theorem bitsAt_placed_apart {m : Nat} (x : BitVec m) (lo lo' n : Nat) (h : lo + n ≤ lo' ∨ lo' + m ≤ lo) :
    bitsAt (placed x lo') lo n = 0 := by
  unfold bitsAt placed
  ext i hi
  simp
  intro a b c
  exact BitVec.getLsbD_of_ge _ _ (by omega)

theorem placed_masked {n : Nat} (x : BitVec n) (lo : Nat) (mask : IWord) (h : bitsAt mask lo n = 0) :
    placed x lo &&& mask = 0 := by
  unfold placed
  ext i hi
  simp
  intro a b
  by_cases c : i - lo < n
  · have := congrArg (fun v => v.getLsbD (i - lo)) h
    simp [bitsAt, c] at this
    rw [show lo + (i - lo) = i by omega] at this
    simp [← BitVec.getLsbD_eq_getElem, this]
  · have : x.getLsbD (i - lo) = false := BitVec.getLsbD_of_ge _ _ (by omega)
    simp_all

theorem masked_or (v w mask : IWord) : (v ||| w) &&& mask = (v &&& mask) ||| (w &&& mask) := by
  ext i hi
  simp [Bool.and_or_distrib_right]

/-- A field of a literal word. -/
theorem bitsAt_lit (c lo n : Nat) : bitsAt (BitVec.ofNat 32 c) lo n = BitVec.ofNat n (c % 2 ^ 32 / 2 ^ lo) := by
  unfold bitsAt
  apply BitVec.eq_of_toNat_eq
  simp [Nat.shiftRight_eq_div_pow]

/-- A 5-bit field that a word holds in two pieces. -/
theorem split_field (x : BitVec 5) : x.extractLsb' 4 1 ++ x.extractLsb' 0 4 = x := by
  ext i hi
  simp only [BitVec.getElem_append]
  split
  · next h => simp [← BitVec.getLsbD_eq_getElem, h]
  · have : i = 4 := by omega
    subst this
    simp [← BitVec.getLsbD_eq_getElem]

/-- A word as its four bytes, and back. -/
theorem wordOfBytes_wordBytes (w : IWord) : wordOfBytes (wordBytes w) = some w := by
  simp only [wordOfBytes, wordBytes, bitsAt, Option.some.injEq]
  apply BitVec.eq_of_getLsbD_eq
  intro i hi
  simp only [BitVec.getLsbD_append, BitVec.getLsbD_extractLsb']
  split
  · simp [*]
  · split
    · rw [show 8 + (i - 8) = i by omega]; simp; omega
    · split
      · rw [show 16 + (i - 8 - 8) = i by omega]; simp; omega
      · rw [show 24 + (i - 8 - 8 - 8) = i by omega]; simp; omega

theorem decodeBytes_wordBytes (w : IWord) : decodeBytes (wordBytes w) = decode w := by
  simp [decodeBytes, wordOfBytes_wordBytes]

end Sys2Proof
end

