-- ==== Sys2Proof/Laws/Scalar.lean ====
section
/-! SUPPORT. What the shared forms of the scalar unit do: waiting for the sequencer, writing a result, transfers. -/

namespace Sys2Proof.Machine

/-! ### Waiting for the vector sequencer (R25, R79) -/

/-- Nothing to wait for: supervisor mode, or no queued instruction of those asked for. -/
theorem State.afterThose_free (s : State) (p : QEntry → Bool) (k : State → State)
    (h : s.hart.sup = true ∨ s.hart.queue.any p = false) : s.afterThose p k = k s := by
  unfold State.afterThose
  rw [if_pos]
  rcases h with h | h <;> simp [h]

/-- A wait: the queue runs, and the word goes on once what it waits for has retired, unless a single step is then behind
it. -/
theorem State.afterThose_retired (s t : State) (p : QEntry → Bool) (k : State → State) (h : s.hart.sup = false)
    (hq : s.hart.queue.any p = true) (hr : s.runQueue p = (t, .retired)) (hd : t.hart.stepDone = false) :
    s.afterThose p k = k t := by
  unfold State.afterThose
  rw [if_neg (by simp [h, hq]), hr]
  simp [hd]

/-- Under a single step a wait that has had something retire ends there: the word is for the next step (R442). -/
theorem State.afterThose_stepped (s t : State) (p : QEntry → Bool) (k : State → State) (h : s.hart.sup = false)
    (hq : s.hart.queue.any p = true) (hr : s.runQueue p = (t, .retired)) (hd : t.hart.stepDone = true) :
    s.afterThose p k = t := by
  unfold State.afterThose
  rw [if_neg (by simp [h, hq]), hr]
  simp [hd]

/-- A stop found in the wait is taken in the word's place (R312). -/
theorem State.afterThose_stopped (s t : State) (e : ConvoyEnd) (p : QEntry → Bool) (k : State → State)
    (h : s.hart.sup = false) (hq : s.hart.queue.any p = true) (hr : s.runQueue p = (t, e)) (he : e ≠ .retired) :
    s.afterThose p k = t := by
  unfold State.afterThose
  rw [if_neg (by simp [h, hq]), hr]
  cases e with
  | retired => exact absurd rfl he
  | stopped => rfl
  | gone => rfl

/-- A wait for every vector instruction with nothing to wait for. -/
theorem State.afterQueue_free (s : State) (need : Bool) (k : State → State)
    (h : s.hart.sup = true ∨ need = false ∨ s.hart.queue = []) : s.afterQueue need k = k s := by
  refine State.afterThose_free s _ k (h.imp id (fun h => ?_))
  rcases h with h | h <;> simp [h]

/-- A scalar word with no queued writer of a g register before it goes on at once. -/
theorem State.waitG_free (s : State) (k : State → State)
    (h : s.hart.sup = true ∨ writesG s.hart.queue = false) : s.waitG k = k s :=
  State.afterThose_free s _ k h

/-- A trap of a word with nothing to wait for. -/
theorem State.trapAfter_free (s : State) (cause : Nat) (val : Word)
    (h : s.hart.sup = true ∨ s.hart.queue = []) : s.trapAfter cause val = s.trapHere cause val := by
  unfold State.trapAfter
  exact State.afterQueue_free s _ _ (h.elim .inl (fun x => .inr (.inr x)))

/-! ### Results and transfers (R142) -/

/-- The registers of a hart whose word has retired, with the next word at an address. -/
def Hart.wordDone (h : Hart) (pc : Word) : Hart :=
  { h with pc := pc, activity := h.activity + 8, dbg := { h.dbg with retired := true } }

theorem State.advance_eq (s : State) : s.advance = s.setHart (s.hart.wordDone (s.hart.pc + 4)) := rfl

theorem State.advanceTo_eq (s : State) (a : Word) : s.advanceTo a = s.setHart (s.hart.wordDone a) := rfl

theorem State.result_eq (s : State) (d : BitVec 5) (x : Word) (hc : s.cur < 512) :
    s.result d x = s.setHart ((s.hart.gset d.toNat x).wordDone (s.hart.pc + 4)) := by
  unfold State.result State.gset
  rw [State.advance_eq, State.hart_modHart s _ hc, State.modHart_eq, State.setHart_setHart, Hart.gset_pc]

theorem State.gset_advanceTo_eq (s : State) (d : Nat) (x a : Word) (hc : s.cur < 512) :
    (s.gset d x).advanceTo a = s.setHart ((s.hart.gset d x).wordDone a) := by
  unfold State.gset
  rw [State.advanceTo_eq, State.hart_modHart s _ hc, State.modHart_eq, State.setHart_setHart]

theorem State.op2_eq (s : State) (d a b : BitVec 5) (f : Word → Word → Word) (hc : s.cur < 512)
    (h : s.hart.sup = true ∨ writesG s.hart.queue = false) :
    s.op2 d a b f =
      s.setHart ((s.hart.gset d.toNat (f (s.hart.gget a.toNat) (s.hart.gget b.toNat))).wordDone (s.hart.pc + 4)) := by
  unfold State.op2
  rw [State.waitG_free s _ h, State.result_eq s d _ hc]

theorem State.op1_eq (s : State) (d a : BitVec 5) (f : Word → Word) (hc : s.cur < 512)
    (h : s.hart.sup = true ∨ writesG s.hart.queue = false) :
    s.op1 d a f = s.setHart ((s.hart.gset d.toNat (f (s.hart.gget a.toNat))).wordDone (s.hart.pc + 4)) := by
  unfold State.op1
  rw [State.waitG_free s _ h, State.result_eq s d _ hc]

theorem State.branch_eq (s : State) (a b : BitVec 5) (o : BitVec 15) (c : Word → Word → Bool)
    (h : s.hart.sup = true ∨ writesG s.hart.queue = false) :
    s.branch a b o c = s.setHart (s.hart.wordDone
      (if c (s.hart.gget a.toNat) (s.hart.gget b.toNat) then target s.hart.pc o else s.hart.pc + 4)) := by
  unfold State.branch
  rw [State.waitG_free s _ h]
  split <;> rfl

/-! ### Traps (R311 to R313) -/

/-- With a handler in place, a trap enters it: the one hart changes and a trace record may follow. -/
theorem State.takeTrap_enter (s : State) (t : Trap) (h : s.hart.trapvec ≠ 0) :
    s.takeTrap t = (s.setHart (s.hart.enter t)).emit s.cur 4
      (trapPayload t.cause t.vec t.mem false t.elem t.pc t.val) := by
  unfold State.takeTrap
  rw [if_neg h]; rfl

/-- Without one, it kills the launch with REASON 6 (R50). -/
theorem State.takeTrap_kill (s : State) (t : Trap) (h : s.hart.trapvec = 0) :
    s.takeTrap t = s.killMine 6 (t.pc &&& 0xFFFFFFFFFFFF) := by
  unfold State.takeTrap
  rw [if_pos h]

/-- A trace record changes no hart and no memory. -/
@[simp] theorem State.emit_harts (s : State) (src ty : Nat) (p : List Byte) : (s.emit src ty p).harts = s.harts := by
  unfold State.emit
  simp only
  split
  · rfl
  · split
    · rfl
    · split <;> rfl

@[simp] theorem State.emit_mem (s : State) (src ty : Nat) (p : List Byte) : (s.emit src ty p).mem = s.mem := by
  unfold State.emit
  simp only
  split
  · rfl
  · split
    · rfl
    · split <;> rfl

@[simp] theorem State.emit_cur (s : State) (src ty : Nat) (p : List Byte) : (s.emit src ty p).cur = s.cur := by
  unfold State.emit
  simp only
  split
  · rfl
  · split
    · rfl
    · split <;> rfl

@[simp] theorem State.emit_hart (s : State) (src ty : Nat) (p : List Byte) : (s.emit src ty p).hart = s.hart := by
  unfold State.hart State.hartAt
  rw [State.emit_harts, State.emit_cur]

end Sys2Proof.Machine
end

