-- ==== Sys2Proof/Laws/Issue.lean ====
section
/-! SUPPORT. What the issue of a vector instruction does: it enters the command queue, and where it is a convoy of its
own it executes at once and retires. -/

namespace Sys2Proof.Machine

/-- A vector instruction that no check stops enters the queue; in the model's own words, what follows is `takeUp`. -/
theorem State.issueV_enqueue (s : State) (i : Instr) (hs : s.hart.sup = false) (hq : s.hart.queue = [])
    (hi : illegalAtIssue i s.hart.capture = false) (ho : overlaps i s.hart.capture = false)
    (hb : streamTrap s.hart i s.hart.capture = false)
    (hv : vlTrap s.hart i s.hart.capture (s.entryOf i).opa (s.ladderOf i (s.entryOf i).opa) = none) :
    s.issueV i = (s.enqueue i).takeUp := by
  have those : ∀ (p : QEntry → Bool) (k : State → State), s.afterThose p k = k s := fun p k =>
    State.afterThose_free s p k (.inr (by rw [hq]; rfl))
  have free : ∀ (need : Bool) (k : State → State), s.afterQueue need k = k s := fun _ => those _
  unfold State.issueV
  rw [if_neg (by simp [hs]), hi, if_neg (by simp), those]
  unfold State.issueLegal
  rw [ho, if_neg (by simp), free, hb, if_neg (by simp)]
  unfold State.issueChecked
  simp only [hv]
  unfold State.makePlace
  exact those _ _

/-- The machine after the one member of a convoy: lane cycles are counted and the member retires. -/
def State.memberDone (s : State) (seq lo : Nat) (use : Nat × Nat) (ew : Nat) : State :=
  (s.countLanes lo { s := s, hi := 8192, stop := none, alive := true, useful := 0 ||| use.2, slots := max 0 use.1 } ew).modHart
    (fun h => h.retire [seq])

/-- A hart whose counters of lane cycles, activity and clocks to come are these. -/
def Hart.counted (h : Hart) (a b c d : Word) (e f : Nat) : Hart :=
  { h with lcuse := a, lcmask := b, lctail := c, lcstart := d, activity := e, ahead := f }

/-- Counting lane cycles changes those counters of the executing hart, and nothing else. -/
theorem State.countLanes_eq (s : State) (lo : Nat) (r : Run) (ew : Nat) :
    ∃ a b c d e f, s.countLanes lo r ew = s.setHart (s.hart.counted a b c d e f) := by
  unfold State.countLanes
  by_cases h : 8 * s.lgrant s.cur = 0
  · refine ⟨s.hart.lcuse, s.hart.lcmask, s.hart.lctail, s.hart.lcstart, s.hart.activity, s.hart.ahead, ?_⟩
    simp only [h, if_true]
    exact (State.setHart_hart s).symm
  · simp only [h, if_false]
    exact ⟨_, _, _, _, _, _, rfl⟩

/-- A member that is done leaves the queue; of the rest, only the counters of lane cycles may have moved. -/
theorem State.memberDone_eq (s : State) (seq lo : Nat) (use : Nat × Nat) (ew : Nat) (hc : s.cur < 512) :
    ∃ a b c d e f, s.memberDone seq lo use ew = s.setHart ((s.hart.counted a b c d e f).retire [seq]) := by
  unfold State.memberDone
  obtain ⟨a, b, c, d, e, f, h⟩ := State.countLanes_eq s lo
    { s := s, hi := 8192, stop := none, alive := true, useful := 0 ||| use.2, slots := max 0 use.1 } ew
  refine ⟨a, b, c, d, e, f, ?_⟩
  rw [h, State.modHart_eq, State.hart_setHart s _ hc, State.setHart_setHart]

/-- A member whose strips no younger reader has taken over runs as it stands. -/
theorem runOnStrip_plain (c : Ctx) (tie : Bool) (s : State) (h : c.q.strip = []) :
    runOnStrip c tie s = runForced c tie s := by
  unfold runOnStrip
  rw [h]; rfl

/-- The convoy of one entry, when its member meets no stop: it runs and retires. -/
theorem State.runConvoy_one (s : State) (e : QEntry) (hq : s.hart.queue = [e]) (hr : s.hart.regError = false)
    (hst : s.hart.stopped = none) (hcons : e.consumed = false) (hstrip : e.strip = []) (hb : s.hart.bindingsRead e = [])
    (hf : s.hart.forced (s.hart.ctxOf e 0 0 8192) false = none)
    (m : MRes) (hm : m = runMember (s.hart.ctxOf e 0 0 8192) s) (hstop : m.stop = none) (hal : m.alive = true) :
    s.runConvoy = (m.s.memberDone e.seq 0 (slotUse s.hart e 0) (ewOf e.cap.vcfg), .retired) := by
  have hrun : runCtx (s.hart.ctxOf e 0 0 8192) .take false s = m := by
    unfold runCtx
    rw [hf]
    have hq' : (s.hart.ctxOf e 0 0 8192).q = e := rfl
    have hi : (s.hart.ctxOf e 0 0 8192).hi = 8192 := rfl
    have hd : deliverAll s e = .ok s := by
      unfold deliverAll
      simp [hb, fetchAll, takeAll]
    simp only [Option.filter_none, hq', hi, hcons, hd, MRes.ok]
    simp [hq]
    show runOnStrip (s.hart.ctxOf e 0 0 8192) false s = m
    rw [runOnStrip_plain _ false s hstrip]
    unfold runForced
    rw [hf, hm]
  have hmem : memberRun s e.seq 0 0 8192 .take false = m := by
    unfold memberRun
    have hw : (s.hart.ctxOf e 0 0 8192).skippedWhole = false := by
      simp [Ctx.skippedWhole, Hart.ctxOf]
    simp [hq, hw, hrun]
  unfold State.runConvoy
  have hh : headConvoy [e] = [e] := rfl
  simp [hq, hh, hr, hst, Hart.plan, runMembers, Run.start, Run.next, Run.meet, Run.tie, hmem, hstop, hal,
    State.retireConvoy, State.memberDone]

/-- With no watch entry enabled at its address and no mismatch to come, nothing forces a member to stop (R317). -/
theorem Hart.forced_none (h : Hart) (c : Ctx) (tie : Bool)
    (hw : ∀ (k : Nat) (w : Watch), h.watch[k]? = some w → w.en = true → w.addr ≠ c.q.addr)
    (hm : h.miract = true → h.mirrorError = []) : h.forced c tie = none := by
  have h1 : h.watchMatch c = none := by
    have e : (List.range 4).filterMap (fun n =>
        match h.watch[n]? with
        | none => none
        | some w =>
          if w.en && w.addr = c.q.addr && c.lo ≤ w.elem && w.elem < c.vl && w.elem < c.u && !c.skipped w.elem
              && !h.watched.contains (c.q.seq, w.elem) then some (w.elem, n) else none) = [] := by
      rw [List.filterMap_eq_nil_iff]
      intro n _
      split
      · rfl
      · rename_i w hn
        rw [if_neg]
        intro hh
        simp only [Bool.and_eq_true, decide_eq_true_eq] at hh
        exact hw n w hn hh.1.1.1.1.1.1 hh.1.1.1.1.1.2
    show List.foldl _ none _ = none
    erw [e]
    rfl
  have h2 : h.mismatch c = none := by
    unfold Hart.mismatch
    split
    · rename_i e
      rw [hm e]; rfl
    · rfl
  unfold Hart.forced
  rw [h1, h2]
  split <;> rfl

/-- A vector instruction alone: with an empty queue, no check against it and nothing in it to stop, where its convoy is
known at once and the core picks it, it executes and retires. -/
theorem State.issueV_alone (s : State) (i : Instr) (hc : s.cur < 512) (hs : s.hart.sup = false)
    (hq : s.hart.queue = []) (hn : (s.enqueue i).convoyPick = some s.cur) (ha : s.hart.dbg.armed = false)
    (hr : s.hart.regError = false) (hst : s.hart.stopped = none)
    (hi : illegalAtIssue i s.hart.capture = false) (ho : overlaps i s.hart.capture = false)
    (hb : streamTrap s.hart i s.hart.capture = false)
    (hv : vlTrap s.hart i s.hart.capture (s.entryOf i).opa (s.ladderOf i (s.entryOf i).opa) = none)
    (hbr : s.hart.bindingsRead (s.entryOf i) = [])
    (hf : s.hart.forced (s.hart.ctxOf (s.entryOf i) 0 0 8192) false = none)
    (m : MRes) (hm : m = runMember (s.hart.ctxOf (s.entryOf i) 0 0 8192) ((s.enqueue i).modHart Hart.pick))
    (hstop : m.stop = none) (hal : m.alive = true) :
    s.issueV i = m.s.memberDone s.hart.nextSeq 0 (slotUse (s.enqueue i).hart (s.entryOf i) 0) (ewOf s.hart.vcfg) := by
  rw [State.issueV_enqueue s i hs hq hi ho hb hv]
  have hh : (s.enqueue i).hart = { s.hart with
      queue := s.hart.queue ++ [s.entryOf i], nextSeq := s.hart.nextSeq + 1, split := false,
      lastVl := vlOf (s.entryOf i).cap.vcfg, pc := s.hart.pc + 4 } := by
    unfold State.enqueue
    exact State.hart_modHart s _ hc
  have hp : ((s.enqueue i).modHart Hart.pick).hart = (s.enqueue i).hart.pick := State.hart_modHart _ _ hc
  have hcur : (s.enqueue i).cur = s.cur := rfl
  have hone := State.runConvoy_one ((s.enqueue i).modHart Hart.pick) (s.entryOf i)
    (by rw [hp, hh, hq]; rfl) (by rw [hp, hh]; exact hr) (by rw [hp, hh]; exact hst) rfl rfl
    (by rw [hp, hh]; exact hbr) (by rw [hp, hh]; exact hf) m (by rw [hp, hh]; exact hm) hstop hal
  have hlen : (s.enqueue i).hart.queue.length = 1 := by rw [hh, hq]; rfl
  unfold State.takeUp
  rw [hlen]
  unfold State.runKnownFor
  rw [if_neg, hone]
  · simp only [hp]
    rfl
  · rw [hn, hcur, hh, hq]
    simp [Hart.stepDone, ha]

end Sys2Proof.Machine
end

