-- ==== Sys2Proof/Safety.lean ====
section
/-! DEFINITION. What counts as a safe run. -/

namespace Sys2Proof

/-- A run of k steps that meets no fault and no refusal. -/
def SafeFor (k : Nat) (s : Machine.State) : Prop := ∃ t : Machine.State, core.run k s = .next t

/-- A run of any length that meets no fault and no refusal. -/
def Safe (s : Machine.State) : Prop := ∀ k, SafeFor k s

end Sys2Proof
end

