-- ==== Sys2Proof/Tests/Slice0.lean ====
section
/-! SUPPORT. Tests: words written out from the encodings, an ill-formed term for each check, one small step for the
instructions most easily got wrong, and for every statement of Obligations.lean a state that meets its hypotheses. -/

namespace Sys2Proof.Tests

-- One theorem after the other: the kernel evaluates whole machines here.
set_option Elab.async false

open Machine Stated

/-! ### Words, field by field as R81 to R110 and the opcode table lay them out -/

theorem test_words_of_class0 :
    [(0b0000_00011_01100_01001_0000000000001#32, (.add 3 12 9 : Instr)),
      (0b0000_00011_01100_01001_0000000000010#32, .sub 3 12 9),
      (0b0000_00011_01100_01001_0000000000011#32, .mul 3 12 9),
      (0b0000_00011_01100_01001_0000000000100#32, .mulh 3 12 9),
      (0b0000_00011_01100_01001_0000000000101#32, .mulhz 3 12 9),
      (0b0000_00011_01100_01001_0000000000110#32, .div 3 12 9),
      (0b0000_00011_01100_01001_0000000000111#32, .divz 3 12 9),
      (0b0000_00011_01100_01001_0000000001000#32, .rem 3 12 9),
      (0b0000_00011_01100_01001_0000000001001#32, .remz 3 12 9),
      (0b0000_00011_01100_01001_0000000001010#32, .and 3 12 9),
      (0b0000_00011_01100_01001_0000000001011#32, .or 3 12 9),
      (0b0000_00011_01100_01001_0000000001100#32, .xor 3 12 9),
      (0b0000_00011_01100_01001_0000000001101#32, .andn 3 12 9),
      (0b0000_00011_01100_01001_0000000001110#32, .sll 3 12 9),
      (0b0000_00011_01100_01001_0000000001111#32, .srl 3 12 9),
      (0b0000_00011_01100_01001_0000000010000#32, .sra 3 12 9),
      (0b0000_00011_01100_01001_0000000010001#32, .slt 3 12 9),
      (0b0000_00011_01100_01001_0000000010010#32, .sltz 3 12 9),
      (0b0000_00011_01100_01001_0000000010011#32, .min 3 12 9),
      (0b0000_00011_01100_01001_0000000010100#32, .max 3 12 9),
      (0b0000_00011_01100_01001_0000000010101#32, .minz 3 12 9),
      (0b0000_00011_01100_01001_0000000010110#32, .maxz 3 12 9),
      (0b0000_00011_01100_000000000000010111#32, .clz 3 12),
      (0b0000_00011_01100_000000000000011000#32, .ctz 3 12),
      (0b0000_00011_01100_000000000000011001#32, .popc 3 12),
      (0b0000_00011_01100_01001_0000000011010#32, .movnz 3 12 9),
      (0b0000_00011_01100_01001_01_00000100000#32, .fadd 3 12 9 1),
      (0b0000_00011_01100_01001_01_00000100001#32, .fsub 3 12 9 1),
      (0b0000_00011_01100_01001_01_00000100010#32, .fmul 3 12 9 1),
      (0b0000_00011_01100_01001_01_00000100011#32, .fma 3 12 9 1),
      (0b0000_00011_01100_01001_01_00000100100#32, .fdiv 3 12 9 1),
      (0b0000_00011_01100_00000_01_00000100101#32, .fsqrt 3 12 1),
      (0b0000_00011_01100_01001_01_00000100110#32, .fmin 3 12 9 1),
      (0b0000_00011_01100_01001_01_00000100111#32, .fmax 3 12 9 1),
      (0b0000_00011_01100_01001_01_00000101000#32, .fcmpeq 3 12 9 1),
      (0b0000_00011_01100_01001_01_00000101001#32, .fcmplt 3 12 9 1),
      (0b0000_00011_01100_01001_01_00000101010#32, .fcmple 3 12 9 1),
      (0b0000_00011_01100_00011_01_00000101011#32, .fcvt 3 12 3 1),
      (0b0000_00011_01100_00000_01_00000101100#32, .fclass 3 12 1)].all
      (fun p => decode p.1 == some p.2) = true := by
  decide +kernel

theorem test_words_of_class1 :
    [(0b0001_00011_01100_0000_10101001011011#32, (.addi 3 12 0x2a5b : Instr)),
      (0b0001_00011_01100_0001_10101001011011#32, .andi 3 12 0x2a5b),
      (0b0001_00011_01100_0010_10101001011011#32, .ori 3 12 0x2a5b),
      (0b0001_00011_01100_0011_10101001011011#32, .xori 3 12 0x2a5b),
      (0b0001_00011_01100_010000000000_001001#32, .slli 3 12 9),
      (0b0001_00011_01100_010100000000_001001#32, .srli 3 12 9),
      (0b0001_00011_01100_011000000000_001001#32, .srai 3 12 9),
      (0b0001_00011_01100_0111_10101001011011#32, .slti 3 12 0x2a5b),
      (0b0001_00011_01100_1000_10101001011011#32, .sltzi 3 12 0x2a5b)].all
      (fun p => decode p.1 == some p.2) = true := by
  decide +kernel

theorem test_words_of_class2 :
    [(0b0010_00011_0_1011000011010110100111#32, (.lhi 3 0x2c35a7 : Instr)),
      (0b0010_00011_1_1011000011010110100111#32, .addpc 3 0x2c35a7)].all
      (fun p => decode p.1 == some p.2) = true := by
  decide +kernel

theorem test_words_of_class3 :
    [(0b0011_000_00011_01100_101101000111100#32, (.beq 3 12 0x5a3c : Instr)),
      (0b0011_001_00011_01100_101101000111100#32, .bne 3 12 0x5a3c),
      (0b0011_010_00011_01100_101101000111100#32, .blt 3 12 0x5a3c),
      (0b0011_011_00011_01100_101101000111100#32, .bge 3 12 0x5a3c),
      (0b0011_100_00011_01100_101101000111100#32, .bltz 3 12 0x5a3c),
      (0b0011_101_00011_01100_101101000111100#32, .bgez 3 12 0x5a3c),
      (0b0011_11000_00011_000_101101000111100#32, .bpany 3 0x5a3c),
      (0b0011_11001_00011_000_101101000111100#32, .bpnone 3 0x5a3c),
      (0b0011_11010_00011_01100_0000000000000#32, .jalr 3 12),
      (0b0011_111_11_10110110100110000111101#32, .jal 3 0x5b4c3d)].all
      (fun p => decode p.1 == some p.2) = true := by
  decide +kernel

theorem test_words_of_class4 :
    [(0b0100_00011_01100_0000_10101001011011#32, (.ldb 3 12 0x2a5b : Instr)),
      (0b0100_00011_01100_0001_10101001011011#32, .ldh 3 12 0x2a5b),
      (0b0100_00011_01100_0010_10101001011011#32, .ldw 3 12 0x2a5b),
      (0b0100_00011_01100_0011_10101001011011#32, .ldd 3 12 0x2a5b),
      (0b0100_00011_01100_0100_10101001011011#32, .ldbz 3 12 0x2a5b),
      (0b0100_00011_01100_0101_10101001011011#32, .ldhz 3 12 0x2a5b),
      (0b0100_00011_01100_0110_10101001011011#32, .ldwz 3 12 0x2a5b),
      (0b0100_00011_01100_1000_10101001011011#32, .stb 3 12 0x2a5b),
      (0b0100_00011_01100_1001_10101001011011#32, .sth 3 12 0x2a5b),
      (0b0100_00011_01100_1010_10101001011011#32, .stw 3 12 0x2a5b),
      (0b0100_00011_01100_1011_10101001011011#32, .std 3 12 0x2a5b),
      (0b0100_00011_01100_1111_01001_1_00000000#32, .aadd 3 12 9 1),
      (0b0100_00011_01100_1111_01001_1_00010000#32, .aswp 3 12 9 1),
      (0b0100_00011_01100_1111_01001_1_00100000#32, .acas 3 12 9 1),
      (0b0100_00011_01100_1111_01001_1_00110000#32, .amin 3 12 9 1),
      (0b0100_00011_01100_1111_01001_1_01000000#32, .amax 3 12 9 1),
      (0b0100_00011_01100_1111_01001_1_01010000#32, .aminz 3 12 9 1),
      (0b0100_00011_01100_1111_01001_1_01100000#32, .amaxz 3 12 9 1),
      (0b0100_00011_01100_1111_01001_1_01110000#32, .aand 3 12 9 1),
      (0b0100_00011_01100_1111_01001_1_10000000#32, .aor 3 12 9 1),
      (0b0100_00011_01100_1111_01001_1_10010000#32, .axor 3 12 9 1)].all
      (fun p => decode p.1 == some p.2) = true := by
  decide +kernel

theorem test_words_of_class5 :
    [(0b0101_00011_00000_100000010001_000000#32, (.crr 3 0x811 : Instr)),
      (0b0101_00000_00011_100000010001_000001#32, .crw 3 0x811),
      (0b0101_00000_00011_100000010001_000010#32, .crset 3 0x811),
      (0b0101_00000_00011_100000010001_000011#32, .crclr 3 0x811),
      (0b0101_00000_00011_000000000000000100#32, .trap 3),
      (0b0101_0000000000000000000000000101#32, .eret),
      (0b0101_0000000000000000000000000110#32, .fence),
      (0b0101_0000000000000000000000000111#32, .fences),
      (0b0101_0000000000000000000000001000#32, .errfence),
      (0b0101_0000000000000000000000001001#32, .yield),
      (0b0101_0000000000000000000000001010#32, .halt),
      (0b0101_0000000000000000000000001011#32, .bkpt),
      (0b0101_00000_00011_000000000000001100#32, .ctxsave 3),
      (0b0101_00000_00011_000000000000001101#32, .ctxload 3),
      (0b0101_00011_01100_01001_01110_00001110#32, .setvl 3 12 9 14),
      (0b0101_00011_01100_01001_01110_00001111#32, .setvlK 3 12 9 14),
      (0b0101_00011_01100_01001_01110_00010000#32, .setvlg 3 12 9 14)].all
      (fun p => decode p.1 == some p.2) = true := by
  decide +kernel

theorem test_words_of_class8 :
    [(0b1000_000011_001100_001001_1_0_101_00000#32, (.vadd 3 12 9 1 0 5 : Instr)),
      (0b1000_000011_001100_001001_1_0_101_00001#32, .vsub 3 12 9 1 0 5),
      (0b1000_000011_001100_001001_1_0_101_00010#32, .vmul 3 12 9 1 0 5),
      (0b1000_000011_001100_001001_1_0_101_00011#32, .vmulh 3 12 9 1 0 5),
      (0b1000_000011_001100_001001_1_0_101_00100#32, .vmulhz 3 12 9 1 0 5),
      (0b1000_000011_001100_001001_1_0_101_00101#32, .vmadd 3 12 9 1 0 5),
      (0b1000_000011_001100_001001_1_0_101_00110#32, .vmsub 3 12 9 1 0 5),
      (0b1000_000011_001100_001001_1_0_101_00111#32, .vand 3 12 9 1 0 5),
      (0b1000_000011_001100_001001_1_0_101_01000#32, .vor 3 12 9 1 0 5),
      (0b1000_000011_001100_001001_1_0_101_01001#32, .vxor 3 12 9 1 0 5),
      (0b1000_000011_001100_001001_1_0_101_01010#32, .vsll 3 12 9 1 0 5),
      (0b1000_000011_001100_001001_1_0_101_01011#32, .vsrl 3 12 9 1 0 5),
      (0b1000_000011_001100_001001_1_0_101_01100#32, .vsra 3 12 9 1 0 5),
      (0b1000_000011_001100_001001_1_0_101_01101#32, .vmin 3 12 9 1 0 5),
      (0b1000_000011_001100_001001_1_0_101_01110#32, .vmax 3 12 9 1 0 5),
      (0b1000_000011_001100_001001_1_0_101_01111#32, .vminz 3 12 9 1 0 5),
      (0b1000_000011_001100_001001_1_0_101_10000#32, .vmaxz 3 12 9 1 0 5),
      (0b1000_000011_001100_001001_1_0_101_10001#32, .vsadd 3 12 9 1 0 5),
      (0b1000_000011_001100_001001_1_0_101_10010#32, .vssub 3 12 9 1 0 5),
      (0b1000_000011_001100_001001_1_0_101_10011#32, .vsaddz 3 12 9 1 0 5),
      (0b1000_000011_001100_001001_1_0_101_10100#32, .vssubz 3 12 9 1 0 5),
      (0b1000_000011_001100_001001_1_0_101_10101#32, .vabsd 3 12 9 1 0 5)].all
      (fun p => decode p.1 == some p.2) = true := by
  decide +kernel

theorem test_words_of_class9 :
    [(0b1001_000011_001100_001001_1_0_101_00000#32, (.vfadd 3 12 9 1 0 5 : Instr)),
      (0b1001_000011_001100_001001_1_0_101_00001#32, .vfsub 3 12 9 1 0 5),
      (0b1001_000011_001100_001001_1_0_101_00010#32, .vfmul 3 12 9 1 0 5),
      (0b1001_000011_001100_001001_1_0_101_00011#32, .vfma 3 12 9 1 0 5),
      (0b1001_000011_001100_001001_1_0_101_00100#32, .vfms 3 12 9 1 0 5),
      (0b1001_000011_001100_001001_1_0_101_00101#32, .vfnma 3 12 9 1 0 5),
      (0b1001_000011_001100_001001_1_0_101_00110#32, .vfdiv 3 12 9 1 0 5),
      (0b1001_000011_001100_000000_1_000000111#32, .vfsqrt 3 12 1),
      (0b1001_000011_001100_001001_1_0_101_01000#32, .vfmin 3 12 9 1 0 5),
      (0b1001_000011_001100_001001_1_0_101_01001#32, .vfmax 3 12 9 1 0 5),
      (0b1001_000011_001100_000000_1_000001010#32, .vfexp2 3 12 1),
      (0b1001_000011_001100_10111_0_1_0110_01011#32, .vfcvt 3 12 23 6 1),
      (0b1001_000011_001100_000000_1_000001100#32, .vfclass 3 12 1),
      (0b1001_000011_001100_001001_1_0_101_01101#32, .vfsgnj 3 12 9 1 0 5)].all
      (fun p => decode p.1 == some p.2) = true := by
  decide +kernel

theorem test_words_of_class10 :
    [(0b1010_00011_01100_01001_0000000000000#32, (.pand 3 12 9 : Instr)),
      (0b1010_00011_01100_01001_0000000000001#32, .por 3 12 9),
      (0b1010_00011_01100_01001_0000000000010#32, .pxor 3 12 9),
      (0b1010_00011_01100_01001_0000000000011#32, .pandn 3 12 9),
      (0b1010_00011_00000000000000000000100#32, .pset 3),
      (0b1010_00011_00000000000000000000101#32, .pclr 3),
      (0b1010_00011_01100_000000000000000110#32, .pmov 3 12),
      (0b1010_00011_01100_000000000000000111#32, .pexitb 3 12),
      (0b1010_00011_01100_000000000000001000#32, .pexita 3 12),
      (0b1010_00011_01100_000000000000001001#32, .pfirst 3 12),
      (0b1010_00011_01100_000000000000001010#32, .pcnt 3 12),
      (0b1010_00011_01100_000000000000001011#32, .pidx 3 12),
      (0b1010_00011_001100_001001_1_0_101_010000#32, .vcmpEq 3 12 9 1 0 5),
      (0b1010_00011_001100_001001_1_0_101_010001#32, .vcmpNe 3 12 9 1 0 5),
      (0b1010_00011_001100_001001_1_0_101_010010#32, .vcmpLt 3 12 9 1 0 5),
      (0b1010_00011_001100_001001_1_0_101_010011#32, .vcmpLe 3 12 9 1 0 5),
      (0b1010_00011_001100_001001_1_0_101_010100#32, .vcmpLtz 3 12 9 1 0 5),
      (0b1010_00011_001100_001001_1_0_101_010101#32, .vcmpLez 3 12 9 1 0 5),
      (0b1010_00011_001100_001001_1_0_101_010110#32, .vfcmpEq 3 12 9 1 0 5),
      (0b1010_00011_001100_001001_1_0_101_010111#32, .vfcmpNe 3 12 9 1 0 5),
      (0b1010_00011_001100_001001_1_0_101_011000#32, .vfcmpLt 3 12 9 1 0 5),
      (0b1010_00011_001100_001001_1_0_101_011001#32, .vfcmpLe 3 12 9 1 0 5),
      (0b1010_00011_001100_001001_1_0_101_011010#32, .vfcmpUn 3 12 9 1 0 5)].all
      (fun p => decode p.1 == some p.2) = true := by
  decide +kernel

theorem test_words_of_class11 :
    [(0b1011_000011_001100_01001_0_0_1110_00000#32, (.vslup 3 12 9 14 : Instr)),
      (0b1011_000011_001100_01001_0_0_1110_00001#32, .vsldn 3 12 9 14),
      (0b1011_000011_001100_001001_0000000010#32, .vcompress 3 12 9),
      (0b1011_000011_001100_001001_0000000011#32, .vexpand 3 12 9),
      (0b1011_000011_001100_001001_0000000100#32, .vperm 3 12 9),
      (0b1011_000011_0000000000000000000101#32, .vid 3),
      (0b1011_000011_001100_0000000000000110#32, .viota 3 12),
      (0b1011_000011_001100_001001_1_0_101_00111#32, .vmerge 3 12 9 1 0 5),
      (0b1011_000011_001100_0000000000001000#32, .vbcast 3 12),
      (0b1011_000011_001100_001001_0000001001#32, .vextr 3 12 9),
      (0b1011_000011_001100_001001_0000001010#32, .vins 3 12 9),
      (0b1011_000011_001100_0000000000001011#32, .vrsum 3 12),
      (0b1011_000011_001100_0000000000001100#32, .vrmax 3 12),
      (0b1011_000011_001100_0000000000001101#32, .vrmin 3 12),
      (0b1011_000011_001100_0000000000001110#32, .vfrsum 3 12),
      (0b1011_000011_001100_0000000000001111#32, .vfrsumo 3 12),
      (0b1011_000011_001100_0000000000010000#32, .vfrmax 3 12),
      (0b1011_000011_001100_0000000000010001#32, .vfrmin 3 12),
      (0b1011_000011_001100_001001_0000010010#32, .vrscl 3 12 9),
      (0b1011_000011_001100_0000000000010011#32, .vargmax 3 12),
      (0b1011_000011_001100_00000000_001_10100#32, .vpsplit 3 12 1),
      (0b1011_000011_001100_00000000_001_10101#32, .vpjoin 3 12 1),
      (0b1011_000011_001100_000000_1_000010110#32, .vpadd 3 12 1)].all
      (fun p => decode p.1 == some p.2) = true := by
  decide +kernel

theorem test_words_of_class12 :
    [(0b1100_000011_01100_00000000000000000#32, (.vld 3 12 : Instr)),
      (0b1100_000011_01100_00000000000000001#32, .vlds 3 12),
      (0b1100_000011_01100_001001_1_000_10_00010#32, .vldx 3 12 9 1 2),
      (0b1100_000011_01100_00000000000000011#32, .vldf 3 12),
      (0b1100_000011_01100_000000_1_0000000100#32, .vst 3 12 1),
      (0b1100_000011_01100_000000_1_0000000101#32, .vsts 3 12 1),
      (0b1100_000011_01100_001001_1_000_10_00110#32, .vstx 3 12 9 1 2),
      (0b1100_000011_01100_001001_1_00_1_10_00111#32, .vscadd 3 12 9 1 1 2),
      (0b1100_000011_01100_00000000000_1_01000#32, .vmerget 3 12 1),
      (0b1100_000011_01100_001001_0_01_0_11_01001#32, .vpld 3 12 9 1 3),
      (0b1100_000011_01100_001001_0_10_0_1_001010#32, .vpst 3 12 9 2 1),
      (0b1100_000011_01100_0000000_10_00001011#32, .vxpand 3 12 2),
      (0b1100_000011_01100_00000000000001100#32, .vbind 3 12),
      (0b1100_000011_0000000000000000001101#32, .vunbind 3)].all
      (fun p => decode p.1 == some p.2) = true := by
  decide +kernel

theorem test_words_of_class13 :
    [(0b1101_00000000000000000000_100_00000#32, (.mattach 4 : Instr)),
      (0b1101_0000000000000000000000000001#32, .mdetach),
      (0b1101_10_00000000000000000000000010#32, .mzero 2),
      (0b1101_10_000011_001100_1_0_0110_00_1_00011#32, .mxacc 2 3 12 1 0 6 1),
      (0b1101_10_000011_001100_1_0_1000_00_1_00100#32, .mxsub 2 3 12 1 0 8 1),
      (0b1101_10_000011_001100_00000000000101#32, .mrowv 2 3 12),
      (0b1101_10_000011_001100_00000000000110#32, .mcolv 2 3 12),
      (0b1101_10_000011_001100_00000000000111#32, .mvrow 2 3 12),
      (0b1101_10_000011_00000000000000001000#32, .mtst 2 3),
      (0b1101_10_000011_00000000000000001001#32, .mtld 2 3)].all
      (fun p => decode p.1 == some p.2) = true := by
  decide +kernel

theorem test_words_of_class14 :
    [(0b1110_00011_01100_01001_001110_0000000#32, (.cpy 3 12 9 14 : Instr)),
      (0b1110_00011_01100_00000_001001_0000001#32, .cpyg 3 12 9),
      (0b1110_00011_01100_000000000000000010#32, .cpyx 3 12),
      (0b1110_00000_00011_01100_001001_0000011#32, .kzone 3 12 9),
      (0b1110_00011_01100_01001_0000000000100#32, .krsv 3 12 9),
      (0b1110_00011_01100_01001_001110_10_00101#32, .ksend 3 12 9 14 2),
      (0b1110_00011_01100_01001_0000000000110#32, .kwait 3 12 9),
      (0b1110_00000_00011_01100_0000000000111#32, .krel 3 12),
      (0b1110_00011_01100_01001_0000000001000#32, .kstat 3 12 9),
      (0b1110_00011_01100_000000000000001001#32, .tlrd 3 12),
      (0b1110_00011_01100_01001_0000000001010#32, .tlwait 3 12 9),
      (0b1110_00000_00011_01100_0000000001011#32, .tlsig 3 12),
      (0b1110_00011_01100_000000000000001100#32, .launch 3 12),
      (0b1110_0000000000000000000000001101#32, .waitslot),
      (0b1110_00000_00011_01100_0000000001110#32, .post 3 12),
      (0b1110_00011_01100_000000000000001111#32, .wait 3 12),
      (0b1110_00011_00000000000000000010000#32, .gbarw 3),
      (0b1110_00000_00011_01100_0000000010001#32, .barinit 3 12),
      (0b1110_00011_01100_000000000000010010#32, .barwait 3 12)].all
      (fun p => decode p.1 == some p.2) = true := by
  decide +kernel

theorem test_words_of_class15 :
    [(0b1111_000011_001100_001001_01110_00000#32, (.vsample 3 12 9 14 : Instr)),
      (0b1111_000011_001100_000000_01001_00001#32, .vpen 3 12 9),
      (0b1111_000011_001100_000000_01001_00010#32, .gmask 3 12 9),
      (0b1111_000011_001100_000000_01001_00011#32, .gadv 3 12 9),
      (0b1111_000011_000000000000_01100_00100#32, .gstat 3 12),
      (0b1111_000011_001100_000000_01001_00101#32, .stopm 3 12 9),
      (0b1111_000011_001100_001001_01110_00110#32, .vhlook 3 12 9 14),
      (0b1111_000011_001100_000000_01001_00111#32, .pfxh 3 12 9),
      (0b1111_000011_001100_001001_01110_01000#32, .pfxlk 3 12 9 14),
      (0b1111_000011_001100_001001_0000001001#32, .pfxpin 3 12 9),
      (0b1111_000011_001100_001001_0000001010#32, .pfxins 3 12 9),
      (0b1111_000011_001100_001001_0000001011#32, .pfxunpin 3 12 9),
      (0b1111_000000_000011_001100_0000001100#32, .ngput 3 12),
      (0b1111_000011_001100_001001_0000001101#32, .ngget 3 12 9)].all
      (fun p => decode p.1 == some p.2) = true := by
  decide +kernel

/-! ### An ill-formed term for each check of WellFormed -/

/-- R80: a vector register field above 47, a g or p field above 31. -/
theorem test_ill_formed_registers :
    ([.vadd 48 1 2 0 0 0, .vadd 3 48 2 0 0 0, .vadd 3 1 63 0 0 0, .vcompress 4 1 32, .vbcast 4 32, .vextr 32 1 2,
      .mtst 0 32, .cpy 1 2 3 32, .cpyg 1 2 48, .gstat 32 5] : List Instr).all (fun i => !wellFormed i) = true := by decide

/-- R18, R99: a planed field above 15, a ladder code above 1. -/
theorem test_ill_formed_planes :
    ([.vpsplit 16 1 0, .vpsplit 3 1 2, .vpjoin 3 16 1, .vpadd 16 1 0, .vpld 16 5 0 0 0, .vxpand 16 5 1] : List Instr).all
      (fun i => !wellFormed i) = true := by decide

/-- R94: a reserved replicate code, and a replicate code beside the chain bit of vb. -/
theorem test_ill_formed_replicates :
    ([.vadd 3 1 2 0 0 1, .vadd 3 1 2 0 0 3, .vadd 3 1 2 0 1 4, .vcmpLt 3 1 2 0 1 7] : List Instr).all
      (fun i => !wellFormed i) = true := by decide

/-- R81, R83, R97: reserved widths and conversion codes, and a conversion of a type to itself. -/
theorem test_ill_formed_conversions :
    ([.fadd 1 2 3 2, .fclass 1 2 3, .fcvt 1 2 5 0, .fcvt 1 2 0 2, .vfcvt 3 1 9 7 0, .vfcvt 3 1 7 15 0, .vfcvt 3 1 24 7 0,
      .vfcvt 3 1 7 7 0] : List Instr).all (fun i => !wellFormed i) = true := by decide

/-- R102, R228: plane count code 3, a scale field under ladder F, and a scale register among the planes. -/
theorem test_ill_formed_plane_accesses :
    ([.vpld 3 5 0 3 0, .vpld 3 5 1 0 1, .vpld 3 5 3 2 2, .vpld 3 5 19 2 2, .vpld 3 5 35 0 3, .vpst 3 5 1 0 0,
      .vpst 3 5 48 0 1, .vxpand 48 5 0, .vxpand 3 5 3] : List Instr).all (fun i => !wellFormed i) = true := by decide

/-- R107, R108, R249: tile counts, formats, scaled forms and tile pairs. -/
theorem test_ill_formed_tiles :
    ([.mattach 0, .mattach 5, .mxacc 0 1 2 0 0 9 0, .mxacc 0 1 2 0 0 3 1, .mxsub 1 1 2 0 0 1 0] : List Instr).all
      (fun i => !wellFormed i) = true := by decide

/-! ### Small machines -/

/-- One launch runs on hart 0 in program mode, under tables that map the first GiB onto itself; a handler at 0x20000. -/
def prog : State := State.reset.solo.modHart (fun h => { h with trapvec := 0x20000 })

/-- The same with registers set. -/
def withRegs (l : List (Nat × Word)) : State := l.foldl (fun s p => s.gset p.1 p.2) prog

/-- The same in supervisor mode. -/
def inSup (s : State) : State := s.modHart (fun h => { h with sup := true })

/-- The same with bytes in memory. -/
def withBytes (s : State) (loc : Nat) (bs : List Byte) : State := { s with mem := Memory.writes s.mem loc bs }

/-- The same with VL, EW and FMT. -/
def strip (s : State) (vl ew fmt : Nat) : State :=
  s.modHart (fun h => { h with vcfg := BitVec.ofNat 64 (vl + ew * 2 ^ 13 + fmt * 2 ^ 16) })

/-- The same with a vector register of 64-bit parts. -/
def withV (s : State) (r : Nat) (x : VReg) : State := s.modHart (fun h => h.vset r x)

/-- What `Alone` asks, in a form that evaluates. -/
abbrev AloneChecks (s : State) (i : Instr) (named : List (BitVec 6)) : Prop :=
  (s.cur < Config.harts ∧ s.hart.sup = false ∧ s.eager = true ∧ s.hart.regError = false)
  ∧ (s.hart.queue = [] ∧ s.hart.waiting = [] ∧ s.hart.stopped = none ∧ s.hart.dbg.armed = false)
  ∧ (s.enqueue i).convoyPick = some s.cur
  ∧ (s.hart.miract = true → s.hart.mirrorError = [])
  ∧ (∀ r ∈ named, r.toNat < 48)
  ∧ (∀ b ∈ s.hart.binds, ∀ r ∈ named, r.toNat ∉ b.regs)
  ∧ (∀ w ∈ s.hart.watch.toList, w.en = true → w.addr ≠ s.hart.pc)
  ∧ vlNow s * bitsNow s ≤ roomNow s

/-- `Alone`, as a check. -/
def aloneB (s : State) (i : Instr) (named : List (BitVec 6)) : Bool := decide (AloneChecks s i named)

theorem alone_of {s : State} {i : Instr} {named : List (BitVec 6)} (h : aloneB s i named = true) : Alone s i named :=
  let ⟨mode, queue, next, matched, registers, unbound, unwatched, fits⟩ := of_decide_eq_true h
  { hart := mode.1, program := mode.2.1, eager := mode.2.2.1, sound := mode.2.2.2
    idle := queue.1, clear := queue.2.1, fresh := queue.2.2.1, stepping := queue.2.2.2
    registers, unbound, matched, next, fits
    unwatched := fun _ w hw => unwatched w (Vector.mem_toList_iff.mpr (Vector.mem_of_getElem? hw)) }

/-- A register of two scalars. -/
theorem quiet_of {s : State} (h : (decide (s.cur < 512) && (s.hart.sup || s.hart.queue.isEmpty)) = true) : Quiet s := by
  simp only [Bool.and_eq_true, decide_eq_true_eq, Bool.or_eq_true, List.isEmpty_iff] at h
  exact ⟨h.1, h.2⟩

theorem ready_of {s : State} (h : (decide (s.cur < 512) && (s.hart.sup || !writesG s.hart.queue)) = true) : Ready s := by
  simp only [Bool.and_eq_true, decide_eq_true_eq, Bool.or_eq_true, Bool.not_eq_true'] at h
  exact ⟨h.1, h.2⟩

theorem reaches_of {s : State} {acc : Acc} {va : Word} {n loc : Nat} {dev : Bool}
    (h : (decide (va.toNat % n = 0) && decide (s.xlate .scalar acc va = .at loc dev)) = true) : Reaches s acc va n loc := by
  simp only [Bool.and_eq_true, decide_eq_true_eq] at h
  exact ⟨h.1, dev, h.2⟩

theorem finds_of {s : State} {acc : Acc} {va : Word} {n loc : Nat} {dev : Bool}
    (h : (decide (va.toNat % n = 0) && decide (s.xlate .vector acc va = .at loc dev)) = true) : Finds s acc va n loc := by
  simp only [Bool.and_eq_true, decide_eq_true_eq] at h
  exact ⟨h.1, dev, h.2⟩

/-- Where the tables of `prog` stand undamaged, the first GiB is mapped onto itself. -/
theorem translate_identity {s : State} (h2 : s.poison = []) (h3 : s.transit = []) (h4 : leNat (s.readMem 0x1000 8) = 0x2001)
    (h5 : leNat (s.readMem 0x2000 8) = 0x3F) (core : Nat) (sup : Bool) (who : Who) (acc : Acc) (va : Nat) (hv : va < 2 ^ 30) :
    s.translate core 0x1000 sup who acc (BitVec.ofNat 64 va) = .at va false := by
  have hd : ∀ a, s.damagedAt a = false := fun a => by simp [State.damagedAt, State.poisonedAt, State.transitAt, h2, h3]
  have ha : (BitVec.ofNat 64 va).toNat = va := by simp; omega
  have hs39 : va >>> 39 = 0 := by rw [Nat.shiftRight_eq_div_pow]; omega
  have hs30 : va >>> 30 = 0 := by rw [Nat.shiftRight_eq_div_pow]; omega
  have e0 : entryInvalid (BitVec.ofNat 64 0x2001) 0 39 = false := by decide +kernel
  have e1 : entryInvalid (BitVec.ofNat 64 0x3F) 1 30 = false := by decide +kernel
  have b0 : bit (BitVec.ofNat 64 0x2001) 1 = false := by decide +kernel
  have b1 : bit (BitVec.ofNat 64 0x3F) 1 = true := by decide +kernel
  have f0 : (fld (BitVec.ofNat 64 0x2001) 12 40 <<< 12) = 0x2000 := by decide +kernel
  have w : s.walk 0x1000 va levels = .leaf { entry := BitVec.ofNat 64 0x3F, shift := 30 } := by
    simp [State.walk, levels, hd, hs39, hs30, h4, h5, e0, e1, b0, b1, f0]
  have hu : inUsableDev va = true := by
    have : 2 ^ 30 ≤ Config.fwBase := by decide
    simp only [inUsableDev, decide_eq_true_eq]; omega
  have p : leafPermits (BitVec.ofNat 64 0x3F) sup who acc = true := by
    have b5 : bit (BitVec.ofNat 64 0x3F) 5 = true := by decide +kernel
    have b2 : bit (BitVec.ofNat 64 0x3F) 2 = true := by decide +kernel
    have b3 : bit (BitVec.ofNat 64 0x3F) 3 = true := by decide +kernel
    have b4 : bit (BitVec.ofNat 64 0x3F) 4 = true := by decide +kernel
    unfold leafPermits
    rw [b5]
    cases acc <;> simp [b2, b3, b4]
  have f1 : (fld (BitVec.ofNat 64 0x3F) 12 40 <<< 12) = 0 := by decide +kernel
  have b6 : bit (BitVec.ofNat 64 0x3F) 6 = false := by decide +kernel
  unfold State.translate
  simp only [ha, w]
  rw [if_neg (by omega), if_pos (by omega)]
  have hm : va % 1073741824 = va := Nat.mod_eq_of_lt (by omega)
  simp [p, f1, b6, hm, hu]

/-- Beyond it no page is mapped. -/
theorem translate_beyond {s : State} (h2 : s.poison = []) (h3 : s.transit = []) (h4 : leNat (s.readMem 0x1000 8) = 0x2001)
    (h5 : leNat (s.readMem 0x2008 8) = 0) (core : Nat) (sup : Bool) (who : Who) (acc : Acc) :
    s.translate core 0x1000 sup who acc 0x40000000 = .fault (pageCause acc) := by
  have hd : ∀ a, s.damagedAt a = false := fun a => by simp [State.damagedAt, State.poisonedAt, State.transitAt, h2, h3]
  have e0 : entryInvalid (BitVec.ofNat 64 0x2001) 0 39 = false := by decide +kernel
  have e1 : entryInvalid (BitVec.ofNat 64 0) 1 30 = true := by decide +kernel
  have b0 : bit (BitVec.ofNat 64 0x2001) 1 = false := by decide +kernel
  have f0 : (fld (BitVec.ofNat 64 0x2001) 12 40 <<< 12) = 0x2000 := by decide +kernel
  have w : s.walk 0x1000 0x40000000 levels = .invalid := by
    simp [State.walk, levels, hd, h4, h5, e0, e1, b0, f0]
  unfold State.translate
  rw [show (0x40000000 : Word).toNat = 0x40000000 from rfl]
  simp only [w]
  rw [if_neg (by omega), if_pos (by omega)]

/-- The executing hart runs under the tables of `prog`, undamaged: a check. -/
def identityB (s : State) : Bool :=
  decide (s.rootOf s.hart = 0x1000) && s.poison.isEmpty && s.transit.isEmpty
  && decide (leNat (s.readMem 0x1000 8) = 0x2001) && decide (leNat (s.readMem 0x2000 8) = 0x3F)

theorem xlate_identity {s : State} (h : identityB s = true) (who : Who) (acc : Acc) (va : Nat) (hv : va < 2 ^ 30) :
    s.xlate who acc (BitVec.ofNat 64 va) = .at va false := by
  simp only [identityB, Bool.and_eq_true, decide_eq_true_eq, List.isEmpty_iff] at h
  show s.translate (coreOf s.cur) (s.rootOf s.hart) s.hart.sup who acc _ = _
  rw [h.1.1.1.1]
  exact translate_identity h.1.1.1.2 h.1.1.2 h.1.2 h.2 _ _ who acc va hv

/-! ### States that meet the hypotheses of the statements -/

/-- The state after a word that answers one. -/
def after (i : Instr) (s : State) : State :=
  match exec i s with
  | .next t => t
  | _ => s

theorem witness_ScalarIntegersGiveTheirResults : Ready prog ∧ Ready (inSup prog) :=
  ⟨ready_of (by decide +kernel), ready_of (by decide +kernel)⟩

/-- FP32: 1, NaN, 0, −0; and FP64: 1, −0. -/
def floats : State := withRegs [(1, 0x3F800000), (2, 0x7FC00000), (3, 0), (4, 0x80000000), (5, 0x3FF0000000000000),
  (6, 0x8000000000000000)]

theorem witness_ScalarFloatsRoundTheExactResult :
    Ready floats ∧ (0 : BitVec 2).toNat < 2 ∧ (1 : BitVec 2).toNat < 2
    ∧ (value floats 0 1 = .nan ∨ value floats 0 2 = .nan)
    ∧ (value floats 0 1 = .fin false (2 ^ 23) (-23) ∧ value floats 0 3 = .fin false 0 (-149))
    ∧ (value floats 1 5 = .fin false (2 ^ 52) (-52) ∧ value floats 1 6 = .fin true 0 (-1074))
    ∧ operand floats 0 4 = 2 ^ (fp32.bits - 1) ∧ operand floats 1 6 = 2 ^ (fp64.bits - 1) :=
  ⟨ready_of (by decide +kernel), by decide, by decide, by decide +kernel, by decide +kernel, by decide +kernel,
    by decide +kernel, by decide +kernel⟩

/-- FP64: −∞, −2^63, 2^63, 2^64, −1, 0.5, NaN. -/
def wides : State := withRegs [(1, 0xFFF0000000000000), (2, 0xC3E0000000000000), (3, 0x43E0000000000000),
  (4, 0x43F0000000000000), (5, 0xBFF0000000000000), (6, 0x3FE0000000000000), (7, 0x7FF8000000000000)]

theorem witness_ScalarComparesAndConversions :
    Ready wides ∧ (value wides 1 7 = .nan ∧ value wides 1 1 = .inf true
    ∧ value wides 1 2 = .fin true (2 ^ 52) 11 ∧ (toIntVal (mode wides) true (2 ^ 52) 11).1 = -2 ^ 63
    ∧ value wides 1 3 = .fin false (2 ^ 52) 11 ∧ (toIntVal (mode wides) false (2 ^ 52) 11).1 = 2 ^ 63
    ∧ value wides 1 4 = .fin false (2 ^ 52) 12 ∧ (toIntVal (mode wides) false (2 ^ 52) 12).1 = 2 ^ 64
    ∧ value wides 1 5 = .fin true (2 ^ 52) (-52) ∧ (toIntVal (mode wides) true (2 ^ 52) (-52)).1 = -1
    ∧ value wides 1 6 = .fin false (2 ^ 52) (-53) ∧ toIntVal (mode wides) false (2 ^ 52) (-53) = (0, true)) :=
  ⟨ready_of (by decide +kernel), by decide +kernel⟩

theorem witness_RoundingKeepsEveryFiniteCode :
    finiteCode fp32 0 ∧ finiteCode fp32 0xFF7FFFFF ∧ finiteCode fp64 1 ∧ finiteCode bf16 0x7F7F ∧ finiteCode fp16 0xFBFF
    ∧ finiteCode e5m2 0x7B := by
  simp only [finiteCode]
  decide

/-- Registers 1 and 2 for a branch and a jump, VL = 1 with bit 0 of p3 set. -/
def branching : State :=
  (strip (withRegs [(1, 0x20000), (2, 0x20004)]) 1 3 0).modHart (fun h => h.pset 3 1)

theorem witness_BranchesAndJumpsGoWhereTheyShould :
    Ready branching ∧ Quiet branching ∧ Quiet (inSup branching)
    ∧ anyTrue branching 3 (branching.hart.vcfg.toNat % 8192) ∧ ¬anyTrue branching 4 (branching.hart.vcfg.toNat % 8192)
    ∧ branching.hart.gget 1 &&& 63 = 0 ∧ branching.hart.gget 2 &&& 63 ≠ 0 ∧ branching.hart.trapvec ≠ 0 := by
  refine ⟨ready_of (by decide +kernel), quiet_of (by decide +kernel), quiet_of (by decide +kernel), ?_, ?_,
    by decide +kernel, by decide +kernel, by decide +kernel⟩
  · unfold anyTrue; decide +kernel
  · unfold anyTrue; decide +kernel

/-- A queued PCNT, and a queued VLD that will stop (the address is odd at a width of 32 bits). -/
def queued (i : Instr) : State := (strip (withRegs [(5, 0x30001)]) 4 3 0).enqueue i

theorem witness_ScalarWordsWaitForTheQueue :
    ((queued (.pcnt 6 2)).hart.sup = false ∧ (queued (.pcnt 6 2)).hart.queue ≠ []
      ∧ (queued (.pcnt 6 2)).hart.queue.any QEntry.writesG = true ∧ waitsForWriters (.add 1 2 3) = true)
    ∧ (let r := (queued (.pcnt 6 2)).runQueue QEntry.writesG
       r.2 = .retired ∧ r.1.hart.stepDone = false ∧ r.1.hart.queue.any QEntry.writesG = false)
    ∧ (let s := (queued (.pcnt 6 2)).modHart (fun h => { h with dbg := { h.dbg with armed := true } })
       let r := s.runQueue QEntry.writesG
       s.hart.sup = false ∧ s.hart.queue.any QEntry.writesG = true ∧ r.2 = .retired ∧ r.1.hart.stepDone = true)
    ∧ (let s := queued (.vld 1 5)
       s.hart.sup = false ∧ s.hart.queue.any (fun _ => true) = true ∧ (s.runQueue (fun _ => true)).2 ≠ .retired
       ∧ waitsForAll (.trap 1) = true) := by
  decide +kernel

/-- The last bytes of the mapped GiB in g5, an address beyond it in g6, and a place where granule 0x30000 is damaged. -/
def memory : State :=
  { withRegs [(5, 0x3FFFFFFF), (6, 0x40000000), (7, 0x30000), (8, 0x3FFFFFF8)] with poison := [0x30000] }

theorem witness_LoadsReturnTheBytesAtTheirAddress :
    Quiet memory ∧ Reaches memory .load (addressOf memory 5 0) 1 0x3FFFFFFF
    ∧ Reaches memory .load (addressOf memory 8 6) 2 0x3FFFFFFE ∧ Reaches memory .load (addressOf memory 8 4) 4 0x3FFFFFFC
    ∧ Reaches memory .load (addressOf memory 8 0) 8 0x3FFFFFF8
    ∧ (∀ k < 8, memory.readsDamaged memory.hart none (0x3FFFFFF8 + k) = false)
    ∧ memory.hart.sup = false ∧ Reaches memory .load (addressOf memory 7 0) 8 0x30000
    ∧ (∃ k < 8, memory.readsDamaged memory.hart none (0x30000 + k) = true)
    ∧ (Quiet (inSup memory) ∧ (inSup memory).hart.sup = true
      ∧ Reaches (inSup memory) .load (addressOf (inSup memory) 7 0) 8 0x30000
      ∧ ∃ k < 8, (inSup memory).readsDamaged (inSup memory).hart none (0x30000 + k) = true) :=
  ⟨quiet_of (by decide +kernel), reaches_of (dev := false) (by decide +kernel), reaches_of (dev := false) (by decide +kernel),
    reaches_of (dev := false) (by decide +kernel), reaches_of (dev := false) (by decide +kernel), by decide +kernel,
    by decide +kernel, reaches_of (dev := false) (by decide +kernel), by decide +kernel,
    quiet_of (by decide +kernel), by decide +kernel, reaches_of (dev := false) (by decide +kernel), by decide +kernel⟩

/-- The number of the first held entry is below that of the next instruction. -/
def entry (va loc n : Nat) (bs : List Byte) : Held :=
  { seq := 0, elem := 0, vector := false, kind := .store, size := 4, high := false, scope := 0, ew := 0, fmt := 0, va := va
    locs := [(loc, n)], bytes := bs, addends := [] }

/-- One store is held; HEBLIM leaves room for one more. -/
def holding1 : State := memory.modHart (fun h =>
  { h with held := [entry 0x30100 0x30100 8 (leBytes 8 7)], nextSeq := 1, heblim := 2 })

/-- The buffer is full, with an entry that can be performed, and with one whose page is gone. -/
def full1 : State := holding1.modHart (fun h => { h with heblim := 1 })
def lost1 : State := full1.modHart (fun h => { h with held := [entry 0x40000000 0x40000000 8 (leBytes 8 7)] })

/-- A store of 8 bytes at 0x30100 in a handler, which a held entry covers. -/
def covering (s : State) : State := inSup (s.gset 9 0x30100)

/-- `Storable`, as a check. -/
def storableB (s : State) (va : Word) (n loc : Nat) : Bool :=
  decide (va.toNat % n = 0) && decide (s.xlate .scalar .store va = .at loc false) && Memory.wf s.mem && s.bars.isEmpty

theorem storable_of {s : State} {va : Word} {n loc : Nat} (h : storableB s va n loc = true) : Storable s va n loc := by
  simp only [storableB, Bool.and_eq_true, decide_eq_true_eq, List.isEmpty_iff] at h
  exact { found := ⟨h.1.1.1, false, h.1.1.2⟩, form := h.1.2, bars := by simp [NoBarrierAt, h.2] }

theorem released_of {p : State × Bool} {b : Bool} {P : State → Prop} (h : p.2 = b) (hu : P p.1) : ∃ u, p = (u, b) ∧ P u :=
  ⟨p.1, Prod.ext rfl h, hu⟩

theorem ends_of {α β : Type} {p : α × β} {b : β} (h : p.2 = b) : ∃ u, p = (u, b) := ⟨p.1, Prod.ext rfl h⟩

theorem witness_ScalarStoresAreHeldOrPerformed :
    (Quiet holding1 ∧ holding1.hart.sup = false ∧ holding1.hart.waiting = []
      ∧ holding1.hart.held.length < capacity holding1 ∧ (∀ e ∈ holding1.hart.held, e.seq < holding1.hart.nextSeq)
      ∧ Storable holding1 (addressOf holding1 5 0) 1 0x3FFFFFFF ∧ Storable holding1 (addressOf holding1 8 0) 8 0x3FFFFFF8)
    ∧ (∀ p ∈ [(full1, true), (lost1, false)], Quiet p.1 ∧ p.1.hart.sup = false ∧ p.1.hart.waiting = []
      ∧ capacity p.1 ≤ p.1.hart.held.length ∧ (∀ e ∈ p.1.hart.held, e.seq < p.1.hart.nextSeq)
      ∧ Storable p.1 (addressOf p.1 8 0) 8 0x3FFFFFF8
      ∧ ∃ u, (numbered p.1).makeRoom false p.1.hart.held.length p.1.cur (capacity p.1) = (u, p.2))
    ∧ (Quiet (inSup holding1) ∧ (inSup holding1).hart.sup = true ∧ NotHeldAt (inSup holding1) 0x3FFFFFF8 8
      ∧ Storable (inSup memory) (addressOf (inSup memory) 5 0) 1 0x3FFFFFFF
      ∧ Storable (inSup memory) (addressOf (inSup memory) 8 6) 2 0x3FFFFFFE
      ∧ Storable (inSup memory) (addressOf (inSup memory) 8 4) 4 0x3FFFFFFC)
    ∧ (∀ p ∈ [(covering holding1, true), (covering (lost1.modHart (fun h =>
          { h with held := h.held ++ holding1.hart.held })), false)], Quiet p.1 ∧ p.1.hart.sup = true
      ∧ Storable p.1 (addressOf p.1 9 0) 8 0x30100 ∧ ∃ u, p.1.performCovering p.1.cur 0x30100 8 = (u, p.2)) := by
  refine ⟨⟨quiet_of (by decide +kernel), by decide +kernel, by decide +kernel, by unfold capacity; decide +kernel,
      by decide +kernel, storable_of (by decide +kernel), storable_of (by decide +kernel)⟩, ?_,
    ⟨quiet_of (by decide +kernel), by decide +kernel, by unfold NotHeldAt; decide +kernel, storable_of (by decide +kernel),
      storable_of (by decide +kernel), storable_of (by decide +kernel)⟩, ?_⟩
  · intro p hp
    simp only [List.mem_cons, List.not_mem_nil, or_false] at hp
    rcases hp with rfl | rfl <;>
      exact ⟨quiet_of (by decide +kernel), by decide +kernel, by decide +kernel, by unfold capacity; decide +kernel,
        by decide +kernel, storable_of (by decide +kernel), ends_of (by unfold capacity; decide +kernel)⟩
  · intro p hp
    simp only [List.mem_cons, List.not_mem_nil, or_false] at hp
    rcases hp with rfl | rfl <;>
      exact ⟨quiet_of (by decide +kernel), by decide +kernel, storable_of (by decide +kernel), ends_of (by decide +kernel)⟩

/-- An atomic at 0x30100, and one at the damaged granule 0x30000. -/
def exchanging (a : Word) (s : State) : State := s.gset 9 a

theorem witness_AtomicsReadModifyAndWrite :
    (Quiet memory ∧ Storable memory (memory.hart.gget 8) 8 0x3FFFFFF8 ∧ Storable memory (memory.hart.gget 8) 4 0x3FFFFFF8
      ∧ memory.hart.held = [] ∧ memory.hart.waiting = []
      ∧ ∃ u, memory.atomicRelease 0x3FFFFFF8 8 = (u, true) ∧ ∀ k < 8, u.damagedAt (0x3FFFFFF8 + k) = false)
    ∧ (let s := exchanging 0x30000 holding1
       Quiet s ∧ Storable s (s.hart.gget 9) 8 0x30000 ∧ s.hart.held ≠ [] ∧ s.hart.sup = false
       ∧ ∃ u, s.atomicRelease 0x30000 8 = (u, true) ∧ ∃ k < 8, u.damagedAt (0x30000 + k) = true)
    ∧ (let s := inSup (exchanging 0x30000 holding1)
       Quiet s ∧ Storable s (s.hart.gget 9) 8 0x30000 ∧ NotHeldAt s 0x30000 8 ∧ s.hart.sup = true
       ∧ ∃ u, s.atomicRelease 0x30000 8 = (u, true) ∧ ∃ k < 8, u.damagedAt (0x30000 + k) = true)
    ∧ (let s := exchanging 0x30100 lost1
       Quiet s ∧ Storable s (s.hart.gget 9) 8 0x30100 ∧ ∃ u, s.atomicRelease 0x30100 8 = (u, false)) :=
  ⟨⟨quiet_of (by decide +kernel), storable_of (by decide +kernel), storable_of (by decide +kernel), by decide +kernel,
      by decide +kernel, released_of (by decide +kernel) (by decide +kernel)⟩,
    ⟨quiet_of (by decide +kernel), storable_of (by decide +kernel), by decide +kernel, by decide +kernel,
      released_of (by decide +kernel) (by decide +kernel)⟩,
    ⟨quiet_of (by decide +kernel), storable_of (by decide +kernel), by unfold NotHeldAt; decide +kernel, by decide +kernel,
      released_of (by decide +kernel) (by decide +kernel)⟩,
    ⟨quiet_of (by decide +kernel), storable_of (by decide +kernel), ends_of (by decide +kernel)⟩⟩

theorem witness_MemoryChecksTrapInOrder :
    Quiet memory ∧ memory.hart.trapvec ≠ 0
    ∧ accessOf memory (.ldh 1 5 0) = some (.load, 0x3FFFFFFF, 2) ∧ (0x3FFFFFFF : Word).toNat % 2 ≠ 0
    ∧ accessOf memory (.aadd 1 5 2 1) = some (.store, 0x3FFFFFFF, 8)
    ∧ accessOf memory (.std 1 6 0) = some (.store, 0x40000000, 8) ∧ memory.xlate .scalar .store 0x40000000 = .fault 7 :=
  ⟨quiet_of (by decide +kernel), by decide +kernel, by decide +kernel, by decide, by decide +kernel, by decide +kernel,
    by decide +kernel⟩

/-- The walk under the tables of `prog`: at level 0 an entry that leads on, and one that is unusable; at level 1 a page
that permits, one beyond memory, and an entry that is damaged. -/
def walked : State :=
  { withBytes prog 0x2008 (leBytes 8 (0x3F + 0x40000000 * 0x240)) with poison := [0x2020] }

theorem witness_TheWindowsOfTheAddressMap :
    2 ^ 48 ≤ (0x1000000000000 : Word).toNat ∧ (0x1FFFFF < 0x200000 ∧ (0xC000001FFFFF : Word).toNat = 0xC00000000000 + 0x1FFFFF)
    ∧ (127 < 128 ∧ (0xC1000FFFFFFF : Word).toNat = 0xC10000000000 + 127 * 0x200000 + 0x1FFFFF)
    ∧ (0xFFFF < 0x10000 ∧ (0xC2000000FFFF : Word).toNat = 0xC20000000000 + 0xFFFF)
    ∧ (0xC30000000000 ≤ (0xC30000000FFF : Word).toNat ∧ (0xC30000000FFF : Word).toNat < 0xC30000001000)
    ∧ 0xC30000001000 ≤ (0xC30000001000 : Word).toNat := by decide

/-- The first and the last address of each range around the windows. -/
theorem witness_UnmappedRanges :
    (∀ a ∈ [0x800000000000, 0xBFFFFFFFFFFF], 2 ^ 47 ≤ a ∧ a < 0xC00000000000)
    ∧ (∀ a ∈ [0xC00000200000, 0xC0FFFFFFFFFF], 0xC00000200000 ≤ a ∧ a < 0xC10000000000)
    ∧ (∀ a ∈ [0xC10010000000, 0xC1FFFFFFFFFF], 0xC10010000000 ≤ a ∧ a < 0xC20000000000)
    ∧ (∀ a ∈ [0xC20000010000, 0xC2FFFFFFFFFF], 0xC20000010000 ≤ a ∧ a < 0xC30000000000)
    ∧ (∀ a ∈ [0xC30000001000, 0xFFFFFFFFFFFF], 0xC30000001000 ≤ a) := by decide

theorem witness_TheWalkOfThePagedHalf :
    Arrives walked 0x1000 0 0 0x1000 ∧ Arrives walked 0x1000 0 1 0x2000
    ∧ (∀ level < 2, ¬damagedEntry walked (if level = 0 then 0x1000 else 0x2000) (indexAt 0 level))
    ∧ ¬Unusable (entryOfTable walked 0x2000 0) 1 ∧ mapsPage (entryOfTable walked 0x2000 0)
    ∧ (Permits (entryOfTable walked 0x2000 0) false .scalar .load ∧ frameOf (entryOfTable walked 0x2000 0) < Config.fwBase)
    ∧ (indexAt 0x40000000 1 = 1 ∧ ¬damagedEntry walked 0x2000 1 ∧ ¬Unusable (entryOfTable walked 0x2000 1) 1
      ∧ mapsPage (entryOfTable walked 0x2000 1)
      ∧ ¬(frameOf (entryOfTable walked 0x2000 1) < Config.fwBase ∨ Config.hostBase ≤ frameOf (entryOfTable walked 0x2000 1)))
    ∧ (indexAt 0x80000000 1 = 2 ∧ ¬damagedEntry walked 0x2000 2 ∧ Unusable (entryOfTable walked 0x2000 2) 1)
    ∧ (indexAt 0x100000000 1 = 4 ∧ damagedEntry walked 0x2000 4) := by
  have root : Arrives walked 0x1000 0 0 0x1000 := rfl
  have checks : ¬damagedEntry walked 0x1000 0 ∧ ¬Unusable (entryOfTable walked 0x1000 0) 0
      ∧ ¬mapsPage (entryOfTable walked 0x1000 0) ∧ 0x2000 = frameOf (entryOfTable walked 0x1000 0) := by
    unfold damagedEntry Unusable mapsPage; decide +kernel
  refine ⟨root, ⟨0x1000, root, checks⟩, ?_, ?_, ?_, ?_, ?_, ?_, ?_⟩
  · unfold damagedEntry; decide +kernel
  · unfold Unusable mapsPage; decide +kernel
  · unfold mapsPage; decide +kernel
  · unfold Permits; decide +kernel
  · unfold damagedEntry Unusable mapsPage; decide +kernel
  · unfold damagedEntry Unusable mapsPage; decide +kernel
  · unfold damagedEntry; decide +kernel

/-- The one launch, its gang and the place of hart 0. -/
def launch0 : Launch := soloLaunch 0x10000 0x1000
def gang0 : Gang :=
  { index := 0, hearth := 0, ranks := [.on 0], state := .running, phase := 0, arrived := 0, ggrant := 0, ring := []
    swapped := false, passedSince := none }
def place0 : Place := { serial := 1, gang := 0, rank := 0 }

theorem witness_ControlReadsGiveTheRegistersOfTheMap :
    Quiet prog ∧ prog.gangOf prog.hart = some gang0 ∧ gang0.ranks.length ≤ 16
    ∧ prog.hart.place = some place0 ∧ place0.rank < 16 ∧ place0.gang < 2 ^ 24 ∧ (inSup prog).hart.sup = true :=
  ⟨quiet_of (by decide +kernel), by decide +kernel, by decide, by decide +kernel, by decide, by decide, by decide +kernel⟩

theorem witness_ControlWritesChangeOnlyWritableFields :
    (Quiet prog ∧ writableFields prog.hart.sup 0x001 ≠ [] ∧ writableFields prog.hart.sup 0x00D ≠ [])
    ∧ (Quiet (inSup prog) ∧ writableFields (inSup prog).hart.sup 0x004 ≠ [] ∧ writableFields (inSup prog).hart.sup 0x047 ≠ [])
    ∧ (prog.hart.place = some place0 ∧ prog.gangOf prog.hart = some gang0 ∧ (inSup prog).gangOf (inSup prog).hart = some gang0
      ∧ (inSup prog).hart.wait = none)
    ∧ prog.hart.sckm &&& ~~~0x7FFEFFFFFFFE = 0 ∧ (inSup prog).hart.sup = true ∧ (inSup prog).hart.trapvec ≠ 0
    ∧ allowedConfig 0x408000 ∧ ¬allowedConfig 0x600000 ∧ ¬allowedConfig 0xA000 :=
  ⟨⟨quiet_of (by decide +kernel), by decide +kernel, by decide +kernel⟩,
    ⟨quiet_of (by decide +kernel), by decide +kernel, by decide +kernel⟩, by decide +kernel, by decide +kernel,
    by decide +kernel, by decide +kernel, by unfold allowedConfig; decide, by unfold allowedConfig; decide, by unfold allowedConfig; decide⟩

theorem witness_ControlAccessesTrapAsTheirCodesSay :
    Quiet prog ∧ prog.hart.trapvec ≠ 0 ∧ prog.hart.sup = false ∧ 0x017 ∉ mapped ∧ 0xFFF ∉ mapped ∧ 0x047 ∈ codedS
    ∧ (0x000 ∈ mapped ∧ 0x000 ∉ programWrites ∧ 0x000 ∉ codedS ∧ 0x000 ∈ supervisorWrites)
    ∧ (0x01A ∈ mapped ∧ 0x01A ∉ programWrites ∧ 0x01A ∉ codedS ∧ 0x01A ∉ supervisorWrites)
    ∧ Quiet (inSup prog) ∧ (inSup prog).hart.sup = true :=
  ⟨quiet_of (by decide +kernel), by decide +kernel, by decide +kernel, by decide, by decide, by decide, by decide, by decide,
    quiet_of (by decide +kernel), by decide +kernel⟩

/-- As `prog`, but a debugger owns the hart; and with no handler. -/
def owned : State := prog.modHart (fun h => { h with dbg := { h.dbg with own := true } })

theorem witness_TrapAndBreakpointEnterTheirHandlers :
    (Quiet prog ∧ prog.hart.trapvec ≠ 0 ∧ prog.hart.dbg.own = false) ∧ (Quiet owned ∧ owned.hart.dbg.own = true)
    ∧ (Quiet State.reset.solo ∧ State.reset.solo.hart.trapvec = 0 ∧ State.reset.solo.hart.place = some place0
      ∧ State.reset.solo.launchOf 1 = some launch0 ∧ launch0.kill = none) :=
  ⟨⟨quiet_of (by decide +kernel), by decide +kernel, by decide +kernel⟩, ⟨quiet_of (by decide +kernel), by decide +kernel⟩,
    quiet_of (by decide +kernel), by decide +kernel, by decide +kernel, by decide +kernel, by decide +kernel⟩

/-- In a handler, with TRAPSPC, PSUP, and a convoy stopped at element 2 of VL 4 whose VRESUME was moved on to 3. -/
def handler (spc : Word) (psup : Bool) : State :=
  (queued (.vadd 1 2 3 0 0 0)).modHart (fun h =>
    { h with sup := true, trapspc := spc, psup := psup, vresume := 3, stopped := some { member := 0, front := 2 } })

theorem witness_EretReturnsToTheSavedModeAndWord :
    ((handler 0x10002 false).hart.sup = true ∧ (handler 0x10002 false).hart.trapspc.toNat % 4 ≠ 0
      ∧ (handler 0x10002 false).hart.trapvec ≠ 0)
    ∧ ((handler 0x10004 true).hart.trapspc.toNat % 4 = 0 ∧ (handler 0x10004 true).hart.psup = true)
    ∧ (let s := { handler 0x10004 false with eager := false }
       s.cur < Config.harts ∧ s.hart.psup = false ∧ s.hart.stopping = none ∧ s.eager = false
       ∧ s.hart.stopped = some { member := 0, front := 2 } ∧ s.hart.queue ≠ [])
    ∧ (Quiet prog ∧ prog.hart.sup = false ∧ prog.hart.trapvec ≠ 0) :=
  ⟨by decide +kernel, by decide +kernel, by decide +kernel, quiet_of (by decide +kernel), by decide +kernel,
    by decide +kernel⟩

/-- The same where the convoy keeps v1 apart. -/
theorem witness_Replays_apart :
    let s := { (handler 0x10004 false).modHart (fun h => { h with stopped := some { member := 0, front := 2, base := [(1, 0)] } })
      with eager := false }
    s.cur < Config.harts ∧ s.hart.sup = true ∧ s.hart.trapspc.toNat % 4 = 0 ∧ s.hart.psup = false ∧ s.hart.stopping = none
    ∧ s.eager = false ∧ s.hart.stopped = some { member := 0, front := 2, base := [(1, 0)] } ∧ s.hart.queue ≠ [] := by
  decide +kernel

/-- A stream of 100 32-bit elements bound to v4 by the record at 0x30000. -/
def bind0 : Binding :=
  { record := 0x30000, reg := 4, base := 0x40000, stride := 0, pstr := 0, scales := 0, replica := 0, total := 100, ew := 3
    ladder := 0, planes := 1, packed := false, sreg := 0, tl := 0xFFFF, ticket := 0, data := [], block := 0, pairs := []
    used := 0, status := 1, cause := 0 }

/-- As `bind0`, after n elements were produced and two were read. -/
def bind1 (n status : Nat) : Binding :=
  { bind0 with data := List.replicate n { p0 := 7, p1 := 0, p2 := 0, bad := false }, used := 2, status := status }

/-- A poisoned strip with a binding, with and without a checkpoint that g1 and g31, v5 and v6 and USED 1 fill. -/
def poisoned (k : Option Checkpoint) : State :=
  prog.modHart (fun h =>
    { h with poisoned := true, paddr := 0x8000000000030000, stripK := k.isSome, ckpt := k, binds := [bind1 6 1] })
def ckpt0 : Checkpoint :=
  { resume := 0x10004, sckm := 0x468A80000002, used := [1], gs := [5, 6], va := 7, vb := 8, tiles := [] }

theorem witness_FencesPerformWhatIsHeld :
    (Quiet prog ∧ prog.hart.held = [] ∧ prog.hart.waiting = [] ∧ prog.hart.poisoned = false)
    ∧ (Quiet holding1 ∧ holding1.hart.sup = false ∧ holding1.hart.held ++ holding1.hart.waiting ≠ [] ∧ holding1.bars = []
      ∧ Performs (holding1.setHart { holding1.hart with held := [], waiting := [], drained := true })
          [entry 0x30100 0x30100 8 (leBytes 8 7)])
    ∧ ((poisoned none).hart.poisoned = true ∧ (poisoned none).hart.trapvec ≠ 0 ∧ (poisoned none).hart.stripK = false) :=
  ⟨⟨quiet_of (by decide +kernel), by decide +kernel, by decide +kernel, by decide +kernel⟩,
    ⟨quiet_of (by decide +kernel), by decide +kernel, by decide +kernel, by decide +kernel,
      by decide, ⟨0x30100, false, by decide +kernel⟩, by decide +kernel, trivial⟩, by decide +kernel⟩

theorem closes_of {s : State} (mode : s.cur < Config.harts ∧ s.hart.sup = false ∧ s.hart.stopping = none)
    (work : s.hart.queue = [] ∧ s.hart.held = [] ∧ s.hart.waiting = [] ∧ s.hart.poisoned = false) : Closes s :=
  { hart := mode.1, program := mode.2.1, stay := mode.2.2
    idle := work.1, held := work.2.1, waiting := work.2.2.1, clean := work.2.2.2 }

theorem witness_SetvlOpensTheNextStrip :
    (Quiet (inSup prog) ∧ (inSup prog).hart.trapvec ≠ 0 ∧ (inSup prog).hart.sup = true)
    ∧ (let s := prog.gset 4 0x8000000000E000
       Quiet s ∧ s.hart.trapvec ≠ 0 ∧ ¬allowedConfig (imageFor s 4))
    ∧ Closes prog ∧ allowedConfig (imageFor prog 0)
    ∧ ((prog.launchOfHart prog.hart).map (·.rewind)).getD false = true
    ∧ (let s := prog.modHart (fun h => { h with place := none })
       Closes s ∧ ((s.launchOfHart s.hart).map (·.rewind)).getD false = false) :=
  ⟨⟨quiet_of (by decide +kernel), by decide +kernel, by decide +kernel⟩,
    ⟨quiet_of (by decide +kernel), by decide +kernel, by unfold allowedConfig; decide +kernel⟩,
    closes_of (by decide +kernel) (by decide +kernel), by unfold allowedConfig; decide +kernel, by decide +kernel,
    closes_of (by decide +kernel) (by decide +kernel), by decide +kernel⟩

/-- The gang's loop of 100, of which `next` are dealt out. -/
def looping (next : Nat) : State := prog.modMyGang (fun g => { g with ggrant := BitVec.ofNat 64 (next + 100 * 2 ^ 32) })

theorem witness_SetvlgDealsOutTheGangsLoop :
    Closes (looping 99) ∧ (looping 99).hart.place = some place0
    ∧ (looping 99).gangOf (looping 99).hart = some { gang0 with ggrant := BitVec.ofNat 64 (99 + 100 * 2 ^ 32) }
    ∧ (looping 100).gangOf (looping 100).hart = some { gang0 with ggrant := BitVec.ofNat 64 (100 + 100 * 2 ^ 32) }
    ∧ allowedConfig (imageFor (looping 99) 0) :=
  ⟨closes_of (by decide +kernel) (by decide +kernel), by decide +kernel, by decide +kernel, by decide +kernel,
    by unfold allowedConfig; decide +kernel⟩

theorem witness_HaltEndsTheHartsPart :
    Quiet prog ∧ prog.hart.poisoned = false ∧ prog.hart.held = [] ∧ prog.hart.waiting = [] ∧ prog.hart.place = some place0
    ∧ prog.hart.binds = [] ∧ prog.hart.slotRes = false ∧ prog.launchOf place0.serial = some launch0 ∧ gang0 ∈ launch0.gangs
    ∧ gang0.index = place0.gang ∧ place0.rank < gang0.ranks.length :=
  ⟨quiet_of (by decide +kernel), by decide +kernel⟩

/-- In a handler with a poisoned strip. -/
theorem witness_HaltOfAPoisonedStrip :
    let s := inSup (poisoned none)
    s.cur < Config.harts ∧ s.hart.sup = true ∧ s.hart.poisoned = true ∧ s.hart.place = some place0
    ∧ s.launchOf place0.serial = some launch0 ∧ launch0.kill = none := by decide +kernel

theorem witness_ClosingAStripPerformsOrRewinds :
    (holding1.cur < Config.harts ∧ holding1.hart.sup = false ∧ holding1.hart.queue = [] ∧ holding1.bars = []
      ∧ holding1.hart.stopping = none ∧ allowedConfig (imageFor holding1 0) ∧ holding1.hart.poisoned = false
      ∧ Performs (holding1.setHart { holding1.hart with held := [], waiting := [] })
          [entry 0x30100 0x30100 8 (leBytes 8 7)])
    ∧ ((poisoned none).hart.poisoned = true ∧ (poisoned none).hart.trapvec ≠ 0 ∧ (poisoned none).hart.stripK = false)
    ∧ ((poisoned (some ckpt0)).hart.poisoned = true ∧ (poisoned (some ckpt0)).hart.stripK = true
      ∧ (poisoned (some ckpt0)).hart.drained = false ∧ (poisoned (some ckpt0)).hart.ckpt = some ckpt0
      ∧ ckpt0.gs.length = (checkpointed ckpt0).length
      ∧ (ckpt0.sckm.getLsbD 46 = true ∧ ckpt0.sckm.toNat / 2 ^ 40 % 64 = 6)
      ∧ (ckpt0.sckm.getLsbD 39 = true ∧ ckpt0.sckm.toNat / 2 ^ 33 % 64 = 5)
      ∧ ((poisoned (some ckpt0)).hart.binds[0]?).map (·.used) = some 2 ∧ ckpt0.used[0]? = some 1) :=
  ⟨⟨by decide +kernel, by decide +kernel, by decide +kernel, by decide +kernel, by decide +kernel,
      by unfold allowedConfig; decide +kernel, by decide +kernel, by decide, ⟨0x30100, false, by decide +kernel⟩, by decide +kernel, trivial⟩,
    by decide +kernel, by decide +kernel⟩

/-- Supervisor mode, with a page-aligned place in g5 and the header of an empty image there. -/
def imaged (bs : List Byte) : State := withBytes (inSup (withRegs [(5, 0x100000), (6, 0x100001)])) 0x100000 bs
def header0 : Header := { kvalid := false, size := 0x2F000, ntiles := 0, nktiles := 0, nq := 0, nheld := 0, xlen := 0 }
def headed : State := imaged (leBytes 4 0x58435842 ++ leBytes 4 1 ++ leBytes 4 0x2F000)
def headedPages : List Nat := (List.range ((header0.size + 4095) / 4096)).map (fun k => 0x100000 + 4096 * k)

theorem image_size (s : State) (k : Nat) (h : Hart) (m : Bool) (ht : h.tiles = []) (hk : h.ckpt = none)
    (hh : h.held = []) (hw : h.waiting = []) : (s.image k h m).length = 0x2F000 := by
  rw [s.image_length k h m (by simp [ht]) (by simp [hk]) (by simp [Hart.entries, hh, hw])]
  simp [ht, hk, Hart.entries, hh, hw, imageSize, heldBytes]

theorem witness_ContextImagesAreWrittenAndRead :
    (headed.cur < Config.harts ∧ headed.hart.sup = true ∧ headed.bars = [] ∧ headed.poison = [] ∧ headed.transit = []
      ∧ headed.hart.trapvec ≠ 0 ∧ Memory.wf headed.mem = true ∧ Memory.wf (imaged []).mem = true)
    ∧ (headed.hart.gget 6).toNat % 4096 ≠ 0 ∧ (headed.hart.gget 5).toNat % 4096 = 0
    ∧ (headed.image headed.cur headed.hart true).length = 0x2F000
    ∧ (∀ acc ∈ [Acc.store, .load], ∀ k, 4096 * k < 0x2F000 → 0x100000 + 4096 * k + 4096 ≤ Config.sdmLoc
        ∧ ∃ d, headed.xlate .scalar acc (headed.hart.gget 5 + BitVec.ofNat 64 (4096 * k)) = .at (0x100000 + 4096 * k) d)
    ∧ ((imaged []).hart.trapvec ≠ 0 ∧ ∃ d, (imaged []).xlate .scalar .load ((imaged []).hart.gget 5) = .at 0x100000 d)
    ∧ leNat (Memory.reads ((imaged []).view (imaged []).hart) 0x100000 4) ≠ 0x58435842
    ∧ readHeader (pageRead (headed.view headed.hart) [0x100000]) = some header0
    ∧ (let rd := pageRead (headed.view headed.hart) headedPages
       ∃ l, readImageFile rd header0 (imageVlmax rd headed.hart) = some l)
    ∧ header0.ntiles ≤ headed.freeTiles (headed.cur / 4) + headed.hart.tiles.length + headed.hart.keptTiles := by
  refine ⟨by decide +kernel, by decide +kernel, by decide +kernel, ?_, ?_, ⟨by decide +kernel, false, by decide +kernel⟩,
    by decide +kernel, by decide +kernel, ?_, by decide +kernel⟩
  · exact image_size _ _ _ _ (by decide +kernel) (by decide +kernel) (by decide +kernel) (by decide +kernel)
  · intro acc ha k hk
    have h : ∀ acc ∈ [Acc.store, .load], ∀ k < 47,
        headed.xlate .scalar acc (headed.hart.gget 5 + BitVec.ofNat 64 (4096 * k)) = .at (0x100000 + 4096 * k) false := by
      decide +kernel
    exact ⟨by have : Config.sdmLoc = 0x20000000000000 := rfl
              omega, false, h acc ha k (by omega)⟩
  · exact Option.isSome_iff_exists.mp (by decide +kernel)

/-- The first page of an image is not mapped. -/
theorem witness_ContextImagesFault :
    let s := inSup (withRegs [(5, 0x40000000)])
    s.cur < Config.harts ∧ s.hart.sup = true ∧ s.bars = [] ∧ s.poison = [] ∧ s.transit = [] ∧ Memory.wf s.mem = true
    ∧ (s.hart.gget 5).toNat % 4096 = 0 ∧ s.hart.trapvec ≠ 0 ∧ s.xlate .scalar .store (s.hart.gget 5) = .fault 7
    ∧ s.xlate .scalar .load (s.hart.gget 5) = .fault 6 := by decide +kernel

/-- A store that the image at 0x100000 covers is held. -/
def heldThere (va : Nat) : State :=
  headed.modHart (fun h => { h with held := [entry va 0x100100 8 (leBytes 8 7)], nextSeq := 1 })

theorem heldThere_pages (va : Nat) (h : va = 0x100100 ∨ va = 0x40000000) : ∀ k, 4096 * k < 0x2F000 →
    0x100000 + 4096 * k + 4096 ≤ Config.sdmLoc ∧ ∃ d, (heldThere va).xlate .scalar .store
      ((heldThere va).hart.gget 5 + BitVec.ofNat 64 (4096 * k)) = .at (0x100000 + 4096 * k) d := by
  intro k hk
  have key : ∀ va ∈ [0x100100, 0x40000000], ∀ k < 47, (heldThere va).xlate .scalar .store
      ((heldThere va).hart.gget 5 + BitVec.ofNat 64 (4096 * k)) = .at (0x100000 + 4096 * k) false := by decide +kernel
  exact ⟨by have : Config.sdmLoc = 0x20000000000000 := rfl
            omega, false, key va (by simpa using h) k (by omega)⟩

/-- It is performed before the image is written, or its page is gone. -/
theorem witness_ContextImagesOverHeldStores :
    (∀ va ∈ [0x100100, 0x40000000], let s := heldThere va
      s.cur < Config.harts ∧ s.hart.sup = true ∧ s.bars = [] ∧ s.poison = [] ∧ s.transit = [] ∧ Memory.wf s.mem = true
      ∧ (s.hart.gget 5).toNat % 4096 = 0 ∧ (s.image s.cur s.hart true).length = 0x2F000)
    ∧ (let r := (heldThere 0x100100).performPages headedPages 0x2F000
       r.2 = true ∧ r.1.bars = [] ∧ Memory.wf r.1.mem = true ∧ (r.1.image r.1.cur r.1.hart true).length ≤ 0x2F000)
    ∧ ((heldThere 0x40000000).performPages headedPages 0x2F000).2 = false := by
  have size : ∀ (s : State), s.hart.tiles = [] → s.hart.ckpt = none → s.hart.entries.length ≤ 4096 →
      (heldBytes s.hart.entries 0).2.length = 0 → (s.image s.cur s.hart true).length = 0x2F000 := by
    intro s ht hk he hx
    rw [s.image_length s.cur s.hart true (by simp [ht]) (by simp [hk]) he, ht, hk, hx]
    decide
  refine ⟨fun va hv => ?_, ⟨by decide +kernel, by decide +kernel, by decide +kernel, ?_⟩, by decide +kernel⟩
  · simp only [List.mem_cons, List.not_mem_nil, or_false] at hv
    rcases hv with rfl | rfl <;>
      exact ⟨by decide +kernel, by decide +kernel, by decide +kernel, by decide +kernel, by decide +kernel, by decide +kernel,
        by decide +kernel, size _ (by decide +kernel) (by decide +kernel) (by decide +kernel) (by decide +kernel)⟩
  · exact Nat.le_of_eq (size ((heldThere 0x100100).performPages headedPages 0x2F000).1 (by decide +kernel) (by decide +kernel)
      (by decide +kernel) (by decide +kernel))

/-! ### The vector unit -/

/-- VL elements at a width and format, v1 to v3 filled, VMSK = p1 with bit 0 clear, p2 with bits 0, 2 and 3. -/
def vec (vl ew fmt : Nat) : State :=
  (strip (withRegs [(5, 0x30000), (6, 3), (7, 4)]) vl ew fmt).modHart (fun h =>
    ((((h.vset 1 (BitVec.ofNat 16384 0x40800000BF8000003F80000040000000)).vset 2 (BitVec.ofNat 16384 0x00000001FFFFFFFF)).vset
      3 (BitVec.ofNat 16384 0x0203)).pset 1 (BitVec.ofNat 4096 0xE)).pset 2 (BitVec.ofNat 4096 0xD))

/-- Under VMSK, where only elements 1 to 3 are active. -/
def masked (s : State) : State := s.modHart (fun h => { h with vmsk := 0x21 })

theorem live_lt {s : State} {k : Nat} (h : live s k = true) : k < vlNow s := by
  simp only [live, activeAt, Bool.and_eq_true, decide_eq_true_eq] at h
  exact h.1.1

theorem atIssue_of {s : State} (mode : s.cur < Config.harts ∧ s.hart.sup = false ∧ s.hart.trapvec ≠ 0)
    (work : s.hart.queue = [] ∧ s.hart.binds = []) (config : allowedConfig s.hart.vcfg) : AtIssue s :=
  { hart := mode.1, program := mode.2.1, handler := mode.2.2, idle := work.1, unbound := work.2, config }

theorem witness_VectorWordsEnterTheQueue :
    (let s := { vec 4 3 0 with eager := false }
     s.cur < Config.harts ∧ isVector (.vadd 1 2 3 0 0 0) = true ∧ s.hart.sup = false ∧ s.hart.queue.length < 32
     ∧ changesBindings s.hart.queue = false ∧ writesG s.hart.queue = false
     ∧ illegalAtIssue (.vadd 1 2 3 0 0 0) s.hart.capture = false ∧ overlaps (.vadd 1 2 3 0 0 0) s.hart.capture = false
     ∧ streamTrap s.hart (.vadd 1 2 3 0 0 0) s.hart.capture = false
     ∧ vlTrap s.hart (.vadd 1 2 3 0 0 0) s.hart.capture 0 (s.ladderOf (.vadd 1 2 3 0 0 0) 0) = none)
    ∧ (inSup prog).hart.sup = true ∧ (inSup prog).hart.trapvec ≠ 0 := by
  decide +kernel

/-- The machines whose vector words trap at issue: EW = 0, EW = 4, a block-scaled format, a VL above the lanes, and VL above
the limits of the tile words. -/
theorem witness_VectorWordsTrapAtIssue :
    (∀ s ∈ [vec 4 0 0, vec 4 1 2, vec 4 4 0, vec 4 3 0, vec 1024 4 0, vec 129 3 0, vec 96 3 0,
      (vec 96 3 0).modHart (fun h => { h with mscale := 0 })], AtIssue s)
    ∧ ewNow (vec 4 0 0) = 0 ∧ ¬takesFloats (vec 4 1 2) ∧ ewNow (vec 4 4 0) = 4 ∧ 1 ≤ ewNow (vec 4 3 0)
    ∧ (illegalAtIssue (.vadd 1 2 3 0 0 0) (vec 1024 4 0).hart.capture = false
      ∧ overlaps (.vadd 1 2 3 0 0 0) (vec 1024 4 0).hart.capture = false
      ∧ roomNow (vec 1024 4 0) < vlNow (vec 1024 4 0) * bitsNow (vec 1024 4 0))
    ∧ (vlNow (vec 129 3 0) * 64 ≤ roomNow (vec 129 3 0) ∧ 128 < vlNow (vec 129 3 0))
    ∧ (vlNow (vec 96 3 0) ≤ 96 ∧ 127 < ((vec 96 3 0).hart.gget 5).toNat ∧ (vec 96 3 0).hart.mscale.toNat / 2 ^ 16 % 128 = 96) := by
  refine ⟨fun s hs => ?_, by decide +kernel, by unfold takesFloats; decide +kernel, by decide +kernel, by decide +kernel,
    by decide +kernel, by decide +kernel, by decide +kernel⟩
  simp only [List.mem_cons, List.not_mem_nil, or_false] at hs
  rcases hs with rfl | rfl | rfl | rfl | rfl | rfl | rfl | rfl <;>
    exact atIssue_of (by decide +kernel) (by decide +kernel) (by unfold allowedConfig; decide +kernel)

/-- MSCALE.EN with scale register v9. -/
def scaledVec : State := (vec 4 1 0).modHart (fun h => { h with mscale := 0x601009 })

/-- Registers that a word rewrites while it reads them: through a replicate code, as the permuted register, as a plane and
as the scale register of a conversion. -/
theorem witness_VectorWordsOverlap :
    AtIssue (vec 4 3 0) ∧ takesFloats (vec 4 3 0) ∧ ewNow (vec 4 3 0) ≠ 4 ∧ 4 ≤ (4 : BitVec 3).toNat
    ∧ (isPlaneOf 3 3 ∧ isPlaneOf 19 3 ∧ isPlaneOf 35 3)
    ∧ (AtIssue scaledVec ∧ isScaled 3 ∧ (9 : BitVec 6).toNat < 48 ∧ scaledVec.hart.mscale.getLsbD 12 = true
      ∧ scaledVec.hart.mscale.toNat % 64 = (9 : BitVec 6).toNat) :=
  ⟨atIssue_of (by decide +kernel) (by decide +kernel) (by unfold allowedConfig; decide +kernel),
    by unfold takesFloats; decide +kernel, by decide +kernel, by decide,
    ⟨⟨0, by decide, rfl⟩, ⟨1, by decide, rfl⟩, ⟨2, by decide, rfl⟩⟩,
    atIssue_of (by decide +kernel) (by decide +kernel) (by unfold allowedConfig; decide +kernel), by unfold isScaled; decide,
    by decide +kernel⟩

theorem witness_VectorIntegersGiveTheirResults :
    (∀ e ∈ [1, 4], ewNow (vec 4 e 0) = e) ∧ (replicates 3 1 0 ∧ replicates 3 2 4 ∧ replicates 3 2 7)
    ∧ (∀ i ∈ [Instr.vadd 3 1 2 0 0 0, .vsub 3 1 2 0 0 4, .vmul 3 1 2 0 0 7, .vmulh 3 1 2 0 0 0, .vmulhz 3 1 2 0 0 0,
          .vmadd 3 1 2 0 0 0, .vmsub 3 1 2 0 0 0, .vand 3 1 2 0 0 0, .vor 3 1 2 0 0 0, .vxor 3 1 2 0 0 0, .vsll 3 1 2 0 0 0,
          .vsrl 3 1 2 0 0 0, .vsra 3 1 2 0 0 0, .vmin 3 1 2 0 0 0, .vmax 3 1 2 0 0 0, .vminz 3 1 2 0 0 0,
          .vmaxz 3 1 2 0 0 0, .vsadd 3 1 2 0 0 0, .vssub 3 1 2 0 0 0, .vsaddz 3 1 2 0 0 0, .vssubz 3 1 2 0 0 0,
          .vabsd 3 1 2 0 0 0],
        Alone (vec 2048 1 0) i [3, 1, 2] ∧ Alone (vec 256 4 0) i [3, 1, 2]) := by
  refine ⟨by decide +kernel, by unfold replicates; decide, fun i hi => ?_⟩
  have h := List.all_eq_true.mp (by decide +kernel :
    List.all _ (fun i => aloneB (vec 2048 1 0) i [3, 1, 2] && aloneB (vec 256 4 0) i [3, 1, 2]) = true) i hi
  rw [Bool.and_eq_true] at h
  exact ⟨alone_of h.1, alone_of h.2⟩

theorem witness_VectorFloatsRoundTheExactResult :
    (takesFloats (vec 4 1 0) ∧ takesFloats (vec 4 2 1) ∧ takesFloats (vec 4 3 0) ∧ takesFloats (vec 4 4 0))
    ∧ replicates 3 2 5
    ∧ (∀ i ∈ [Instr.vfadd 3 1 2 0 0 0, .vfsub 3 1 2 0 0 0, .vfmul 3 1 2 0 0 0, .vfma 3 1 2 0 0 0, .vfms 3 1 2 0 0 0,
          .vfnma 3 1 2 0 0 0, .vfdiv 3 1 2 0 0 0, .vfsqrt 3 1 0, .vfmin 3 1 2 0 0 0, .vfmax 3 1 2 0 0 0, .vfclass 3 1 0,
          .vfsgnj 3 1 2 0 0 5], Alone (vec 512 3 0) i [3, 1, 2]) := by
  refine ⟨by unfold takesFloats; decide +kernel, by unfold replicates; decide, fun i hi => alone_of ?_⟩
  exact List.all_eq_true.mp (by decide +kernel : List.all _ (fun i => aloneB (vec 512 3 0) i [3, 1, 2]) = true) i hi

theorem witness_VectorExponentialsFollowTheirAlgorithm :
    takesFloats (vec 4 3 0) ∧ ewNow (vec 4 3 0) < 4 ∧ expTableOf (fun j => expTable[j]?.getD 0)
    ∧ Alone (vec 4 3 0) (.vfexp2 3 1 0) [3, 1] :=
  ⟨by unfold takesFloats; decide +kernel, by decide +kernel, by unfold expTableOf; decide +kernel,
    alone_of (by decide +kernel)⟩

theorem witness_VectorConversionsFollowTheirTypes :
    (isType 0 ∧ isType 8 ∧ isType 16 ∧ isType 23 ∧ isScaled 3 ∧ ¬isScaled 7)
    ∧ (vlNow (vec 256 2 0) * max (typeWidth 8) (typeWidth 23) ≤ roomNow (vec 256 2 0)
      ∧ Alone (vec 256 2 0) (.vfcvt 3 1 8 23 0) [3, 1] ∧ Alone (vec 4 3 0) (.vfcvt 3 1 22 20 0) [3, 1]
      ∧ Alone (vec 4 3 0) (.vfcvt 3 1 7 4 0) [3, 1])
    ∧ (scaledVec.hart.mscale.getLsbD 12 = true ∧ scaledVec.hart.mscale.toNat % 64 < 48
      ∧ scaledVec.hart.mscale.toNat % 64 ≠ (3 : BitVec 6).toNat ∧ scaledVec.hart.binds = []
      ∧ Alone scaledVec (.vfcvt 3 1 7 3 0) [3, 1]) := by
  refine ⟨by unfold isType isScaled; decide, ⟨by decide +kernel, alone_of (by decide +kernel), alone_of (by decide +kernel),
    alone_of (by decide +kernel)⟩, by decide +kernel, by decide +kernel, by decide +kernel, by decide +kernel,
    alone_of (by decide +kernel)⟩

theorem witness_PredicateLogicBreaksAndCounts :
    (∀ i ∈ [Instr.pand 3 1 2, .por 3 1 2, .pxor 3 1 2, .pandn 3 1 2, .pset 3, .pclr 3, .pmov 3 1, .pidx 3 6, .pexitb 3 2,
        .pexita 3 2, .pfirst 6 2, .pcnt 6 2], Alone (masked (vec 4 3 0)) i [])
    ∧ (chosen (masked (vec 4 3 0)) 2 2 = true ∧ ∀ k < 2, chosen (masked (vec 4 3 0)) 2 k = false)
    ∧ (∀ k, chosen (masked (vec 4 3 0)) 4 k = false) := by
  refine ⟨fun i hi => alone_of ?_, by decide +kernel, fun k => ?_⟩
  · exact List.all_eq_true.mp (by decide +kernel : List.all _ (fun i => aloneB (masked (vec 4 3 0)) i []) = true) i hi
  · by_cases h : k < 4
    · have : ∀ k < 4, chosen (masked (vec 4 3 0)) 4 k = false := by decide +kernel
      exact this k h
    · have h4 : vlNow (masked (vec 4 3 0)) = 4 := by decide +kernel
      cases hc : live (masked (vec 4 3 0)) k with
      | false => simp [chosen, hc]
      | true => have := live_lt hc; omega

theorem witness_VectorComparesSetTheirPredicates :
    (ewNow (vec 4 1 0) = 1 ∧ ewNow (vec 4 4 0) = 4 ∧ takesFloats (vec 4 3 0))
    ∧ (∀ i ∈ [Instr.vcmpEq 3 1 2 0 0 0, .vcmpNe 3 1 2 0 0 4, .vcmpLt 3 1 2 0 0 7, .vcmpLe 3 1 2 0 0 0, .vcmpLtz 3 1 2 0 0 0,
        .vcmpLez 3 1 2 0 0 0, .vfcmpEq 3 1 2 0 0 0, .vfcmpNe 3 1 2 0 0 0, .vfcmpLt 3 1 2 0 0 0, .vfcmpLe 3 1 2 0 0 0,
        .vfcmpUn 3 1 2 0 0 0], Alone (vec 4 3 0) i [1, 2]) := by
  refine ⟨by unfold takesFloats; decide +kernel, fun i hi => alone_of ?_⟩
  exact List.all_eq_true.mp (by decide +kernel : List.all _ (fun i => aloneB (vec 4 3 0) i [1, 2]) = true) i hi

theorem witness_PermutesMoveTheirElements :
    (∀ i ∈ [Instr.vslup 4 1 6 7, .vsldn 4 1 6 7, .vcompress 4 1 2, .vexpand 4 1 2, .vperm 4 1 2, .vid 4, .viota 4 2,
        .vmerge 4 1 2 0 0 0, .vbcast 4 6, .vextr 7 1 6, .vins 4 7 6], Alone (masked (vec 4 3 0)) i [4, 1, 2])
    ∧ replicates 4 2 0 ∧ (4 : BitVec 6) ≠ 1
    ∧ (((vec 4 3 0).hart.gget 6).toNat < limitNow (vec 4 3 0) ∧ ¬((vec 4 3 0).hart.gget 7).toNat < limitNow (vec 4 3 0)) := by
  refine ⟨fun i hi => alone_of ?_, by unfold replicates; decide, by decide, by decide +kernel⟩
  exact List.all_eq_true.mp (by decide +kernel : List.all _ (fun i => aloneB (masked (vec 4 3 0)) i [4, 1, 2]) = true) i hi

/-- The elements of v1 at 32 bits are 2, 1, −1 and 4: element 3 is the greatest, element 2 the least. -/
theorem witness_ReductionsCombineInTheirFixedOrders :
    (∀ i ∈ [Instr.vrsum 4 1, .vrmax 4 1, .vrmin 4 1, .vfrsum 4 1, .vfrsumo 4 1, .vfrmax 4 1, .vfrmin 4 1, .vargmax 4 1,
        .vrscl 4 1 2], Alone (vec 4 3 0) i [4, 1, 2] ∧ Alone (vec 0 3 0) i [4, 1, 2])
    ∧ (takesFloats (vec 4 3 0) ∧ ewNow (vec 4 3 0) < 4 ∧ (vec 4 3 0).hart.vcfg.toNat / 2 ^ 21 % 4 < 3)
    ∧ (let s := vec 4 3 0
       let v := fun k => decodeF fp32 (el s 32 1 k)
       vlNow s = 4 ∧ live s 3 = true ∧ live s 2 = true ∧ (∀ j < 4, v j ≠ .nan)
       ∧ (∀ j < 4, before (v 3) (v j) = false ∧ before (v j) (v 2) = false)
       ∧ (∀ j < 3, before (v j) (v 3) = true) ∧ (∀ j < 2, before (v 2) (v j) = true))
    ∧ (let s := strip (withV prog 1 (BitVec.ofNat 16384 0x7FC00000)) 1 3 0
       ∀ k, live s k = true → decodeF fp32 (el s 32 1 k) = .nan) := by
  refine ⟨fun i hi => ?_, by unfold takesFloats; decide +kernel, by decide +kernel, ?_⟩
  · have h := List.all_eq_true.mp (by decide +kernel :
      List.all _ (fun i => aloneB (vec 4 3 0) i [4, 1, 2] && aloneB (vec 0 3 0) i [4, 1, 2]) = true) i hi
    rw [Bool.and_eq_true] at h
    exact ⟨alone_of h.1, alone_of h.2⟩
  · intro s k hk
    have h1 : vlNow s = 1 := by decide +kernel
    have hl := live_lt hk
    have h0 : k = 0 := by omega
    subst h0
    decide +kernel

theorem witness_PlaneArithmeticSplitsJoinsAndAdds :
    (vlNow (vec 512 3 0) * 32 ≤ roomNow (vec 512 3 0)) ∧ (1 : BitVec 6) ∉ [15, 15 + 16, 15 + 32]
    ∧ Alone (vec 512 3 0) (.vpsplit 15 1 0) [1, 15, 31, 47] ∧ Alone (vec 4 2 0) (.vpsplit 0 1 1) [1, 0, 16, 32]
    ∧ Alone (vec 512 3 0) (.vpjoin 1 15 0) [1, 15, 31, 47] ∧ Alone (vec 4 3 0) (.vpadd 15 1 0) [1, 15, 31, 47] :=
  ⟨by decide +kernel, by decide, alone_of (by decide +kernel), alone_of (by decide +kernel), alone_of (by decide +kernel),
    alone_of (by decide +kernel)⟩

/-! ### Vector memory -/

/-- What a vector load finds in n bytes at a location. -/
def found (s : State) (loc n : Nat) : Nat := leNat (Memory.reads (s.view (older s)) loc n)

/-- `Fetches`, as a check. -/
def fetchesB (s : State) (va : Word) (n loc : Nat) : Bool :=
  decide (va.toNat % n = 0) && decide (s.xlate .vector .load va = .at loc false)
  && (List.range n).all (fun k => !s.readsDamaged (older s) none (loc + k))

theorem fetches_of {s : State} {va : Word} {n loc : Nat} (h : fetchesB s va n loc = true) :
    Fetches s va n (found s loc n) := by
  simp only [fetchesB, Bool.and_eq_true, decide_eq_true_eq, List.all_eq_true, List.mem_range, Bool.not_eq_true'] at h
  exact ⟨loc, ⟨h.1.1, false, h.1.2⟩, fun k hk => h.2 k hk, rfl⟩

theorem active_lt {s : State} {k : Nat} (h : activeAt s k = true) : k < vlNow s := by
  simp only [activeAt, Bool.and_eq_true, decide_eq_true_eq] at h
  exact h.1

/-- Every element below VL is found where `loc` says. -/
theorem all_fetch {s : State} {place : Nat → Word} {n : Nat} {loc : Nat → Nat} (m : Nat)
    (h : (List.range m).all (fun k => fetchesB s (place k) n (loc k)) = true) :
    ∀ k < m, Fetches s (place k) n (found s (loc k) n) := by
  simp only [List.all_eq_true, List.mem_range] at h
  exact fun k hk => fetches_of (h k hk)

/-- Bytes in memory, and a stride; v3 holds the indices 3, 2, 0, 0. -/
def loads (vl ew : Nat) : State :=
  (withBytes (vec vl ew 0) 0x30000 [1, 2, 3, 4, 5, 6, 7, 8]).modHart (fun h => { h with vstr := 16 })

/-- The elements that VL names of a strip of loads, found one by one. -/
theorem loads_fetch {vl ew : Nat} {place : Nat → Word} {n : Nat} {loc : Nat → Nat} (hv : vlNow (loads vl ew) = vl)
    (h : (List.range vl).all (fun k => fetchesB (loads vl ew) (place k) n (loc k)) = true) :
    ∀ k, activeAt (loads vl ew) k = true → Fetches (loads vl ew) (place k) n (found (loads vl ew) (loc k) n) :=
  fun k hk => all_fetch vl h k (by have := active_lt hk; omega)

theorem witness_VectorLoadsFillTheirElements :
    (∀ k, activeAt (loads 3 0) k = true → Fetches (loads 3 0) (slotAt 0x30000 4 k) (sizeOf' 4)
        (found (loads 3 0) (0x30000 + k / 2) 1))
    ∧ (∀ k, activeAt (loads 2 4) k = true → Fetches (loads 2 4) (slotAt 0x30000 64 k) (sizeOf' 64)
        (found (loads 2 4) (0x30000 + 8 * k) 8))
    ∧ (∀ k, activeAt (loads 2 1) k = true → Fetches (loads 2 1) (0x30000 + BitVec.ofNat 64 k * (loads 2 1).hart.vstr)
        (sizeOf' 8) (found (loads 2 1) (0x30000 + 16 * k) 1))
    ∧ (∀ k, activeAt (loads 3 1) k = true → Fetches (loads 3 1) (indexed (loads 3 1) 0x30000 3 0 k) (sizeOf' 8)
        (found (loads 3 1) (0x30000 + (3 - k) * (2 - k / 2) / 2) 1))
    ∧ (∀ k, activeAt (loads 1 1) k = true → Fetches (loads 1 1) (indexed (loads 1 1) 0x30000 3 2 k) (sizeOf' 8)
        (found (loads 1 1) 0x30203 1))
    ∧ indexFits (loads 3 1) 0 ∧ indexFits (loads 1 1) 2 ∧ indexFits (loads 3 4) 3
    ∧ Alone (loads 3 0) (.vld 4 5) [4] ∧ Alone (loads 2 4) (.vldf 4 5) [4] ∧ Alone (loads 2 1) (.vlds 4 5) [4]
    ∧ Alone (loads 3 1) (.vldx 4 5 3 0 0) [4, 3] ∧ Alone (loads 1 1) (.vldx 4 5 3 0 2) [4, 3] := by
  refine ⟨loads_fetch (place := fun k => slotAt 0x30000 4 k) (loc := fun k => 0x30000 + k / 2) (by decide +kernel) (by decide +kernel),
    loads_fetch (place := fun k => slotAt 0x30000 64 k) (loc := fun k => 0x30000 + 8 * k) (by decide +kernel) (by decide +kernel),
    loads_fetch (place := fun k => 0x30000 + BitVec.ofNat 64 k * (loads 2 1).hart.vstr) (loc := fun k => 0x30000 + 16 * k)
      (by decide +kernel) (by decide +kernel),
    loads_fetch (place := fun k => indexed (loads 3 1) 0x30000 3 0 k) (loc := fun k => 0x30000 + (3 - k) * (2 - k / 2) / 2)
      (by decide +kernel) (by decide +kernel),
    loads_fetch (place := fun k => indexed (loads 1 1) 0x30000 3 2 k) (loc := fun _ => 0x30203)
      (by decide +kernel) (by decide +kernel),
    by unfold indexFits; decide +kernel, by unfold indexFits; decide +kernel, by unfold indexFits; decide +kernel,
    alone_of (by decide +kernel), alone_of (by decide +kernel), alone_of (by decide +kernel), alone_of (by decide +kernel),
    alone_of (by decide +kernel)⟩

/-- 32-bit loads whose third element lies beyond the mapped GiB. -/
def fading (vl : Nat) (base : Word) : State := (strip (withRegs [(5, base)]) vl 3 0).modHart (fun h => { h with vftrim := 0 })

theorem witness_VectorLoadFaultsStopOrTrim :
    (live (fading 4 0x3FFFFFF8) 2 = true ∧ (∃ k < 2, live (fading 4 0x3FFFFFF8) k = true)
      ∧ (∀ k < 2, activeAt (fading 4 0x3FFFFFF8) k = true → Fetches (fading 4 0x3FFFFFF8) (slotAt 0x3FFFFFF8 32 k) 4
          (found (fading 4 0x3FFFFFF8) (0x3FFFFFF8 + 4 * k) 4))
      ∧ (slotAt 0x3FFFFFF8 32 2).toNat % 4 = 0 ∧ (fading 4 0x3FFFFFF8).xlate .vector .load (slotAt 0x3FFFFFF8 32 2) = .fault 6)
    ∧ (live (fading 4 0x30001) 0 = true ∧ (slotAt 0x30001 32 0).toNat % 4 ≠ 0)
    ∧ (fading 4 0x3FFFFFF8).hart.trapvec ≠ 0 ∧ (fading 4 0x3FFFFFF8).hart.vftrim = 0
    ∧ Alone (fading 4 0x3FFFFFF8) (.vld 4 5) [4] ∧ Alone (fading 4 0x30001) (.vld 4 5) [4]
    ∧ Alone (fading 4 0x3FFFFFF8) (.vldf 4 5) [4] := by
  refine ⟨⟨by decide +kernel, by decide +kernel, fun k hk _ => ?_, by decide, by decide +kernel⟩, by decide +kernel, by decide +kernel,
    by decide +kernel, alone_of (by decide +kernel), alone_of (by decide +kernel), alone_of (by decide +kernel)⟩
  exact all_fetch (place := fun k => slotAt 0x3FFFFFF8 32 k) (loc := fun k => 0x3FFFFFF8 + 4 * k) 2 (by decide +kernel) k hk

/-- Room for n entries in a hart that holds none. -/
theorem room_of {s : State} {n : Nat} (h : (s.hart.waiting.isEmpty && s.hart.held.isEmpty && decide (n ≤ capacity s)) = true) :
    Room s n := by
  simp only [Bool.and_eq_true, decide_eq_true_eq, List.isEmpty_iff] at h
  exact ⟨h.1.1, by simp [h.1.2, h.2], by simp [h.1.2]⟩

/-- Places found by vector stores, none in host memory. -/
def storedB (s : State) (va : Word) (n loc : Nat) : Bool :=
  decide (va.toNat % n = 0) && decide (s.xlate .vector .store va = .at loc false) && !decide (inHost loc)

theorem stored_of {s : State} {va : Word} {n loc : Nat} (h : storedB s va n loc = true) :
    Finds s .store va n loc ∧ ¬inHost loc := by
  simp only [storedB, Bool.and_eq_true, decide_eq_true_eq, Bool.not_eq_true', decide_eq_false_iff_not] at h
  exact ⟨⟨h.1.1, false, h.1.2⟩, h.2⟩

theorem loads_store {vl ew : Nat} {place : Nat → Word} {n : Nat} {loc : Nat → Nat} (hv : vlNow (loads vl ew) = vl)
    (h : (List.range vl).all (fun k => storedB (loads vl ew) (place k) n (loc k)) = true) :
    ∀ k, live (loads vl ew) k = true → Finds (loads vl ew) .store (place k) n (loc k) ∧ ¬inHost (loc k) :=
  fun k hk => stored_of (List.all_eq_true.mp h k (by have := live_lt hk; simp only [List.mem_range]; omega))

theorem witness_VectorStoresAreHeld :
    (∀ k, live (loads 3 0) k = true →
        Finds (loads 3 0) .store (slotAt 0x30000 4 k) 1 (0x30000 + k / 2) ∧ ¬inHost (0x30000 + k / 2))
    ∧ (∀ k, live (loads 2 4) k = true → Finds (loads 2 4) .store (0x30000 + BitVec.ofNat 64 k * (loads 2 4).hart.vstr) 8
        (0x30000 + 16 * k) ∧ ¬inHost (0x30000 + 16 * k))
    ∧ (∀ k, live (loads 3 1) k = true → Finds (loads 3 1) .store (indexed (loads 3 1) 0x30000 3 0 k) 1
        (0x30000 + (3 - k) * (2 - k / 2) / 2) ∧ ¬inHost (0x30000 + (3 - k) * (2 - k / 2) / 2))
    ∧ (∀ j < 16, Finds (loads 40 3) .store (slotAt 0x30000 32 j) 4 (0x30000 + 4 * j) ∧ ¬inHost (0x30000 + 4 * j))
    ∧ takesFloats (loads 40 3) ∧ indexFits (loads 3 1) 0 ∧ (0x30000 : Word).toNat % 64 = 0
    ∧ Room (loads 40 3) 64 ∧ Room (loads 2 4) 2
    ∧ Alone (loads 3 0) (.vst 1 5 0) [1] ∧ Alone (loads 2 4) (.vsts 1 5 1) [1] ∧ Alone (loads 3 1) (.vstx 1 5 3 0 0) [1, 3]
    ∧ Alone (loads 3 1) (.vscadd 1 5 3 0 0 0) [1, 3] ∧ Alone (loads 40 3) (.vmerget 1 5 1) [1] := by
  refine ⟨loads_store (place := fun k => slotAt 0x30000 4 k) (loc := fun k => 0x30000 + k / 2) (by decide +kernel) (by decide +kernel),
    loads_store (place := fun k => 0x30000 + BitVec.ofNat 64 k * (loads 2 4).hart.vstr) (loc := fun k => 0x30000 + 16 * k)
      (by decide +kernel) (by decide +kernel),
    loads_store (place := fun k => indexed (loads 3 1) 0x30000 3 0 k) (loc := fun k => 0x30000 + (3 - k) * (2 - k / 2) / 2)
      (by decide +kernel) (by decide +kernel),
    fun j hj => ?_, by unfold takesFloats; decide +kernel, by unfold indexFits; decide +kernel, by decide,
    room_of (by decide +kernel), room_of (by decide +kernel), alone_of (by decide +kernel), alone_of (by decide +kernel),
    alone_of (by decide +kernel), alone_of (by decide +kernel), alone_of (by decide +kernel)⟩
  exact stored_of (List.all_eq_true.mp (by decide +kernel :
    (List.range 16).all (fun j => storedB (loads 40 3) (slotAt 0x30000 32 j) 4 (0x30000 + 4 * j)) = true) j
      (List.mem_range.mpr hj))

/-- Two elements of a planed tensor with VPSTR = 64 (its pairs at 192), in a block of 16. -/
def planes : State := (loads 2 1).modHart (fun h => { h with vpstr := 64 })

theorem planes_lt {k : Nat} (h : activeAt planes k = true) : k < 2 := by
  have := active_lt h
  have : vlNow planes = 2 := by decide +kernel
  omega

theorem planes_fetch {P : Nat → Nat → Prop} (n : Nat) (h : ∀ k < 2, ∀ q < n, P k q) :
    ∀ k, activeAt planes k = true → ∀ q < n, P k q := fun k hk q hq => h k (planes_lt hk) q hq

/-- Where plane q of element k lies. -/
def planeLoc (m : Bool) (k q : Nat) : Nat := 0x30000 + 64 * q + k * planeWidth m q / 8

theorem planes_found (m : Bool) : ∀ k, activeAt planes k = true → ∀ q < 3,
    ∃ z, Fetches planes (planeSlot planes m 0x30000 q k) (sizeOf' (planeWidth m q)) z
      ∧ partOf (planeWidth m q) k (found planes (planeLoc m k q) (sizeOf' (planeWidth m q))) = partOf (planeWidth m q) k z := by
  intro k hk q hq
  refine ⟨_, fetches_of ?_, rfl⟩
  have h : ∀ m, ∀ k < 2, ∀ q < 3, fetchesB planes (planeSlot planes m 0x30000 q k) (sizeOf' (planeWidth m q)) (planeLoc m k q) = true := by
    decide +kernel
  exact h m k (planes_lt hk) q hq

theorem planes_stored (m : Bool) : ∀ k, live planes k = true → ∀ q < 3,
    Finds planes .store (planeSlot planes m 0x30000 q k) (sizeOf' (planeWidth m q)) (planeLoc m k q) := by
  intro k hk q hq
  have h : ∀ m, ∀ k < 2, ∀ q < 3, storedB planes (planeSlot planes m 0x30000 q k) (sizeOf' (planeWidth m q)) (planeLoc m k q) = true := by
    decide +kernel
  have hv : vlNow planes = 2 := by decide +kernel
  exact (stored_of (h m k (by have := live_lt hk; omega) q hq)).1

theorem planes_block {b : Nat} (h : blockLives planes b) : b = 0 := by
  obtain ⟨k, hk, rfl⟩ := h
  have hv : vlNow planes = 2 := by decide +kernel
  have hb : blockNow planes = 16 := by decide +kernel
  have := live_lt hk
  rw [hb]; omega

/-- `FindsBytes`, as a check of bytes that lie at one place in physical memory. -/
def findsBytesB (s : State) (va : Word) (bs : List Byte) : Bool :=
  (List.range bs.length).all (fun k =>
    decide (s.xlate .vector .load (va + BitVec.ofNat 64 k) = .at (va.toNat + k) false)
    && decide (bs[k]? = some (Memory.read (s.view (older s)) (va.toNat + k)))
    && !s.readsDamaged (older s) none (va.toNat + k))

theorem findsBytes_of {s : State} {va : Word} {bs : List Byte} (h : findsBytesB s va bs = true) : FindsBytes s va bs := by
  intro k x hx
  have hk : k < bs.length := (List.getElem?_eq_some_iff.mp hx).1
  have h := List.all_eq_true.mp h k (List.mem_range.mpr hk)
  simp only [Bool.and_eq_true, decide_eq_true_eq, Bool.not_eq_true'] at h
  exact ⟨_, _, h.1.1, Option.some.inj (h.1.2.symm.trans hx), h.2⟩

/-- A block of 64 zero bytes in each mode: raw, one dictionary entry, one run of 64 zeros. -/
def rawBlock : List Byte := [0, 0, 0, 0] ++ List.replicate 64 0

/-- A descriptor at 0x30000, its table at 0x30100 with one block of plane 0, the raw block at 0x30200. -/
def expanding : State :=
  withBytes (withBytes (withBytes (vec 4 1 0)
    0x30000 (leBytes 8 0x30100 ++ leBytes 8 0 ++ leBytes 4 4 ++ [0, 1] ++ List.replicate 10 0))
    0x30100 (leBytes 4 1 ++ leBytes 4 0 ++ leBytes 4 0 ++ [0, 0, 0, 0] ++ leBytes 5 0x100 ++ [0, 68, 0]))
    0x30200 rawBlock

theorem decodes_raw : Decodes rawBlock (List.replicate 64 0) :=
  ⟨by decide, Or.inl (by decide +kernel)⟩

theorem decodes_dictionary : Decodes ([1, 0, 0, 0, 0] ++ List.replicate 32 0) (List.replicate 64 0) := by
  refine ⟨by decide, Or.inr (Or.inl ⟨0, [0], List.replicate 32 0, by decide, by decide, by decide, by decide +kernel, ?_⟩)⟩
  intro b hb
  refine ⟨0, ?_, ?_, by simp⟩
  · rw [List.getElem?_replicate]; simp; omega
  · rw [List.getElem?_replicate]; simp [hb]

theorem decodes_zeros : Decodes [2, 0, 0, 0, 63] (List.replicate 64 0) :=
  ⟨by decide, Or.inr (Or.inr ⟨[63], by decide +kernel, Runs.zeros 63 [] [] (by decide) Runs.done⟩)⟩

theorem witness_PlaneLoadsStoresAndExpansions :
    -- ladder B, both forms; ladder M, both forms
    (∀ m ∈ [false, true], (∀ k, activeAt planes k = true → ∀ q < 3,
        ∃ z, Fetches planes (planeSlot planes m 0x30000 q k) (sizeOf' (planeWidth m q)) z
          ∧ partOf (planeWidth m q) k (found planes (planeLoc m k q) (sizeOf' (planeWidth m q))) = partOf (planeWidth m q) k z)
      ∧ ∀ k, live planes k = true → ∀ q < 3,
        Finds planes .store (planeSlot planes m 0x30000 q k) (sizeOf' (planeWidth m q)) (planeLoc m k q))
    ∧ blockLives planes 0
    ∧ (∀ b, blockLives planes b → Fetches planes (pairSlot planes 0x30000 b) 2 (found planes 0x300C0 2)
        ∧ Finds planes .store (pairSlot planes 0x30000 b) 2 0x300C0)
    ∧ Room planes 8 ∧ vlNow planes * 16 ≤ roomNow planes
    ∧ Alone planes (.vpld 4 5 0 1 1) [4, 20] ∧ Alone planes (.vpld 4 5 9 2 2) [9, 4, 20, 36]
    ∧ Alone planes (.vpst 4 5 0 1 0) [4, 20] ∧ Alone planes (.vpst 4 5 9 2 1) [9, 4, 20, 36]
    ∧ FindsBytes expanding (expanding.hart.gget 5) (leBytes 8 (0x30100 : Word).toNat ++ leBytes 8 (0 : Word).toNat ++ leBytes 4 4
        ++ [BitVec.ofNat 8 0, BitVec.ofNat 8 1] ++ List.replicate 10 0)
    ∧ BlockThrough expanding 0x30100 0 0 (List.replicate 64 0)
    ∧ (∀ e ∈ expanding.hart.held ++ expanding.hart.waiting, e.seq < expanding.hart.nextSeq)
    ∧ Alone expanding (.vxpand 4 5 0) [4] := by
  refine ⟨fun m _ => ⟨planes_found m, planes_stored m⟩, ⟨0, by decide +kernel, by decide +kernel⟩, fun b hb => ?_,
    room_of (by decide +kernel), by decide +kernel, alone_of (by decide +kernel), alone_of (by decide +kernel),
    alone_of (by decide +kernel), alone_of (by decide +kernel), findsBytes_of (by decide +kernel), ?_,
    by decide +kernel, alone_of (by decide +kernel)⟩
  · rw [planes_block hb]
    exact ⟨fetches_of (by decide +kernel), (stored_of (by decide +kernel)).1⟩
  · exact ⟨fun p => if p = 0 then 1 else 0, 0x100, rawBlock, by intro i; dsimp only; split <;> decide, by decide, by decide, by decide,
      by decide, by decide, ⟨[0, 0, 0, 0], rfl, findsBytes_of (by decide +kernel)⟩, findsBytes_of (by decide +kernel),
      findsBytes_of (by decide +kernel),
      decodes_raw⟩

/-! ### Streams and tiles -/

/-- A strip of four 32-bit elements where this stream is bound. -/
def streaming (b : Binding) : State :=
  (vec 4 3 0).modHart (fun h => { h with binds := [b], vftrim := 0 })

/-- What the delivery of a strip asks of a binding of v4. -/
abbrev ReadyToDeliver (b : Binding) : Prop :=
  (streaming b).hart.binds = [b] ∧ Memory.wf (streaming b).mem = true ∧ (streaming b).bars = []
  ∧ (b.reg = (4 : BitVec 6).toNat ∧ b.ladder = 0 ∧ b.planes = 1 ∧ b.ew = ewNow (streaming b))
  ∧ (streaming b).hart.vftrim = 0 ∧ 0 < vlNow (streaming b) ∧ b.used ≤ b.data.length ∧ ∀ e ∈ b.data, e.bad = false

theorem witness_StreamsBindDeliverAndEnd :
    (let s := withBytes (vec 4 3 0) 0x30000 (recordBytes bind0 (List.replicate 10 0))
     s.bars = [] ∧ Memory.wf s.mem = true ∧ Bindable bind0 s.hart.binds ∧ bind0.record = s.hart.gget 5 ∧ bind0.record.toNat % 64 = 0
     ∧ Finds s .load bind0.record 64 0x30000 ∧ Finds s .store bind0.record 64 0x30000
     ∧ (inDev 0x30000 || inSpad 0x30000) = true ∧ intact s 0x30000 64
     ∧ Memory.reads (s.view s.hart) 0x30000 64 = recordBytes bind0 (List.replicate 10 0)
     ∧ s.hart.held = [] ∧ s.hart.waiting = [] ∧ Alone s (.vbind 4 5) [])
    ∧ (∀ b ∈ [bind1 6 1, bind1 4 3, bind1 2 2],
        ReadyToDeliver b ∧ (4 : BitVec 6) ∉ [(9 : BitVec 6), 2] ∧ Alone (streaming b) (.vadd 9 4 2 0 0 0) [9, 2])
    ∧ (min 4 (6 - 2) = 4 ∧ min 4 (4 - 2) = 2 ∧ min 4 (2 - 2) = 0 ∧ (streaming (bind1 2 2)).hart.trapvec ≠ 0)
    ∧ (Quiet (streaming bind0) ∧ bind0 ∈ (streaming bind0).hart.binds ∧ (4 : BitVec 6).toNat ∈ bind0.regs)
    ∧ (let s := streaming (bind1 6 1)
       Alone s (.vunbind 4) [] ∧ Alone s (.vunbind 5) [] ∧ (∀ x ∈ s.hart.binds, x.reg ≠ (5 : BitVec 6).toNat)
       ∧ s.hart.binds.find? (fun x => decide (x.reg = (4 : BitVec 6).toNat)) = some (bind1 6 1)
       ∧ s.translate (s.cur / 4) (s.rootOf s.hart) false .engine .store ((bind1 6 1).record + 0x34) = .at 0x30034 false
       ∧ (s.writeMem 0x30034 (leBytes 4 2)).translate (s.cur / 4) (s.rootOf s.hart) false .engine .store
           ((bind1 6 1).record + 0x38) = .at (0x30034 + 4) false) := by
  refine ⟨⟨by decide +kernel, by decide +kernel, ⟨by decide, by decide, by decide, by decide, by decide, by decide, by decide, by decide, by decide,
      by decide +kernel, by decide +kernel, by decide, by decide⟩, by decide +kernel, by decide, finds_of (dev := false) (by decide +kernel),
      finds_of (dev := false) (by decide +kernel), by decide +kernel, by unfold intact; decide +kernel, by decide +kernel,
      by decide +kernel, by decide +kernel, alone_of (by decide +kernel)⟩, fun b hb => ?_, by decide +kernel,
    ⟨quiet_of (by decide +kernel), by decide +kernel, by decide +kernel⟩, alone_of (by decide +kernel), alone_of (by decide +kernel),
    by decide +kernel, by decide +kernel, by decide +kernel, by decide +kernel⟩
  have checks : ∀ b ∈ [bind1 6 1, bind1 4 3, bind1 2 2], ReadyToDeliver b := by decide +kernel
  refine ⟨checks b hb, by decide, alone_of ?_⟩
  exact List.all_eq_true.mp (by decide +kernel : List.all [bind1 6 1, bind1 4 3, bind1 2 2] (fun b =>
    aloneB (streaming b) (.vadd 9 4 2 0 0 0) [9, 2]) = true) b hb

/-- 40 elements of three planes bound to v4, v20 and v36, of ladder B or with their scale pairs in v9. -/
def bindPlanes (m : Bool) (used : Nat) : Binding :=
  { bind0 with
    ladder := if m then 2 else 1, planes := 3, sreg := 9, block := 16, pairs := List.replicate 3 (0x0102, false)
    data := List.replicate 40 { p0 := 8, p1 := 2, p2 := 3, bad := false }, used := used }

/-- Strips of three planes are there to be joined, at a block's start and, of ladder M, inside one. -/
theorem witness_StreamsOfPlanes :
    ∀ p ∈ [(false, 2), (true, 16), (true, 2)], let b := bindPlanes p.1 p.2
      let s := streaming b
      s.bars = [] ∧ Memory.wf s.mem = true ∧ s.hart.binds = [b] ∧ b.reg = (4 : BitVec 6).toNat ∧ b.ladder = (if p.1 then 2 else 1)
      ∧ b.planes = 3 ∧ b.sreg < 48 ∧ b.sreg ∉ b.planeRegs ∧ vlNow s * (if p.1 then 16 else 32) ≤ roomNow s ∧ 0 < vlNow s
      ∧ b.used + vlNow s ≤ b.data.length ∧ (∀ e ∈ b.data, e.bad = false)
      ∧ (b.used + vlNow s + blockNow s - 1) / blockNow s ≤ b.pairs.length ∧ (∀ x ∈ b.pairs, x.2 = false)
      ∧ Alone s (.vpjoin 12 4 (if p.1 then 1 else 0)) [12] ∧ s.hart.trapvec ≠ 0
      ∧ (p = (true, 16) → b.used % blockNow s = 0) ∧ (p = (true, 2) → b.used % blockNow s ≠ 0) := by
  intro p hp
  simp only [List.mem_cons, List.not_mem_nil, or_false] at hp
  rcases hp with rfl | rfl | rfl <;>
    exact ⟨by decide +kernel, by decide +kernel, by decide +kernel, by decide, by decide, by decide, by decide, by decide,
      by decide +kernel, by decide +kernel, by decide +kernel, by decide +kernel, by decide +kernel, by decide +kernel,
      alone_of (by decide +kernel), by decide +kernel⟩

/-- A reader of a strip of no element, although the stream runs and has some. -/
theorem witness_StreamsDeliverNothing :
    let s := strip (streaming (bind1 6 1)) 0 3 0
    s.hart.binds = [bind1 6 1] ∧ vlNow s = 0 ∧ (bind1 6 1).ew = ewNow s ∧ s.hart.vftrim = 0 ∧ s.hart.trapvec ≠ 0
    ∧ Alone s (.vadd 9 4 2 0 0 0) [9, 2] :=
  ⟨by decide +kernel, by decide +kernel, by decide +kernel, by decide +kernel, by decide +kernel, alone_of (by decide +kernel)⟩

/-- What a word asks that traps STREAM at issue for register r of a binding. -/
abbrev StreamChecks (s : State) (b : Binding) (i : Instr) (r : Nat) : Prop :=
  (s.cur < 512 ∧ s.hart.queue = [] ∧ s.hart.sup = false ∧ s.hart.trapvec ≠ 0)
  ∧ b ∈ s.hart.binds ∧ isVector i = true ∧ illegalAtIssue i s.hart.capture = false ∧ overlaps i s.hart.capture = false
  ∧ r ∈ b.regs
  ∧ (r ∈ ((vInfo i).map (·.writes)).getD []
    ∨ r ∈ namedReads i ∧ (b.ladder = 0 ∧ r = b.reg ∧ b.ew ≠ ewNow s ∨ b.ladder ≠ 0 ∧ r ≠ b.reg))

/-- Words that trap STREAM at issue: they write the bound register, read it at another width, or name a lower plane or the
scale register of a planed binding. -/
theorem witness_StreamsTrapAtIssue :
    StreamChecks (streaming bind0) bind0 (.vadd 4 1 2 0 0 0) 4
    ∧ StreamChecks (strip (streaming bind0) 4 2 0) bind0 (.vadd 9 4 2 0 0 0) 4
    ∧ (∀ r ∈ [20, 36, 9], StreamChecks (streaming (bindPlanes true 0)) (bindPlanes true 0)
        (.vadd 3 (BitVec.ofNat 6 r) 2 0 0 0) r) := by
  refine ⟨⟨by decide +kernel, by decide +kernel⟩, ⟨by decide +kernel, by decide +kernel⟩, fun r hr => ?_⟩
  simp only [List.mem_cons, List.not_mem_nil, or_false] at hr
  rcases hr with rfl | rfl | rfl <;> exact ⟨by decide +kernel, by decide +kernel⟩

/-- Two tiles are granted; g5 is an address whose rows cross a page, g6 and g7 are slice numbers. -/
def tiled (vl : Nat) : State :=
  (strip (withRegs [(5, 0x30F80), (6, 127), (7, 95)]) vl 3 0).modHart (fun h => { h with tiles := [0, 0] })

/-- The pieces of a row at an address under the identity map. -/
def piecesAt (va : Nat) : List (Nat × Nat) :=
  if 384 ≤ 4096 - va % 4096 then [(va, 384)] else [(va, 4096 - va % 4096), (va + (4096 - va % 4096), 384 - (4096 - va % 4096))]
/-- Row i of tile accesses at g5. -/
def rowVa (i : Nat) : Nat := 0x30F80 + 384 * i
def rowPieces (i : Nat) : List (Nat × Nat) := piecesAt (rowVa i)

theorem undamaged {s : State} (hp : s.poison = []) (ht : s.transit = []) (h : Hart) (loc : Nat) :
    s.readsDamaged h none loc = false := by
  simp [State.readsDamaged, State.damagedAt, State.poisonedAt, State.transitAt, hp, ht]

/-- The row at an address lies where `rowPieces` says. -/
def rowB (acc : Acc) (va : Word) (n : Nat) : Bool :=
  decide (va.toNat = n) && decide ((tiled 4).xlate .vector acc va = .at n false)
  && (decide (384 ≤ 4096 - n % 4096)
    || decide ((tiled 4).xlate .vector acc (va + BitVec.ofNat 64 (4096 - n % 4096)) = .at (n + (4096 - n % 4096)) false))

theorem row_of {acc : Acc} {va : Word} {n : Nat} (h : rowB acc va n = true) : RowAt (tiled 4) acc va (piecesAt n) := by
  simp only [rowB, Bool.and_eq_true, decide_eq_true_eq, Bool.or_eq_true] at h
  unfold RowAt piecesAt
  simp only [h.1.1]
  split
  · exact ⟨_, _, rfl, h.1.2⟩
  · exact ⟨_, _, _, _, rfl, h.1.2, h.2.resolve_left ‹_›⟩

/-- The rows of tile accesses, as words. -/
@[irreducible] def rowAddress (i : Nat) : Word := (tiled 4).hart.gget 5 + BitVec.ofNat 64 (384 * i)

theorem rowAddress_eq (i : Nat) : rowAddress i = (tiled 4).hart.gget 5 + BitVec.ofNat 64 (384 * i) := by unfold rowAddress; rfl

theorem rows_load : (List.range 128).all
    (fun i => rowB .load (rowAddress i) (rowVa i)) = true := by decide +kernel
theorem rows_store : (List.range 128).all
    (fun i => rowB .store (rowAddress i) (rowVa i)) = true := by decide +kernel

theorem row_load {i : Nat} (hi : i < 128) : RowAt (tiled 4) .load (rowAddress i) (rowPieces i) :=
  row_of (List.all_eq_true.mp rows_load i (List.mem_range.mpr hi))

theorem row_store {i : Nat} (hi : i < 128) : RowAt (tiled 4) .store (rowAddress i) (rowPieces i) :=
  row_of (List.all_eq_true.mp rows_store i (List.mem_range.mpr hi))

theorem witness_TilesAreGrantedClearedMovedAndStored :
    (Alone prog (.mattach 4) [] ∧ Alone (tiled 4) .mdetach [] ∧ (tiled 4).hart.tiles.length = 2)
    ∧ (Alone (tiled 4) (.mzero 1) [] ∧ Alone (tiled 4) (.mzero 2) [] ∧ (tiled 4).hart.trapvec ≠ 0)
    ∧ (((tiled 96).hart.gget 6).toNat ≤ 127 ∧ vlNow (tiled 96) ≤ 96 ∧ vlNow (tiled 96) * 32 ≤ roomNow (tiled 96)
      ∧ Alone (tiled 96) (.mrowv 1 4 6) [4] ∧ Alone (tiled 96) (.mvrow 1 4 6) [4])
    ∧ (((tiled 128).hart.gget 7).toNat ≤ 95 ∧ vlNow (tiled 128) ≤ 128 ∧ vlNow (tiled 128) * 32 ≤ roomNow (tiled 128)
      ∧ Alone (tiled 128) (.mcolv 1 4 7) [4])
    ∧ (((tiled 4).hart.gget 5).toNat % 64 = 0 ∧ Room (tiled 4) ((List.range 128).filter (rowOn (tiled 4))).length
      ∧ Alone (tiled 4) (.mtst 1 5) [] ∧ Alone (tiled 4) (.mtld 1 5) []
      ∧ ∀ i ∈ (List.range 128).filter (rowOn (tiled 4)), RowAt (tiled 4) .store (rowAddress i) (rowPieces i)
          ∧ RowAt (tiled 4) .load (rowAddress i) (rowPieces i)
          ∧ ∀ j < 384, (tiled 4).readsDamaged (older (tiled 4)) none (rowByte (rowPieces i) j) = false) := by
  refine ⟨⟨alone_of (by decide +kernel), alone_of (by decide +kernel), by decide +kernel⟩,
    ⟨alone_of (by decide +kernel), alone_of (by decide +kernel), by decide +kernel⟩,
    ⟨by decide +kernel, by decide +kernel, by decide +kernel, alone_of (by decide +kernel), alone_of (by decide +kernel)⟩,
    ⟨by decide +kernel, by decide +kernel, by decide +kernel, alone_of (by decide +kernel)⟩,
    by decide +kernel, room_of (by decide +kernel), alone_of (by decide +kernel), alone_of (by decide +kernel), ?_⟩
  intro i hi
  have h : i < 128 := List.mem_range.mp (List.mem_filter.mp hi).1
  exact ⟨row_store h, row_load h, fun _ _ => undamaged (by decide +kernel) (by decide +kernel) _ _⟩

/-- No tile 2 is granted; g7 is a slice number that every word takes. -/
theorem witness_TilesNotGranted :
    (tiled 4).hart.tiles.length ≤ (2 : BitVec 2).toNat ∧ (tiled 4).hart.trapvec ≠ 0 ∧ vlNow (tiled 4) ≤ 96
    ∧ vlNow (tiled 4) * 32 ≤ roomNow (tiled 4) ∧ ((tiled 4).hart.gget 7).toNat ≤ 95
    ∧ (∀ i ∈ [Instr.mzero 2, .mrowv 2 4 7, .mcolv 2 4 7, .mvrow 2 4 7, .mtst 2 7, .mtld 2 7], Alone (tiled 4) i [4]) :=
  ⟨by decide +kernel, by decide +kernel, by decide +kernel, by decide +kernel, by decide +kernel, fun i hi => alone_of
    (List.all_eq_true.mp (by decide +kernel : List.all _ (fun i => aloneB (tiled 4) i [4]) = true) i hi)⟩

/-- The same with MSCALE: EN, scale registers v8 and v9, 3 columns under p3. -/
def scaledTile : State := (tiled 4).modHart (fun h => { h with mscale := 0x23031248 })

theorem witness_OuterProductsAddOneExactDotProduct :
    (∀ f ∈ [(0 : BitVec 4), 1, 2, 3, 4, 5, 6, 7, 8],
      f.toNat < 9 ∧ vlNow scaledTile * (operandShape f.toNat).1 ≤ roomNow scaledTile
      ∧ 3 * (operandShape f.toNat).1 ≤ roomNow scaledTile)
    ∧ scaledTile.hart.mscale.toNat / 2 ^ 16 % 128 = 3
    ∧ ((0 : BitVec 2).toNat % 2 = 0 ∧ (0 : BitVec 2).toNat + 1 < scaledTile.hart.tiles.length) ∧ vlNow scaledTile ≤ 128
    ∧ (scaledTile.hart.mscale.getLsbD 12 = true ∧ scaledTile.hart.mscale.getLsbD 29 = true
      ∧ scaledTile.hart.mscale.toNat % 64 < 48 ∧ scaledTile.hart.mscale.toNat / 64 % 64 < 48 ∧ scaledTile.hart.binds = [])
    ∧ Alone scaledTile (.mxacc 0 1 2 0 0 8 1) [1, 2] ∧ Alone scaledTile (.mxsub 0 1 2 0 0 1 0) [1, 2]
    -- tiles 2 and 3 are not granted
    ∧ (scaledTile.hart.trapvec ≠ 0 ∧ scaledTile.hart.tiles.length ≤ 2 ∧ Alone scaledTile (.mxacc 2 1 2 0 0 8 1) [1, 2]
      ∧ Alone scaledTile (.mxsub 2 1 2 0 0 1 0) [1, 2]) :=
  ⟨by decide +kernel, by decide +kernel, by decide +kernel, by decide +kernel, by decide +kernel, alone_of (by decide +kernel),
    alone_of (by decide +kernel), by decide +kernel, by decide +kernel, alone_of (by decide +kernel), alone_of (by decide +kernel)⟩

/-! ### Engines and synchronisation -/

theorem calm_of {s : State} (start : s.cur < Config.harts ∧ (s.hart.sup = true ∨ s.hart.queue = []))
    (empty : s.hart.held = [] ∧ s.hart.waiting = [] ∧ s.hart.wait = none) : Calm s :=
  { quiet := ⟨start.1, start.2⟩, held := empty.1, waiting := empty.2.1, free := empty.2.2 }

/-- What `ReadsBytes` asks of the dword at offset j, where its bytes lie at one place in physical memory. -/
abbrev DwordChecks (s : State) (va : Word) (bs : List Byte) (j : Nat) : Prop :=
  (va + BitVec.ofNat 64 (8 * j)).toNat % 8 = 0
  ∧ s.xlate .scalar .load (va + BitVec.ofNat 64 (8 * j)) = .at (va.toNat + 8 * j) false
  ∧ (∀ k < 8, s.readsDamaged s.hart none (va.toNat + 8 * j + k) = false)
  ∧ Memory.reads (s.view s.hart) (va.toNat + 8 * j) 8 = (bs.drop (8 * j)).take 8

theorem readsBytes_of {s : State} {va : Word} {bs : List Byte}
    (h : ∀ j < bs.length, 8 * j < bs.length → DwordChecks s va bs j) : ReadsBytes s va bs := fun j hj =>
  let ⟨aligned, place, whole, bytes⟩ := h j (by omega) hj
  ⟨_, ⟨aligned, false, place⟩, whole, bytes⟩

/-- Timeline 3 holds VALUE 5; timeline 4095 and 65,535 in other registers; a descriptor lies at 0x30000. -/
def timed (tl : Nat) : State :=
  let s := withBytes (strip (withRegs [(5, 0x30000), (6, BitVec.ofNat 64 tl), (7, 5), (8, 6), (9, BitVec.ofNat 64 (tl + 2 ^ 16 * 4)),
    (10, BitVec.ofNat 64 (tl * 2 ^ 48 + 64)), (11, BitVec.ofNat 64 (tl * 2 ^ 48))]) 4 4 0) 0x30000
    (descriptorBytes 0x40000 64 0x50000 64 0x60000 4 64 tl 0 (List.replicate 8 0))
  { s with timelines := [(3, { value := 5, next := 5, err := false, ecode := 0, ekind := 0, eticket := 0, eaddr := 0, done := [] })] }

/-- The same with a descriptor that CPYG takes, whose index fields are zero. -/
def timedRows (tl : Nat) : State :=
  withBytes (timed tl) 0x30000 (descriptorBytes 0x40000 64 0x50000 64 0 0 64 tl 0 (List.replicate 8 0))

/-- The same where the strip has no element. -/
def noRow : State := strip (timedRows 3) 0 4 0

theorem witness_TimelinesCountAndCopiesAreIssued :
    (∀ n ∈ [3, 4095, 0xFFFF], Calm (timed n) ∧ timelineOk n ∧ ((timed n).hart.gget 6).toNat = n
      ∧ ((timed n).hart.gget 9).toNat = n + 2 ^ 16 * 4 ∧ ((timed n).hart.gget 10).toNat / 2 ^ 48 = n
      ∧ ((timed n).hart.gget 10).toNat % 2 ^ 48 = 64 ∧ ((timed n).hart.gget 11).toNat % 2 ^ 48 = 0)
    ∧ (((timed 3).hart.gget 7).toNat ≤ ((timed 3).timeline 3).value.toNat
      ∧ ((timed 3).timeline 3).value.toNat < ((timed 3).hart.gget 8).toNat
      ∧ ((timed 3).timeline 3).value = ((timed 3).timeline 3).next ∧ ((timed 3).timeline 3).done = [])
    ∧ (((timed 3).hart.gget 5).toNat % 64 = 0 ∧ Reaches (timed 3) .load ((timed 3).hart.gget 5) 8 0x30000 ∧ recordPlace 0x30000
      ∧ ReadsBytes (timed 3) ((timed 3).hart.gget 5)
          (descriptorBytes 0x40000 64 0x50000 64 0x60000 4 64 3 0 (List.replicate 8 0)))
    ∧ (∀ s ∈ [timedRows 3, noRow], Finds s .load (s.hart.gget 5) 64 0x30000 ∧ sound s 0x30000 64
      ∧ Memory.reads (s.view s.hart) 0x30000 64 = descriptorBytes 0x40000 64 0x50000 64 0 0 64 3 0 (List.replicate 8 0)
      ∧ Calm s ∧ Alone s (.cpyg 4 5 1) [1] ∧ 1 ≤ ewNow s ∧ ewNow s ≤ 4)
    ∧ (liveList (timedRows 3) ≠ [] ∧ liveList noRow = [])
    ∧ (¬timelineOk 4096 ∧ ((timed 4096).hart.gget 6).toNat = 4096 ∧ ((timed 4096).hart.gget 10).toNat / 2 ^ 48 = 4096
      ∧ Calm (timed 4096) ∧ (timed 4096).hart.trapvec ≠ 0) := by
  refine ⟨fun n hn => ?_, by decide +kernel, ⟨by decide +kernel, reaches_of (dev := false) (by decide +kernel), Or.inl (by decide +kernel),
    readsBytes_of (by decide +kernel)⟩, ?_, by decide +kernel, by unfold timelineOk; omega, by decide +kernel, by decide +kernel,
    calm_of (by decide +kernel) (by decide +kernel), by decide +kernel⟩
  rotate_left
  · intro s hs
    simp only [List.mem_cons, List.not_mem_nil, or_false] at hs
    rcases hs with rfl | rfl <;>
      exact ⟨finds_of (dev := false) (by decide +kernel), by unfold sound; decide +kernel, by decide +kernel,
        calm_of (by decide +kernel) (by decide +kernel), alone_of (by decide +kernel), by decide +kernel, by decide +kernel⟩
  rcases List.mem_cons.mp hn with rfl | hn
  · exact ⟨calm_of (by decide +kernel) (by decide +kernel), by unfold timelineOk; omega, by decide +kernel⟩
  rcases List.mem_cons.mp hn with rfl | hn
  · exact ⟨calm_of (by decide +kernel) (by decide +kernel), by unfold timelineOk; omega, by decide +kernel⟩
  · obtain rfl := List.mem_singleton.mp hn
    exact ⟨calm_of (by decide +kernel) (by decide +kernel), by unfold timelineOk; omega, by decide +kernel⟩

/-- Where the descriptor's status words are written. -/
theorem witness_StatusOfNoRow :
    noRow.bars = [] ∧ Memory.wf noRow.mem = true
    ∧ noRow.translate (noRow.cur / 4) (noRow.rootOfSerial (serialNow noRow)) false .engine .store (noRow.hart.gget 5 + 0x34)
        = .at 0x30034 false := by decide +kernel

/-- Zone 2 of core 0: slot 0 ARRIVED, slot 1 FAILED, slot 2 FREE; two messages counted. -/
def zone2 : Zone :=
  let e : Slot := { state := .free, gen := 1, len := 64, owner := none, want := 64, landed := [] }
  { base := 0x1000, slotSize := 64, slots := [{ e with state := .arrived }, { e with state := .failed }, e], arrived := 1, failed := 1 }

/-- A device with zone 2 declared, whose slots are as given. -/
def zoned (slots : List Slot) : State :=
  { withRegs [(5, 2), (6, 0xC00000002000), (7, 64 + 2 ^ 32 * 4), (8, 2), (9, 3), (10, 0x100), (11, 0x2000000 + 2 ^ 32 * 0xFFFF),
      (12, 0x30000), (13, 64 + 2 ^ 32 * 1 + 2 ^ 48 * 7), (14, 0), (15, 0), (16, 1),
      (17, 2 ^ 20 + 1 + 2 ^ 32 * 1 + 2 ^ 48 * 7)] with
    cores := prog.cores.set 0 { prog.core 0 with zones := (prog.core 0).zones.set 2 (some { zone2 with slots := slots }) }
    paths := [((0, 0, 2), (1, 7), 31)] }

def target0 : Target := { dev := 0, core := 0, zone := 2, ladder := false, tl := 0xFFFF }

theorem zoned_bytes (q : Nat) (hq : q < 64) : (zoned []).translate ((zoned []).cur / 4) ((zoned []).rootOf (zoned []).hart) false
    .kite .load ((zoned []).hart.gget 12 + BitVec.ofNat 64 q) = .at (0x30000 + q) false := by
  have h : ∀ q < 64, (zoned []).translate ((zoned []).cur / 4) ((zoned []).rootOf (zoned []).hart) false
    .kite .load ((zoned []).hart.gget 12 + BitVec.ofNat 64 q) = .at (0x30000 + q) false := by decide +kernel
  exact h q hq

theorem witness_ZonesAreDeclaredFilledAndReleased :
    (Calm (zoned []) ∧ ((zoned []).hart.gget 5).toNat = 2 ∧ zoneNow (zoned []) 2 = some { zone2 with slots := [] }
      ∧ (zoned []).hart.gget 14 = 0 ∧ ((zoned []).hart.gget 7).toNat = 64 + 2 ^ 32 * 4
      ∧ ((zoned []).hart.gget 6).toNat = 0xC00000000000 + 0x2000 ∧ ∀ i < 8, i ≠ 2 → zoneNow (zoned []) i = none)
    ∧ (Calm (zoned zone2.slots) ∧ zoneNow (zoned zone2.slots) 2 = some zone2
      ∧ ((zoned zone2.slots).hart.gget 8).toNat ≤ (zone2.arrived + zone2.failed).toNat
      ∧ (zone2.arrived + zone2.failed).toNat < ((zoned zone2.slots).hart.gget 9).toNat
      ∧ ((zoned zone2.slots).hart.gget 8).toNat < 256
      ∧ (zone2.slots[((zoned zone2.slots).hart.gget 15).toNat]?.map (·.state)) = some .arrived
      ∧ (zone2.slots[((zoned zone2.slots).hart.gget 16).toNat]?.map (·.state)) = some .failed
      ∧ (zone2.slots[((zoned zone2.slots).hart.gget 8).toNat]?.map (·.state)) = some .free
      ∧ (zoned zone2.slots).hart.gget 10 = 0x100)
    ∧ (target0.isWord ((zoned []).hart.gget 11) ∧ (zoned []).pathTo 0 = some 31
      ∧ Reaches (zoned []) .store ((zoned []).hart.gget 12) 8 0x30000 ∧ recordPlace 0x30000)
    ∧ (((zoned []).hart.gget 13).toNat = 64 + 2 ^ 32 * 1 + 2 ^ 48 * 7 ∧ (zoned []).pathOfSlot 0 0 2 1 7 = some 31
      ∧ (zoned []).transit = [] ∧ sentLength 0 64 16 false ≤ 2 ^ 20
      ∧ ∀ p < 4, ∀ q < readSize 0 64 (blockNow (zoned [])) false p, ∃ loc dev,
          (zoned []).translate ((zoned []).cur / 4) ((zoned []).rootOf (zoned []).hart) false .kite .load
            ((zoned []).hart.gget 12 + BitVec.ofNat 64 p * (zoned []).hart.vpstr + BitVec.ofNat 64 q) = .at loc dev
          ∧ (zoned []).damagedAt loc = false ∧ Memory.read (zoned []).mem loc = 0)
    ∧ (((zoned []).hart.gget 17).toNat = 2 ^ 20 + 1 + 2 ^ 32 * 1 + 2 ^ 48 * 7
      ∧ 2 ^ 20 < sentLength 0 (2 ^ 20 + 1) 16 false) := by
  refine ⟨⟨calm_of (by decide +kernel) (by decide +kernel), by decide +kernel⟩,
    ⟨calm_of (by decide +kernel) (by decide +kernel), by decide +kernel⟩,
    ⟨by unfold Target.isWord timelineOk target0; decide +kernel, by decide +kernel, reaches_of (dev := false) (by decide +kernel),
      Or.inl (by decide +kernel)⟩,
    ⟨by decide +kernel, by decide +kernel, by decide +kernel, by decide +kernel, ?_⟩, by decide +kernel⟩
  intro p _ q hq
  have h0 : p = 0 ∧ q < 64 := by
    unfold readSize at hq
    by_cases hp : p = 0
    · exact ⟨hp, by simpa [hp] using hq⟩
    · simp [hp] at hq
  obtain ⟨rfl, hq⟩ := h0
  have hr : ∀ q < 64, Memory.read (zoned []).mem (0x30000 + q) = 0 := by decide +kernel
  have hd : ∀ q < 64, (zoned []).damagedAt (0x30000 + q) = false := by decide +kernel
  have hz : (zoned []).hart.gget 12 + BitVec.ofNat 64 0 * (zoned []).hart.vpstr = (zoned []).hart.gget 12 := by simp
  exact ⟨0x30000 + q, false, by rw [hz]; exact zoned_bytes q hq, hd q hq, hr q hq⟩

/-- A launch record at 0x30000, and a barrier record at 0x30100. -/
def record0 : LRecord :=
  { entry := 0x20000, param := 1, compl := 0x40000, w0val := 0, w1val := 0, w0tl := 0xFFFF, w1tl := 4095, ctl := 3, gsize := 16
    prio := 7, gcount := 2 ^ 24, flags := 7, tag := 9 }
def barrierBytes (count arrived phase tag : Nat) : List Byte :=
  leBytes 4 count ++ leBytes 4 arrived ++ leBytes 4 phase ++ leBytes 2 tag ++ [0, 0]

/-- A pool with n launches, a ring with m entries, and the barrier record. -/
def meeting (n m arrived : Nat) (bar : List Byte) : State :=
  let s := withBytes (withBytes (withRegs [(5, 0x30000), (6, 0x30100), (7, 1), (8, 17), (9, 0xFFFF)]) 0x30000 (launchBytes record0))
    0x30100 bar
  let g := { gang0 with arrived := BitVec.ofNat 5 arrived, ranks := [.on 0, .on 4]
                        ring := (List.range m).map (fun k => (BitVec.ofNat 64 (k + 1), 5)) }
  { s with launches := { launch0 with gangs := [g] } :: List.replicate n { launch0 with serial := 2, state := .pending, inPool := true } }

theorem launchable_record0 : Launchable record0 :=
  ⟨by decide, by decide, by decide, ⟨by unfold timelineOk; decide, by unfold timelineOk; decide, by unfold timelineOk; decide⟩,
    by decide, by decide, by decide, by decide, by decide, by decide⟩

theorem barrier_of {s : State} {loc count arrived phase tag : Nat}
    (bytes : Memory.reads s.mem loc 16
      = leBytes 4 count ++ leBytes 4 arrived ++ leBytes 4 phase ++ leBytes 2 tag ++ [0, 0])
    (whole : ∀ k < 16, s.readsDamaged s.hart none (loc + k) = false)
    (sized : count < 2 ^ 32 ∧ arrived < 2 ^ 32 ∧ phase < 2 ^ 32 ∧ tag < 2 ^ 16) : Barrier s loc count arrived phase tag :=
  { bytes := ⟨_, bytes⟩, sound := whole, sized }

theorem witness_LaunchesRingsAndBarriersMeet :
    (let s := meeting 0 0 0 []
     Calm s ∧ (s.hart.gget 5).toNat % 64 = 0 ∧ ReadsBytes s (s.hart.gget 5) (launchBytes record0) ∧ Launchable record0
     ∧ poolHeld s < Config.poolSize ∧ s.hart.slotRes = false)
    ∧ (Calm (meeting Config.poolSize 0 0 []) ∧ ¬poolHeld (meeting Config.poolSize 0 0 []) < Config.poolSize
      ∧ (meeting Config.poolSize 0 0 []).hart.slotRes = false ∧ Launchable record0 ∧ ReadsBytes (meeting Config.poolSize 0 0 []) ((meeting Config.poolSize 0 0 []).hart.gget 5) (launchBytes record0))
    ∧ (let s := (meeting 0 0 0 []).modHart (fun h => { h with slotRes := true }); Calm s ∧ s.hart.slotRes = true)
    ∧ (let s := meeting 0 16 1 []
       Calm s ∧ s.hart.place = some place0
       ∧ (s.gangOf s.hart).map (fun g => (g.ring.length, g.arrived.toNat, g.ranks.length)) = some (16, 1, 2)
       ∧ (s.gangOf s.hart).bind (fun g => g.ring.find? (fun e => decide (e.1 = s.hart.gget 7))) = some (s.hart.gget 7, 5)
       ∧ ∀ x ∈ s.contexts, x.wait = none)
    ∧ (let s := meeting 0 15 0 []
       Calm s ∧ (s.gangOf s.hart).map (fun g => (g.ring.length, g.arrived.toNat, g.ranks.length)) = some (15, 0, 2)
       ∧ (s.gangOf s.hart).map (fun g => g.ring.all (fun e => e.1 != s.hart.gget 8)) = some true)
    ∧ (let s := meeting 0 0 0 (barrierBytes 2 0 9 0xBA7E)
       Calm s ∧ (s.hart.gget 6).toNat % 16 = 0 ∧ s.xlate .scalar .store (s.hart.gget 6) = .at 0x30100 false ∧ recordPlace 0x30100
       ∧ Memory.wf s.mem = true ∧ (s.hart.gget 9).toNat < 2 ^ 16 ∧ Barrier s 0x30100 2 0 9 0xBA7E ∧ 0 + 1 < 2)
    ∧ Barrier (meeting 0 0 0 (barrierBytes 2 1 0xFFFFFFFF 0xBA7E)) 0x30100 2 1 0xFFFFFFFF 0xBA7E
    ∧ Barrier (meeting 0 0 0 (barrierBytes 2 2 9 0xBA7E)) 0x30100 2 2 9 0xBA7E
    ∧ Barrier (meeting 0 0 0 (barrierBytes 2 0 9 0)) 0x30100 2 0 9 0 := by
  refine ⟨⟨calm_of (by decide +kernel) (by decide +kernel), by decide +kernel, readsBytes_of (by decide +kernel), launchable_record0, ?_, by decide +kernel⟩,
    ⟨calm_of (by decide +kernel) (by decide +kernel), ?_, by decide +kernel, launchable_record0, readsBytes_of (by decide +kernel)⟩,
    ⟨calm_of (by decide +kernel) (by decide +kernel), by decide +kernel⟩,
    ⟨calm_of (by decide +kernel) (by decide +kernel), by decide +kernel, by decide +kernel, by decide +kernel, by decide +kernel⟩,
    ⟨calm_of (by decide +kernel) (by decide +kernel), by decide +kernel, by decide +kernel⟩,
    ⟨calm_of (by decide +kernel) (by decide +kernel), by decide +kernel, by decide +kernel, Or.inl (by decide +kernel), by decide +kernel, by decide +kernel,
      barrier_of (by decide +kernel) (by decide +kernel) (by decide), by decide⟩,
    barrier_of (by decide +kernel) (by decide +kernel) (by decide), barrier_of (by decide +kernel) (by decide +kernel) (by decide), barrier_of (by decide +kernel) (by decide +kernel) (by decide)⟩
  · decide +kernel
  · decide +kernel

/-! ### Tokens and text -/

/-- Loads of a range of addresses find the bytes `off` further on in physical memory, undamaged: a check. -/
def seesB (s : State) (who : Who) (off lo hi : Nat) : Bool :=
  (List.range (hi - lo)).all (fun k => decide (s.xlate who .load (BitVec.ofNat 64 (lo + k)) = .at (lo + k + off) false)
    && !s.readsDamaged s.hart none (lo + k + off))

/-- The bytes that lie `off` further on. -/
def bytesOf (s : State) (off va : Nat) : Byte := Memory.read (s.view s.hart) (va + off)

/-- With nothing held, a vector load looks behind nothing. -/
theorem older_idle {s : State} (empty : s.hart.held = [] ∧ s.hart.waiting = []) : older s = s.hart := by
  simp [older, Hart.upTo, Hart.entries, empty]

theorem sees_of {s : State} {who : Who} {off lo hi : Nat} (empty : s.hart.held = [] ∧ s.hart.waiting = [])
    (h : seesB s who off lo hi = true) : Sees s who (bytesOf s off) lo hi := by
  intro va n hn h1 h2 _
  have key : ∀ k, lo ≤ k → k < hi → s.xlate who .load (BitVec.ofNat 64 k) = .at (k + off) false
      ∧ s.readsDamaged s.hart none (k + off) = false := by
    intro k hk1 hk2
    have h := List.all_eq_true.mp h (k - lo) (List.mem_range.mpr (by omega))
    rw [show lo + (k - lo) = k by omega] at h
    simpa only [Bool.and_eq_true, decide_eq_true_eq, Bool.not_eq_true'] using h
  have hpos : 0 < n := by
    simp only [List.mem_cons, List.not_mem_nil, or_false] at hn
    omega
  refine ⟨va + off, false, (key va h1 (by omega)).1, fun k hk => ?_⟩
  rw [older_idle empty, ite_self, show va + off + k = va + k + off by omega]
  exact ⟨(key (va + k) (by omega) (by omega)).2, rfl⟩

/-- Under the identity map, with no damage and nothing held, every range of the first GiB is seen. -/
theorem sees_identity {s : State} (empty : s.hart.held = [] ∧ s.hart.waiting = []) (h : identityB s = true) (who : Who)
    (lo hi : Nat) (hh : hi ≤ 2 ^ 30) : Sees s who (bytesOf s 0) lo hi := by
  intro va n hn h1 h2 _
  have hp : 0 < n := by
    simp only [List.mem_cons, List.not_mem_nil, or_false] at hn
    omega
  refine ⟨va, false, xlate_identity h who .load va (by omega), fun k _ => ?_⟩
  simp only [identityB, Bool.and_eq_true, decide_eq_true_eq, List.isEmpty_iff] at h
  rw [older_idle empty, ite_self]
  exact ⟨by simp [State.readsDamaged, State.damagedAt, State.poisonedAt, State.transitAt, h.1.1.1.2, h.1.1.2], rfl⟩

/-- A sampling record at 0x30000: inverse temperature 1, top-p off, and the draw 2^31 given. Of the logits 2, 1, −1 and 4,
that draw takes element 3. -/
def sampling : State :=
  withBytes (vec 4 3 0) 0x30000 (List.replicate 24 0 ++ leBytes 4 0x3F800000 ++ leBytes 4 0 ++ leBytes 4 0x80000000 ++ leBytes 4 1
    ++ List.replicate 24 0)

/-- The same with a draw field that names no source, and with a strip of no element. -/
def misdrawing : State := withBytes sampling 0x30024 (leBytes 4 2)
def drawless : State := strip sampling 0 3 0

/-- A penalty record at 0x30000 for a vocabulary of 2: bitmap, counts and a path of one token behind it. Token 0 of v2 is
beyond the vocabulary. -/
def penalising : State :=
  withBytes (vec 4 3 0) 0x30000 (leBytes 8 0x30100 ++ leBytes 8 0x30200 ++ leBytes 8 0x30300 ++ leBytes 4 1 ++ leBytes 4 2
    ++ leBytes 4 0x3F800000 ++ leBytes 4 0x3F000000 ++ leBytes 4 0x3F000000 ++ List.replicate 20 0)

/-- A vocabulary record at 0x30000 whose table of one bucket begins the local scratchpad. -/
def looking : State :=
  withBytes (vec 4 3 0) 0x30000 (leBytes 8 0xC00000000000 ++ leBytes 4 1 ++ leBytes 4 1 ++ List.replicate 48 0)

/-- Where the bytes of `looking` lie. -/
def lookBytes (va : Nat) : Byte :=
  if 0xC00000000000 ≤ va then bytesOf looking (Config.spadLoc - 0xC00000000000) va else bytesOf looking 0 va

theorem witness_TokensAreDrawnPenalisedAndLookedUp :
    (let s := sampling
     let m := bytesOf s 0
     let f := fun o n => numAt m (0x30000 + o) n
     let x := fun k => decodeF fp32 (el s 32 1 k)
     let invt := decodeF fp32 (f 0x18 4)
     let is := (List.range (vlNow s)).filter (fun k => live s k && decide (x k ≠ .nan) && decide (x k ≠ .inf true))
     let sum := fun n => ((is.take n).map (fun i => weightOf (x 3) invt (x i))).sum
     (s.hart.gget 5).toNat = 0x30000 ∧ Sees s .vector m 0x30000 (0x30000 + 64) ∧ ewNow s = 3 ∧ fmtNow s = 0
     ∧ Alone s (.vsample 4 1 2 5) [1, 2] ∧ is = [0, 1, 2, 3] ∧ (∀ i ∈ is, ltVal (x 3) (x i) = false)
     ∧ ¬(invt = .nan ∨ ltVal invt (.fin false 0 0) = true ∨ 1 < f 0x24 4 ∨ f 0x28 8 ≠ 0 ∨ f 0x30 8 ≠ 0 ∨ f 0x38 8 ≠ 0)
     ∧ f 0x24 4 = 1 ∧ f 0x20 4 = 2 ^ 31 ∧ f 0x1C 4 = 0 ∧ sum 4 * 2 ^ 31 / 2 ^ 32 < sum 4
     ∧ (∀ n < 4, 1 ≤ n → sum n ≤ sum 4 * 2 ^ 31 / 2 ^ 32) ∧ is[4 - 1]? = some 3)
    ∧ (∀ s ∈ [misdrawing, drawless], (s.hart.gget 5).toNat = 0x30000 ∧ Sees s .vector (bytesOf s 0) 0x30000 (0x30000 + 64)
     ∧ ewNow s = 3 ∧ fmtNow s = 0 ∧ Alone s (.vsample 4 1 2 5) [1, 2])
    ∧ 1 < numAt (bytesOf misdrawing 0) (0x30000 + 0x24) 4 ∧ vlNow drawless = 0
    ∧ (let s := penalising
       let m := bytesOf s 0
       let f := fun o n => numAt m (0x30000 + o) n
       takesFloats s ∧ ewNow s = 3 ∧ vlNow s * 32 ≤ roomNow s ∧ Alone s (.vpen 1 2 5) [1, 2] ∧ Sees s .vector m 0x30000 (0x30000 + 64)
       ∧ (f 0 8, f 8 8, f 0x10 8, f 0x18 4, f 0x1C 4) = (0x30100, 0x30200, 0x30300, 1, 2)
       ∧ (f 0x2C 4, f 0x30 8, f 0x38 8) = (0, 0, 0) ∧ Sees s .vector m 0x30300 (0x30300 + 4 * 1)
       ∧ (∀ t < 2, Sees s .vector m (0x30100 + t / 8) (0x30100 + t / 8 + 1) ∧ Sees s .vector m (0x30200 + 2 * t) (0x30200 + 2 * t + 2))
       ∧ ¬el s 32 2 0 < 2 ∧ el s 32 2 1 < 2)
    ∧ (let s := looking
       let f := fun o n => numAt lookBytes (0x30000 + o) n
       vlNow s * 64 ≤ roomNow s ∧ [(4 : BitVec 6), 1, 6].Nodup ∧ Alone s (.vhlook 4 1 6 5) [4, 1, 6]
       ∧ Sees s .vector lookBytes 0x30000 (0x30000 + 64) ∧ (f 0 8, f 8 4, f 12 4) = (0xC00000000000, 1, 1)
       ∧ (∀ k, 2 ≤ k → k < 8 → f (8 * k) 8 = 0) ∧ Sees s .vector lookBytes 0xC00000000000 (0xC00000000000 + 128 * 1)) := by
  refine ⟨⟨by decide +kernel, sees_identity (by decide +kernel) (by decide +kernel) _ _ _ (by omega), by decide +kernel, by decide +kernel, alone_of (by decide +kernel),
      by decide +kernel⟩, ?_, by decide +kernel, by decide +kernel,
    ⟨by unfold takesFloats; decide +kernel, by decide +kernel, by decide +kernel, alone_of (by decide +kernel),
      sees_identity (by decide +kernel) (by decide +kernel) _ _ _ (by omega), by decide +kernel, by decide +kernel,
      sees_identity (by decide +kernel) (by decide +kernel) _ _ _ (by omega), fun t ht => ?_,
      by decide +kernel, by decide +kernel⟩,
    ⟨by decide +kernel, by decide, alone_of (by decide +kernel), ?_, by decide +kernel, fun k h1 h2 => ?_, ?_⟩⟩
  · intro s hs
    simp only [List.mem_cons, List.not_mem_nil, or_false] at hs
    rcases hs with rfl | rfl <;>
      exact ⟨by decide +kernel, sees_identity (by decide +kernel) (by decide +kernel) _ _ _ (by omega), by decide +kernel,
        by decide +kernel, alone_of (by decide +kernel)⟩
  · have h : identityB penalising = true := by decide +kernel
    exact ⟨sees_identity (by decide +kernel) h _ _ _ (by omega), sees_identity (by decide +kernel) h _ _ _ (by omega)⟩
  · have h : Sees looking .vector (bytesOf looking 0) 0x30000 (0x30000 + 64) :=
      sees_identity (by decide +kernel) (by decide +kernel) _ _ _ (by omega)
    intro va n hn h1 h2 h3
    obtain ⟨loc, dev, place, bytes⟩ := h va n hn h1 h2 h3
    exact ⟨loc, dev, place, fun k hk => ⟨(bytes k hk).1, by rw [(bytes k hk).2]; unfold lookBytes; rw [if_neg (by omega)]⟩⟩
  · have h : ∀ k < 8, 2 ≤ k → numAt lookBytes (0x30000 + 8 * k) 8 = 0 := by decide +kernel
    exact h k h2 h1
  · have h : Sees looking .vector (bytesOf looking (Config.spadLoc - 0xC00000000000)) 0xC00000000000 (0xC00000000000 + 128 * 1) :=
      sees_of (by decide +kernel) (by decide +kernel)
    intro va n hn h1 h2 h3
    obtain ⟨loc, dev, place, bytes⟩ := h va n hn h1 h2 h3
    exact ⟨loc, dev, place, fun k hk => ⟨(bytes k hk).1, by rw [(bytes k hk).2]; unfold lookBytes; rw [if_pos (by omega)]⟩⟩

/-- One state over two tokens: token 0 is the byte 61H, which pushes the symbol 5; token 1 is the end token. -/
def grammar0 : Grammar :=
  { nstates := 1, vocab := 2, endTok := 1, maxRise := 1, accept := fun _ => true, moves := fun _ => [(0x61, 0xFFFF, 1, 5, 0)]
    deps := fun _ => [], row := fun _ t => decide (t = 0), text := fun t => if t = 0 then [0x61] else [] }

/-- Its record at 0x30000, its image at 0x30400 and its detokenisation table at 0x30500; at 0x30600 a stop automaton of
one state that matches every byte, with its record at 0x30900: the bytes that are not zero. -/
def speakingCells : List Host.Cell :=
  [(0x30001, 4), (0x30002, 3), (0x30400, 0x31), (0x30401, 0x4D), (0x30402, 0x52), (0x30403, 0x47), (0x30404, 1), (0x30406, 1),
    (0x30408, 1), (0x3040C, 2), (0x30410, 1), (0x30414, 0x40), (0x30418, 0x40), (0x30420, 0x80), (0x30428, 0xC0), (0x30431, 5),
    (0x30432, 3), (0x30440, 1), (0x30458, 1), (0x30480, 1), (0x304C0, 0x61), (0x304C1, 0xFF), (0x304C2, 0xFF), (0x304C3, 1),
    (0x304C4, 5), (0x30500, 2), (0x30510, 0x40), (0x30514, 1), (0x30540, 0x61), (0x30600, 1), (0x30609, 5), (0x3060A, 3),
    (0x30610, 2), (0x30840, 1), (0x30901, 6), (0x30902, 3)]

/-- g6 to g8 hold the tokens 0, 1 and 7. -/
def speaking : State :=
  { strip (withRegs [(5, 0x30000), (7, 1), (8, 7), (9, 0x30900)]) 4 3 0 with mem := prog.mem ++ speakingCells }

/-- The bytes of `speaking`. -/
def spoken : Nat → Byte := bytesOf speaking 0

theorem speaking_identity : identityB speaking = true := by decide +kernel

/-- Bytes that no cell lists are zero. -/
theorem blank_of {s : State} {lo hi va n : Nat}
    (h : (s.view s.hart).all (fun c => decide (c.1 < lo) || decide (hi ≤ c.1)) = true) (h1 : lo ≤ va) (h2 : va + n ≤ hi) :
    numAt (bytesOf s 0) va n = 0 := by
  have hr : ∀ m : List Host.Cell, m.all (fun c => decide (c.1 < lo) || decide (hi ≤ c.1)) = true →
      ∀ k, lo ≤ k → k < hi → Memory.read m k = 0 := by
    intro m
    induction m with
    | nil => intro _ k _ _; rfl
    | cons c m ih =>
      intro hm k hk1 hk2
      simp only [List.all_cons, Bool.and_eq_true, Bool.or_eq_true, decide_eq_true_eq] at hm
      obtain ⟨a, b⟩ := c
      simp only at hm
      rw [Memory.read, if_neg (by omega)]
      exact ih hm.2 k hk1 hk2
  have hz : ∀ l : List Byte, (∀ x ∈ l, x = 0) → leNat l = 0 := by
    intro l
    induction l with
    | nil => intro _; rfl
    | cons x l ih => intro hx; simp [leNat, hx x (by simp), ih (fun y hy => hx y (by simp [hy]))]
  unfold numAt
  refine hz _ (fun x hx => ?_)
  simp only [List.mem_map, List.mem_range] at hx
  obtain ⟨k, hk, rfl⟩ := hx
  exact hr _ h _ (by omega) (by omega)

theorem spoken_sees (who : Who) (lo hi : Nat) (h : hi ≤ 2 ^ 30) : Sees speaking who spoken lo hi :=
  sees_identity (by decide +kernel) speaking_identity who lo hi h

theorem spoken_text (who : Who) : Spells (Sees speaking who spoken) spoken 0x30500 2 grammar0.text := by
  refine ⟨by decide, spoken_sees who _ _ (by omega), ⟨2, by decide, by decide, by decide, by decide +kernel, by decide +kernel⟩, ?_⟩
  have h : ∀ t < 2, (grammar0.text t).length ≤ 1
      ∧ numAt spoken (0x30500 + 16 + 8 * t) 8 = (if t = 0 then 0x40 else 0) + 2 ^ 32 * (grammar0.text t).length
      ∧ ∀ i < 1, ∀ b, (grammar0.text t)[i]? = some b → (spoken (0x30500 + (if t = 0 then 0x40 else 0) + i)).toNat = b := by
    have h : ∀ t < 2, (grammar0.text t).length ≤ 1
        ∧ numAt spoken (0x30500 + 16 + 8 * t) 8 = (if t = 0 then 0x40 else 0) + 2 ^ 32 * (grammar0.text t).length
        ∧ ∀ i < 1, (grammar0.text t)[i]?.map (fun b => decide ((spoken (0x30500 + (if t = 0 then 0x40 else 0) + i)).toNat = b))
            ≠ some false := by decide +kernel
    refine fun t ht => ⟨(h t ht).1, (h t ht).2.1, fun i hi b hb => ?_⟩
    have := (h t ht).2.2 i hi
    simpa [hb] using this
  intro t ht
  obtain ⟨h1, h2, h3⟩ := h t ht
  refine ⟨if t = 0 then 0x40 else 0, by split <;> omega, by omega, spoken_sees who _ _ (by omega), h2,
    spoken_sees who _ _ (by split <;> omega), fun i b hb => h3 i ?_ b hb⟩
  have := (List.getElem?_eq_some_iff.mp hb).1
  omega

theorem spoken_image (who : Who) : Depicts (Sees speaking who spoken) spoken 0x30400 grammar0 := by
  refine ⟨by decide, by decide, ⟨spoken_sees who _ _ (by omega), by decide +kernel, by decide +kernel, by decide +kernel,
    by decide +kernel⟩, 0x40, 0x80, 0xC0, 0x30500, by decide, by decide, by decide, by decide +kernel, by decide +kernel,
    by decide +kernel, by decide +kernel, spoken_text who, fun q hq => ⟨0, 0, ?_⟩⟩
  obtain rfl : q = 0 := by have : grammar0.nstates = 1 := rfl; omega
  refine ⟨spoken_sees who _ _ (by decide), by decide +kernel, by decide, by decide +kernel, by decide, by decide +kernel, by decide,
    by decide +kernel, by decide, spoken_sees who _ _ (by decide), by decide, fun i t h => by simp [grammar0] at h,
    spoken_sees who _ _ (by decide), fun i b sym act arg next h => ?_, fun t ht => ?_⟩
  · have hi : i = 0 := by
      have := (List.getElem?_eq_some_iff.mp h).1
      simp [grammar0] at this
      exact this
    subst hi
    simp only [grammar0, List.getElem?_cons_zero, Option.some.injEq, Prod.mk.injEq] at h
    obtain ⟨rfl, rfl, rfl, rfl, rfl⟩ := h
    decide +kernel
  · have h : ∀ t < 2, grammar0.row 0 t = decide ((spoken (0x30480 + t / 8)).toNat / 2 ^ (t % 8) % 2 = 1) := by decide +kernel
    have ht2 : t < 2 := ht
    refine ⟨spoken_sees who _ _ ?_, h t ht2⟩
    have : ((grammar0.vocab + 7) / 8 + 63) / 64 * 64 * 0 = 0 := by simp
    rw [this]
    omega

theorem spoken_state (who : Who) : InState (Sees speaking who spoken) spoken 0x30000 grammar0 (0, []) := by
  refine ⟨by decide, spoken_sees who _ _ (by omega), ?_, by decide, ⟨0, by decide, by decide +kernel⟩, fun k h1 h2 => ?_,
    fun d y h => by simp at h⟩
  · have h : numAt spoken 0x30000 8 = 0x30400 := by decide +kernel
    rw [h]
    exact spoken_image who
  · have h : ∀ k < 8, 2 ≤ k → numAt spoken (0x30000 + 8 * k) 8 = 0 := by decide +kernel
    exact h k h2 h1

/-- Nothing is held, and there is room. -/
theorem storing_of {s : State} {n : Nat} (h : (decide (s.cur < 512) && !s.hart.sup && s.hart.queue.isEmpty
    && (s.hart.waiting.isEmpty && s.hart.held.isEmpty && decide (n ≤ capacity s))) = true) : Storing s n := by
  have h' := h
  simp only [Bool.and_eq_true, decide_eq_true_eq, Bool.not_eq_true'] at h
  exact ⟨quiet_of (by simp only [Bool.and_eq_true, Bool.or_eq_true, decide_eq_true_eq]; exact ⟨h.1.1.1, Or.inr h.1.2⟩), h.1.1.2,
    room_of (by simp only [Bool.and_eq_true, decide_eq_true_eq]; exact h.2)⟩

/-- Places of the first GiB that scalar accesses reach. -/
theorem reach_identity {s : State} (h : identityB s = true) (acc : Acc) (va n : Nat) (hv : va < 2 ^ 30) (hn : va % n = 0) :
    Reaches s acc (BitVec.ofNat 64 va) n va :=
  ⟨by rw [show (BitVec.ofNat 64 va).toNat = va by simp; omega]; exact hn, false, xlate_identity h .scalar acc va hv⟩

theorem witness_GrammarsMaskAdvanceAndStop :
    ((speaking.hart.gget 5).toNat = 0x30000 ∧ InState (Sees speaking .vector spoken) spoken 0x30000 grammar0 (0, [])
      ∧ Alone speaking (.gmask 1 0 5) [])
    ∧ (InState (Sees speaking .scalar spoken) spoken 0x30000 grammar0 (0, []) ∧ Quiet speaking
      ∧ (speaking.hart.gget 7).toNat = grammar0.endTok
      ∧ (speaking.hart.gget 8).toNat ≠ grammar0.endTok ∧ grammar0.after (0, []) 7 = none
      ∧ (speaking.hart.gget 0).toNat ≠ grammar0.endTok ∧ grammar0.after (0, []) 0 = some (0, [5]) ∧ changedWords [] [5] = [0]
      ∧ (∀ w < 72, Reaches speaking .store (speaking.hart.gget 5 + BitVec.ofNat 64 (8 * w)) 8 (0x30000 + 8 * w))
      ∧ Storing speaking 2)
    ∧ ((speaking.hart.gget 9).toNat = 0x30900 ∧ Sees speaking .scalar spoken 0x30900 (0x30900 + 16)
      ∧ Sees speaking .scalar spoken 0x30600 (0x30600 + 64 + 513 * 1) ∧ Spells (Sees speaking .scalar spoken) spoken 0x30500 2 grammar0.text
      ∧ (numAt spoken 0x30900 8, numAt spoken (0x30900 + 10) 6) = (0x30600, 0) ∧ recordPlace 0x30600
      ∧ (numAt spoken 0x30600 8, numAt spoken (0x30600 + 8) 8, numAt spoken (0x30600 + 16) 8) = (1, 0x30500, 2)
      ∧ (∀ k < 8, 3 ≤ k → numAt spoken (0x30600 + 8 * k) 8 = 0)
      ∧ (∀ y < 256, numAt spoken (0x30600 + 0x40 + 2 * y) 2 < 1) ∧ numAt spoken (0x30900 + 8) 2 < 1
      ∧ Reaches speaking .load (BitVec.ofNat 64 0x30600) 8 0x30600
      ∧ Reaches speaking .store (BitVec.ofNat 64 0x30908) 8 0x30908 ∧ Storing speaking 1) := by
  have blank : (speaking.view speaking.hart).all (fun c => decide (c.1 < 0x30618) || decide (0x30840 ≤ c.1)) = true := by
    decide +kernel
  refine ⟨⟨by decide +kernel, spoken_state .vector, alone_of (by decide +kernel)⟩,
    ⟨spoken_state .scalar, quiet_of (by decide +kernel), by decide +kernel, by decide +kernel, by decide +kernel, by decide +kernel,
      by decide +kernel, by decide, fun w hw => ?_, storing_of (by decide +kernel)⟩,
    by decide +kernel, spoken_sees _ _ _ (by omega), spoken_sees _ _ _ (by omega), spoken_text .scalar, by decide +kernel,
    Or.inl (by decide +kernel), by decide +kernel, fun k h1 h2 => ?_, fun y hy => ?_, by decide +kernel,
    reach_identity speaking_identity _ _ _ (by omega) (by omega), reach_identity speaking_identity _ _ _ (by omega) (by omega),
    storing_of (by decide +kernel)⟩
  rotate_left
  · exact blank_of blank (by omega) (by omega)
  · rw [spoken, blank_of blank (by omega) (by omega)]; decide
  have hb : speaking.hart.gget 5 = BitVec.ofNat 64 0x30000 := by decide +kernel
  rw [hb, show BitVec.ofNat 64 0x30000 + BitVec.ofNat 64 (8 * w) = BitVec.ofNat 64 (0x30000 + 8 * w) by
    rw [BitVec.ofNat_add]]
  exact reach_identity speaking_identity _ _ _ (by omega) (by omega)

/-- A prefix table of n entries whose hashes are 100, 101, …, whose pages are 0, 1, … and of which the first is not
pinned; hashes 100 and 9 at 0x30000, pages 0, 0 and 9 at 0x30100, a pool record of two tokens at 0x30200; one
continuation with key 7 in the pool. -/
def prefixed (n : Nat) : State :=
  { withRegs [(5, 0x30000), (6, 2), (7, 0x30100), (8, 0x30200), (9, 1), (10, 7), (11, 9), (12, 3), (13, 100)] with
    mem := prog.mem ++ [(0x30000, 100), (0x30008, 9), (0x30108, 9), (0x30200, 2), (0x30208, 65), (0x3020C, 66)]
    prefixes := (List.range n).map (fun k =>
      { index := k, hash := BitVec.ofNat 64 (100 + k), page := BitVec.ofNat 32 k, pins := k, mark := k })
    hearths := prog.hearths.set 0 { prog.hearth 0 with ngrams := [{ set := 7, way := 0, key := 7, tokens := [5], mark := 0 }] } }

theorem prefixed_distinct (n : Nat) (h : n ≤ 4096) : Distinct (prefixed n).prefixes := by
  unfold Distinct prefixed
  refine List.pairwise_map.mpr ((List.pairwise_lt_range (n := n)).imp_of_mem ?_)
  intro a b ha hb hab
  rw [List.mem_range] at ha hb
  refine ⟨Nat.ne_of_lt hab, fun he => ?_, fun he => ?_⟩
  · have := congrArg BitVec.toNat he
    simp at this; omega
  · have := congrArg BitVec.toNat he
    simp at this; omega

theorem prefixed_mem {n : Nat} {e : PfxEntry} (h : e ∈ (prefixed n).prefixes) : ∃ k < n, e =
    { index := k, hash := BitVec.ofNat 64 (100 + k), page := BitVec.ofNat 32 k, pins := k, mark := k } := by
  unfold prefixed at h
  simp only [List.mem_map, List.mem_range] at h
  obtain ⟨k, hk, rfl⟩ := h
  exact ⟨k, hk, rfl⟩

theorem prefixed_has {n k : Nat} (h : k < n) :
    { index := k, hash := BitVec.ofNat 64 (100 + k), page := BitVec.ofNat 32 k, pins := k, mark := k : PfxEntry } ∈ (prefixed n).prefixes := by
  unfold prefixed
  exact List.mem_map.mpr ⟨k, List.mem_range.mpr h, rfl⟩

theorem prefixed_sees (who : Who) (lo hi : Nat) (h : hi ≤ 2 ^ 30) : Sees (prefixed 2) who (bytesOf (prefixed 2) 0) lo hi :=
  sees_identity (by decide +kernel) (by decide +kernel) who lo hi h

theorem prefixed_reach (va n : Nat) (h : va < 2 ^ 30) (hn : va % n = 0) :
    Reaches (prefixed 2) .store (BitVec.ofNat 64 va) n va :=
  reach_identity (by decide +kernel) _ _ _ h hn

/-- Every pin count of a full table is above 0. -/
def allPinned : List PfxEntry := (prefixed 4096).prefixes.map (fun e => { e with pins := 1 })

theorem witness_PrefixesAndContinuationsAreKept :
    (let s := prefixed 2
     let m := bytesOf s 0
     Calm s ∧ Distinct s.prefixes ∧ Storing s 36
     -- PFXH, PFXLK, PFXPIN and PFXUNPIN, NGPUT
     ∧ (s.hart.gget 5).toNat = 0x30000 ∧ Sees s .scalar m 0x30000 (0x30000 + 4 * blockNow s) ∧ (s.hart.gget 6).toNat = 2
     ∧ Sees s .scalar m 0x30000 (0x30000 + 8 * 2)
     ∧ matchedPages s.prefixes ((List.range 2).map (fun j => BitVec.ofNat 64 (numAt m (0x30000 + 8 * j) 8))) = [0]
     ∧ (∀ j < 2, Reaches s .store (BitVec.ofNat 64 (0x30200 + 4 * j)) 4 (0x30200 + 4 * j))
     ∧ ((s.hart.gget 7).toNat = 0x30100 ∧ (List.range 3).map (fun j => numAt m (0x30100 + 4 * j) 4) = [0, 0, 9]
     ∧ (s.hart.gget 9).toNat = 1 ∧ pinned true [0] { index := 0, hash := 100, page := 0, pins := 0, mark := 0 } = 1
     ∧ pinned false [0] { index := 0, hash := 100, page := 0, pins := 0, mark := 0 } < 0
     ∧ (∀ e ∈ s.prefixes, e.page.toNat ≠ 9) ∧ (∀ e ∈ s.prefixes, e.pins ≤ 65535)
     ∧ (s.hart.gget 8).toNat = 0x30200 ∧ numAt m 0x30200 8 = 2) ∧ Sees s .scalar m 0x30200 (0x30200 + 8 + 4 * 2)
     -- NGPUT: an own entry with another first token, and way 1 is free; NGGET: the one entry of key 7
     ∧ (∀ e ∈ (s.hearth 0).ngrams, e.set = 7 → e.way ≠ 1) ∧ (∃ e ∈ (s.hearth 0).ngrams, e.set = 7 ∧ e.way = 0)
     ∧ (s.hearth 0).ngrams.filter (fun e => decide (e.key = s.hart.gget 10)) = [{ set := 7, way := 0, key := 7, tokens := [5], mark := 0 }]
     ∧ (∀ j < 36, Reaches s .store (BitVec.ofNat 64 (0x30200 + 8 * j)) 8 (0x30200 + 8 * j))
     -- PFXINS: found, a page in use, a free index
     ∧ (∃ e ∈ s.prefixes, e.hash = s.hart.gget 13)
     ∧ ((∀ e ∈ s.prefixes, e.hash ≠ s.hart.gget 11) ∧ (∃ e ∈ s.prefixes, e.page = (s.hart.gget 9).setWidth 32))
     ∧ ((∀ e ∈ s.prefixes, e.hash ≠ s.hart.gget 11 ∧ e.page ≠ (s.hart.gget 12).setWidth 32 ∧ e.index ≠ 2)
        ∧ ∀ j < 2, ∃ e ∈ s.prefixes, e.index = j))
    -- PFXINS in a full table: with an entry to replace, and with none
    ∧ (let s := prefixed 4096
       Calm s ∧ Distinct s.prefixes ∧ (∀ i < 4096, ∃ x ∈ s.prefixes, x.index = i)
       ∧ (∀ x ∈ s.prefixes, x.hash ≠ 9 ∧ x.page ≠ 5000)
       ∧ ∃ e ∈ s.prefixes, e.pins = 0 ∧ ∀ x ∈ s.prefixes, x.pins = 0 → x ≠ e → e.mark < x.mark)
    ∧ ((∀ i < 4096, ∃ x ∈ allPinned, x.index = i) ∧ ∀ x ∈ allPinned, x.hash ≠ 9 ∧ x.page ≠ 5000 ∧ x.pins ≠ 0) := by
  have new : ∀ k < 4096, (BitVec.ofNat 64 (100 + k) : Word) ≠ 9 ∧ (BitVec.ofNat 32 k : BitVec 32) ≠ 5000 := by
    intro k hk
    refine ⟨fun he => ?_, fun he => ?_⟩
    · have := congrArg BitVec.toNat he
      simp at this; omega
    · have := congrArg BitVec.toNat he
      simp at this; omega
  refine ⟨⟨calm_of (by decide +kernel) (by decide +kernel), prefixed_distinct 2 (by omega), storing_of (by decide +kernel), by decide +kernel,
      prefixed_sees _ _ _ (by decide +kernel), by decide +kernel, prefixed_sees _ _ _ (by omega), by decide +kernel,
      fun j hj => prefixed_reach _ _ (by omega) (by omega), by decide +kernel, prefixed_sees _ _ _ (by omega), by decide +kernel, by decide +kernel, by decide +kernel,
      fun j hj => prefixed_reach _ _ (by omega) (by omega), by decide +kernel, by decide +kernel, by decide +kernel⟩,
    ⟨calm_of (by decide +kernel) (by decide +kernel), prefixed_distinct 4096 (by omega), fun i hi => ⟨_, prefixed_has hi, rfl⟩, fun x hx => ?_,
      _, prefixed_has (k := 0) (by omega), rfl, fun x hx hp hne => ?_⟩, fun i hi => ?_, fun x hx => ?_⟩
  · obtain ⟨k, hk, rfl⟩ := prefixed_mem hx
    exact new k hk
  · obtain ⟨k, hk, rfl⟩ := prefixed_mem hx
    simp only at hp
    subst hp
    exact absurd rfl hne
  · exact ⟨_, List.mem_map.mpr ⟨_, prefixed_has hi, rfl⟩, rfl⟩
  · obtain ⟨e, he, rfl⟩ := List.mem_map.mp hx
    obtain ⟨k, hk, rfl⟩ := prefixed_mem he
    exact ⟨(new k hk).1, (new k hk).2, Nat.one_ne_zero⟩

/-! ### Events -/

/-- One instruction is queued on a strip of four elements; its convoy has begun or not. -/
def begun (b : Bool) (i : Instr) : State :=
  ((vec 4 3 0).enqueue i).modHart (fun h => { h with queue := h.queue.map (fun e => { e with begun := b }) })

/-- Its entry. -/
def entryOf (b : Bool) (i : Instr) : QEntry :=
  { instr := i, addr := 0x10000, opa := 0, opb := 0, cap := (vec 4 3 0).hart.capture, consumed := false, seq := 0, begun := b
    split := false }

/-- What `OneBegun` asks, in a form that evaluates. -/
abbrev OneBegunChecks (s : State) (h : Nat) (e : QEntry) (named : List (BitVec 6)) : Prop :=
  let x := s.hartAt h
  (h < 512 ∧ x.place ≠ none ∧ x.sup = false ∧ x.dbg.halted = false ∧ (x.dbg.armed = false ∨ x.dbg.retired = false))
  ∧ (x.queue = [e] ∧ e.begun = true ∧ e.cap = x.capture ∧ e.strip = [] ∧ x.stopped = none ∧ x.regError = false)
  ∧ ((∀ r ∈ named, r.toNat < 48) ∧ ∀ b ∈ x.binds, ∀ r ∈ named, r.toNat ∉ b.regs)
  ∧ (∀ w ∈ x.watch.toList, w.en = true → w.addr ≠ e.addr)
  ∧ (x.miract = true → x.mirrorError = [])
  ∧ vlNow (asOf s h) * bitsNow (asOf s h) ≤ roomNow (asOf s h)

/-- The checks of `OneBegun` as one Boolean. -/
def oneBegunB (s : State) (h : Nat) (e : QEntry) (named : List (BitVec 6)) : Bool := decide (OneBegunChecks s h e named)

theorem oneBegun_of {s : State} {h : Nat} {e : QEntry} {named : List (BitVec 6)} (ok : oneBegunB s h e named = true) :
    OneBegun s h e named :=
  let ⟨hart, entry, names, unwatched, matched, fits⟩ := of_decide_eq_true ok
  { runs := ⟨hart.1, hart.2.1, hart.2.2.1, hart.2.2.2.1, hart.2.2.2.2⟩
    queue := entry.1, begun := entry.2.1, captured := entry.2.2.1, strips := entry.2.2.2.1, start := entry.2.2.2.2.1
    sound := entry.2.2.2.2.2, registers := names.1, unbound := names.2, matched, fits
    unwatched := fun _ w hw => unwatched w (Vector.mem_toList_iff.mpr (Vector.mem_of_getElem? hw)) }

/-- One convoy that has not begun waits at the head of hart 0: a check. -/
abbrev WaitsChecks (s : State) (e : QEntry) : Prop :=
  ((s.hartAt 0).place ≠ none ∧ (s.hartAt 0).sup = false ∧ (s.hartAt 0).dbg.halted = false
    ∧ ((s.hartAt 0).dbg.armed = false ∨ (s.hartAt 0).dbg.retired = false))
  ∧ 0 < s.lgrant 0 ∧ (s.hartAt 0).queue = [e] ∧ e.begun = false ∧ (asOf s 0).closedBehind [e] = true

theorem waits_of {s : State} {e : QEntry} (h : WaitsChecks s e) : Waits s 0 [] [e] :=
  let ⟨hart, lanes, queue, fresh, closed⟩ := h
  { runs := ⟨by decide, hart.1, hart.2.1, hart.2.2.1, hart.2.2.2⟩, lanes, queue, some := by simp, begun := by simp
    fresh := by simp [fresh], places := by simp [queue], closed }

/-- A read of v4 that is bound, before its strip is taken. -/
def reading : State :=
  (begun true (.vadd 9 4 2 0 0 0)).modHart (fun h =>
    { h with binds := [bind1 6 1], queue := h.queue.map (fun e => { e with consumed := false }) })

/-- A product waits at the head of the queue; it has been ready for the tile unit for some clocks. -/
def tiling (clocks : Nat) : State := (begun false (.mxacc 0 1 2 0 0 1 0)).modHart (fun h => { h with tileReady := clocks })

/-- The stream of hart 0 that begins at an address; g5 and the table as `expanding` has them. -/
def running (base : Word) (packed : Bool) : State :=
  expanding.modHart (fun h => { h with binds := [{ bind0 with base := base, stride := if packed then 0 else 4, packed := packed }] })

theorem engineBytes_of {s : State} {h : Nat} {va : Word} {bs : List Byte}
    (hh : (List.range bs.length).all (fun k =>
      decide (s.translate (h / 4) (s.rootOf (s.hartAt h)) false .engine .load (va + BitVec.ofNat 64 k) = .at (va.toNat + k) false)
      && decide (bs[k]? = some (Memory.read s.mem (va.toNat + k))) && !s.damagedAt (va.toNat + k)) = true) :
    EngineBytes s h va bs := by
  intro k x hx
  have hk : k < bs.length := (List.getElem?_eq_some_iff.mp hx).1
  have h := List.all_eq_true.mp hh k (List.mem_range.mpr hk)
  simp only [Bool.and_eq_true, decide_eq_true_eq, Bool.not_eq_true'] at h
  exact ⟨_, _, h.1.1, Option.some.inj (h.1.2.symm.trans hx), h.2⟩

theorem witness_SequencersAndStreamsMoveOn :
    (let s := begun false (.vadd 3 1 2 0 0 0)
     let w := s.modHart (fun h => { h with readyClocks := 64 })
     Waits s 0 [] [entryOf false (.vadd 3 1 2 0 0 0)] ∧ (s.hartAt 0).regError = false ∧ (s.core 0).started = false
     ∧ (∀ k < 4, k ≠ 0 → s.convoyReady k = false)
     ∧ Waits w 0 [] [entryOf false (.vadd 3 1 2 0 0 0)] ∧ (w.hartAt 0).promoted = none ∧ 64 ≤ (w.hartAt 0).readyClocks)
    ∧ (let s := tiling 64
       Waits s 0 [] [entryOf false (.mxacc 0 1 2 0 0 1 0)] ∧ NextForTiles s 0 ∧ (s.hartAt 0).tilePromoted = none
       ∧ 64 ≤ (s.hartAt 0).tileReady)
    ∧ (OneBegun (begun true (.pexitb 3 2)) 0 (entryOf true (.pexitb 3 2)) []
      ∧ OneBegun (begun true (.pexita 3 2)) 0 (entryOf true (.pexita 3 2)) []
      ∧ chosen (asOf (begun true (.pexitb 3 2)) 0) 2 0 = true ∧ 0 < vlNow (asOf (begun true (.pexitb 3 2)) 0))
    ∧ OneBegun (begun true (.vadd 3 1 2 0 0 0)) 0 (entryOf true (.vadd 3 1 2 0 0 0)) [3, 1, 2]
    ∧ (∀ room ∈ [1, 2], let e := { entry 0x30108 0x30108 8 (leBytes 8 7) with seq := 1, room := room }
       let s := holding1.modHart (fun h => { h with waiting := [e] })
       (s.hartAt 0).waiting = [e] ∧ (s.hartAt 0).held = [entry 0x30100 0x30100 8 (leBytes 8 7)] ∧ s.bars = []
       ∧ (s.hartAt 0).dbg.halted = false ∧ (s.hartAt 0).queue = [] ∧ Memory.wf s.mem = true
       ∧ (room = 1 → e.room = (s.hartAt 0).held.length) ∧ (room = 2 → (s.hartAt 0).held.length < e.room)
       ∧ s.translate 0 (s.rootOf (s.hartAt 0)) false .scalar .store (BitVec.ofNat 64 0x30100) = .at 0x30100 false)
    ∧ (OneBegun reading 0 (entryOf true (.vadd 9 4 2 0 0 0)) [9, 2] ∧ (reading.hartAt 0).binds = [bind1 6 1]
      ∧ vlNow (asOf reading 0) + (bind1 6 1).used ≤ (bind1 6 1).data.length ∧ (∀ y ∈ (bind1 6 1).data, y.bad = false)
      ∧ (bind1 6 1).ew = ewNow (asOf reading 0) ∧ 0 < vlNow (asOf reading 0))
    ∧ (let s := running 0x40000 false
       s.bars = [] ∧ s.transit = [] ∧ Memory.wf s.mem = true
       ∧ ((s.hartAt 0).binds[0]?).map (fun b => (b.status, b.ladder, b.planes, b.total)) = some (1, 0, 1, 100)
       ∧ s.translate 0 (s.rootOf (s.hartAt 0)) false .engine .store (0x30000 + 0x30) = .at 0x30030 false
       ∧ s.translate 0 (s.rootOf (s.hartAt 0)) false .engine .load 0x40000 = .at 0x40000 false
       ∧ ∀ j < 4, s.damagedAt (0x40000 + j) = false ∧ Memory.read s.mem (0x40000 + j) = byteOf 0 j)
    ∧ (let s := running 0x40000000 false
       s.translate 0 (s.rootOf (s.hartAt 0)) false .engine .load 0x40000000 = .fault 6)
    ∧ BlockBy (EngineBytes (running 0x30100 true) 0) 0x30100 0 0 (List.replicate 64 0) := by
  refine ⟨⟨waits_of (by decide +kernel), by decide +kernel, by decide +kernel, by decide +kernel, waits_of (by decide +kernel),
      by decide +kernel, by decide +kernel⟩,
    ⟨waits_of (by decide +kernel), ⟨entryOf false (.mxacc 0 1 2 0 0 1 0), by decide +kernel, rfl⟩, by decide +kernel,
      by decide +kernel⟩,
    ⟨oneBegun_of (by decide +kernel), oneBegun_of (by decide +kernel), by decide +kernel, by decide +kernel⟩,
    oneBegun_of (by decide +kernel), by decide +kernel,
    ⟨oneBegun_of (by decide +kernel), by decide +kernel, by decide +kernel, by decide +kernel, by decide +kernel,
      by decide +kernel⟩, by decide +kernel, by decide +kernel, ?_⟩
  exact ⟨fun p => if p = 0 then 1 else 0, 0x100, rawBlock, by intro i; dsimp only; split <;> decide, by decide, by decide, by decide,
      by decide, by decide, ⟨[0, 0, 0, 0], rfl, engineBytes_of (by decide +kernel)⟩, engineBytes_of (by decide +kernel),
      engineBytes_of (by decide +kernel), decodes_raw⟩

/-- As `timed 3`; the elaborator does not look inside. -/
@[irreducible] def timed3 : State := timed 3

/-- A machine with a copy operation of hart 0 on timeline 3, and one with another memory. -/
def withCopy (s : State) (k : CopyKind) : State :=
  { s with cores := s.cores.set 0 { s.core 0 with copies := [{ hart := 0, place := some place0, serial := 1, tl := 3, ticket := 6, kind := k }] } }
def withMem (s : State) (m : List Host.Cell) : State := { s with mem := m }

theorem withCopy_parts (s : State) (k : CopyKind) : (withCopy s k).poison = s.poison ∧ (withCopy s k).transit = s.transit
    ∧ (withCopy s k).bars = s.bars ∧ (withCopy s k).rootOfSerial 1 = s.rootOfSerial 1 ∧ (withCopy s k).mem = s.mem
    ∧ (∀ a, (withCopy s k).readMem a 8 = s.readMem a 8) := ⟨rfl, rfl, rfl, rfl, rfl, fun _ => rfl⟩

theorem withMem_parts (s : State) (m : List Host.Cell) : (withMem s m).poison = s.poison ∧ (withMem s m).transit = s.transit
    ∧ (∀ a, (withMem s m).readMem a 8 = Memory.reads m a 8) := ⟨rfl, rfl, fun _ => rfl⟩

theorem timed3_clean : timed3.poison = [] ∧ timed3.transit = [] ∧ timed3.bars = [] ∧ timed3.rootOfSerial 1 = 0x1000
    ∧ leNat (timed3.readMem 0x1000 8) = 0x2001 ∧ leNat (timed3.readMem 0x2000 8) = 0x3F ∧ leNat (timed3.readMem 0x2008 8) = 0
    ∧ Memory.wf timed3.mem = true := by
  decide +kernel

def copying (k : CopyKind) : State := withCopy timed3 k

theorem copying_copies (k : CopyKind) : ((copying k).core 0).copies[0]?.map (·.kind) = some k := by
  simp [copying, withCopy, State.core]

theorem copying_clean (k : CopyKind) : (copying k).bars = [] ∧ (copying k).transit = [] ∧ (copying k).poison = []
    ∧ (copying k).rootOfSerial 1 = 0x1000 ∧ Memory.wf (copying k).mem = true := by
  obtain ⟨h1, h2, h3, h4, h5, -⟩ := withCopy_parts timed3 k
  obtain ⟨g1, g2, g3, g4, -, -, -, g8⟩ := timed3_clean
  exact ⟨h3.trans g3, h2.trans g2, h1.trans g1, h4.trans g4, (congrArg Memory.wf h5).trans g8⟩

/-- What reads of the tables find while memory below 0x3000 is as it was. -/
theorem tables_kept (k : CopyKind) (m : List Host.Cell) (h : ∀ x, x < 0x3000 → Memory.read m x = Memory.read (copying k).mem x) :
    (withMem (copying k) m).poison = [] ∧ (withMem (copying k) m).transit = []
    ∧ leNat ((withMem (copying k) m).readMem 0x1000 8) = 0x2001 ∧ leNat ((withMem (copying k) m).readMem 0x2000 8) = 0x3F
    ∧ leNat ((withMem (copying k) m).readMem 0x2008 8) = 0 := by
  obtain ⟨h1, h2, h3⟩ := withMem_parts (copying k) m
  obtain ⟨-, c2, c3, -⟩ := copying_clean k
  obtain ⟨-, -, -, -, g5, g6, g7, -⟩ := timed3_clean
  have hr : ∀ a, a + 8 ≤ 0x3000 → (withMem (copying k) m).readMem a 8 = timed3.readMem a 8 := fun a ha => by
    rw [h3, Memory.reads_congr (fun i hi => h (a + i) (by omega))]
    exact (withCopy_parts timed3 k).2.2.2.2.2 a
  rw [hr _ (by omega), hr _ (by omega), hr _ (by omega)]
  exact ⟨h1.trans c3, h2.trans c2, g5, g6, g7⟩

theorem withMem_self (k : CopyKind) : withMem (copying k) (copying k).mem = copying k := by
  have h : ∀ s : State, withMem s s.mem = s := fun _ => rfl
  exact h _

theorem copying_mapped (k : CopyKind) (acc : Acc) (va : Nat) (hv : va < 2 ^ 30) :
    (copying k).translate 0 0x1000 false .engine acc (BitVec.ofNat 64 va) = .at va false := by
  obtain ⟨h1, h2, h3, h4, -⟩ := tables_kept k (copying k).mem (fun _ _ => rfl)
  rw [withMem_self] at h1 h2 h3 h4
  exact translate_identity h1 h2 h3 h4 _ _ _ _ _ hv

theorem copying_fault (k : CopyKind) (acc : Acc) :
    (copying k).translate 0 0x1000 false .engine acc 0x40000000 = .fault (pageCause acc) := by
  obtain ⟨h1, h2, h3, -, h5⟩ := tables_kept k (copying k).mem (fun _ _ => rfl)
  rw [withMem_self] at h1 h2 h3 h5
  exact translate_beyond h1 h2 h3 h5 _ _ _ _

theorem copying_page (k : CopyKind) (acc : Acc) (va n : Nat) (hv : va < 2 ^ 30) (hn : va % 4096 + n ≤ 4096) :
    PageAt (copying k) 0 0x1000 acc va n va :=
  ⟨hn, by omega, false, copying_mapped k acc va hv⟩

/-- Zone 2 with these slots, one message on the fabric, and operations 5 (a KSEND) and 6 (a KRSV). -/
def sender0 : Origin := { dev := 0, port := 31, op := 5, launch := 1 }
def kite5 : KiteOp :=
  { op := 5, hart := 0, place := some place0, serial := 1, tl := 3, ticket := 1, dev := 0, port := 31, core := 0, zone := 2, word := none }
def withMessage (s : State) (m : KMsg) : State :=
  { s with fabric := [m], kites := [kite5, { kite5 with op := 6, word := some 0x30000 }] }
def messaging (slots : List Slot) (m : KMsg) : State := withMessage (zoned slots) m
def without (s : State) : State := { s with fabric := [] }

theorem withMessage_reached (s : State) (m : KMsg) : Reached (withMessage s m) 0 31 m (without (withMessage s m)) :=
  Or.inl ⟨rfl, rfl, rfl⟩

theorem arrives (slots : List Slot) (m : KMsg) : Reached (messaging slots m) 0 31 m (without (messaging slots m)) :=
  withMessage_reached (zoned slots) m

/-- A slot in a state, with generation 1, of sender 5. -/
def slotIn (st : SlotState) : Slot := { state := st, gen := 1, len := 0, owner := some sender0, want := 8, landed := [] }
def landed0 : Slot := { slotIn .filling with landed := [(0, [1, 2, 3, 4, 5, 6, 7, 8], false)] }

theorem witness_CopiesAndMessagesEndOnTheirTimelines :
    (∀ k, let s := copying k
      ((s.core 0).copies[0]?).map (·.kind) = some k ∧ s.bars = [] ∧ s.transit = [] ∧ s.poison = [] ∧ s.rootOfSerial 1 = 0x1000 ∧ Memory.wf s.mem = true
      -- both ranges in a page
      ∧ PageAt s 0 0x1000 .load 0x50000 64 0x50000 ∧ PageAt s 0 0x1000 .store 0x40000 64 0x40000
      -- the source cannot be read at its start, and after 64 bytes whatever those 64 bytes were
      ∧ s.translate 0 0x1000 false .engine .load 0x40000000 = .fault 6
      ∧ PageAt s 0 0x1000 .load 0x3FFFFFC0 64 0x3FFFFFC0
      ∧ (∀ mem, (∀ x, x < 0x40000 ∨ 0x40000 + 64 ≤ x → Memory.read mem x = Memory.read s.mem x) →
          (withMem s mem).translate 0 0x1000 false .engine .load (BitVec.ofNat 64 (0x3FFFFFC0 + 64)) = .fault 6)
      -- the destination cannot be written
      ∧ s.translate 0 0x1000 false .engine .store 0x40000000 = .fault 7
      -- a status word, and one whatever the row that was copied
      ∧ s.translate 0 0x1000 false .engine .store (BitVec.ofNat 64 (0x30000 + 0x34)) = .at 0x30034 false
      ∧ (∀ m, (∀ x, x < 0x40000 ∨ 0x40000 + 64 ≤ x → Memory.read m x = Memory.read s.mem x) →
          (withMem s m).translate 0 0x1000 false .engine .store (BitVec.ofNat 64 (0x30000 + 0x34)) = .at 0x30034 false))
    ∧ (∀ slots m, Reached (messaging slots m) 0 31 m (without (messaging slots m)))
    ∧ (let u := fun slots => without (messaging slots (.completion 5))
       -- no zone, every slot taken, slot 1 the lowest free one
       ((u []).core 0).zones[3]? = some none
       ∧ (((u [slotIn .arrived]).core 0).zones[2]?).map (fun x => x.map (fun y => y.slots)) = some (some [slotIn .arrived])
       ∧ (((u [slotIn .arrived, slotIn .free]).core 0).zones[2]?).map (fun x => x.map (fun y => y.slots.map (·.state)))
           = some (some [.arrived, .free])
       -- a header without its slot, one that does not fit its slot, one that does, in a slot of 64 bytes
       ∧ slotOf (u []) 0 2 0 = none ∧ slotOf (u [slotIn .arrived]) 0 2 0 = some (slotIn .arrived)
       ∧ slotOf (u [slotIn .reserved]) 0 2 0 = some (slotIn .reserved)
       ∧ ((slotIn .reserved).gen.toNat = 1 ∧ ∃ w, (slotIn .reserved).owner = some w ∧ w.launch = sender0.launch ∧ w.dev = 0)
       ∧ (((u [slotIn .reserved]).core 0).zones[2]?).map (fun x => x.map (·.slotSize)) = some (some 64)
       -- the last flit, with all bytes landed
       ∧ slotOf (u [landed0]) 0 2 0 = some landed0 ∧ landed0.owner = some sender0 ∧ landed0.landed = [(0, [1, 2, 3, 4, 5, 6, 7, 8], false)]
       ∧ (u [landed0]).bars = [] ∧ (u [landed0]).poison = [] ∧ Memory.wf (u [landed0]).mem = true
       -- the operations and the reservation word
       ∧ (u []).translate 0 ((u []).rootOfSerial 1) false .kite .store (BitVec.ofNat 64 0x30000) = .at 0x30000 false
       ∧ (u []).translate 0 ((u []).rootOfSerial 1) false .kite .store (BitVec.ofNat 64 0x40000000) = .fault 7)
    ∧ Only (messaging [] (.completion 5)) kite5 ∧ Only (messaging [] (.reply 6 0 1 1)) { kite5 with op := 6, word := some 0x30000 } := by
  refine ⟨fun k => ⟨copying_copies k, (copying_clean k).1, (copying_clean k).2.1, (copying_clean k).2.2.1, (copying_clean k).2.2.2.1, (copying_clean k).2.2.2.2,
      copying_page k _ _ _ (by omega) (by omega), copying_page k _ _ _ (by omega) (by omega), copying_fault k .load,
      copying_page k _ _ _ (by omega) (by omega), fun mem h => ?_, copying_fault k .store, copying_mapped k _ _ (by omega),
      fun m h => ?_⟩, arrives, by decide +kernel, ?_, ?_⟩
  · obtain ⟨h1, h2, h3, -, h5⟩ := tables_kept k mem (fun x hx => h x (by omega))
    exact translate_beyond h1 h2 h3 h5 _ _ _ _
  · obtain ⟨h1, h2, h3, h4, -⟩ := tables_kept k m (fun x hx => h x (by omega))
    exact translate_identity h1 h2 h3 h4 _ _ _ _ _ (by omega)
  · refine ⟨List.mem_cons_self, fun k (hk : k ∈ [kite5, { kite5 with op := 6, word := some 0x30000 }]) he => ?_⟩
    rcases List.mem_cons.mp hk with rfl | hk
    · rfl
    · obtain rfl := List.mem_singleton.mp hk
      exact absurd he (by decide)
  · refine ⟨List.mem_cons_of_mem _ List.mem_cons_self,
      fun k (hk : k ∈ [kite5, { kite5 with op := 6, word := some 0x30000 }]) he => ?_⟩
    rcases List.mem_cons.mp hk with rfl | hk
    · exact absurd he (by decide)
    · exact List.mem_singleton.mp hk

/-- The frame of number 1 on a path. -/
def frame1 : KFrame := { mac := 7, src := 0, vlan := none, etype := 0x88B5, number := 1, ack := 0, flits := [], fcs := 0 }

/-- Port 18 is up or down, with a kite operation under way over it, a frame to acknowledge that was sent again n times, and
messages of the last frame taken in that are still to arrive. -/
def linked (up : Bool) (n left : Nat) : State :=
  { prog with ports := prog.ports.set 18 { prog.portAt 18 with up := up }, kites := [{ kite5 with dev := 2, port := 18 }]
              tsc := 2000000
              eth := [(keyOf 2 18, { sent := 1, unacked := [{ frame := frame1, since := 0, resent := n }], taken := 4, flits := left })] }

/-- Port 3 is up; n replays of a flit failed so far. -/
def replayed (n : Nat) : State := { prog with ports := prog.ports.set 3 { prog.portAt 3 with up := true, replays := n } }

theorem witness_PathsFailAndLinksComeBack :
    (∀ up ∈ [true, false], ∀ n ∈ [3, 15], let s := linked up n 0
      (s.kites.map (·.op)).Nodup ∧ (s.portAt 18).up = up ∧ (∃ o ∈ s.kites, o.dev = 2 ∧ o.port = 18)
      ∧ (s.lastSent.find? (fun e => decide (e.1 = keyOf 2 18))).isNone ∧ 2000000 ≤ s.tsc.toNat
      ∧ (s.ethPath 2 18).unacked.find? (fun x => decide (x.frame.number = 1) && decide (100000 ≤ (s.tsc - x.since).toNat))
          = some { frame := frame1, since := 0, resent := n }
      -- a frame of its EtherType that is the next of its path, from the source address that the path names
      ∧ s.ketype.setWidth 16 = (0x88B5 : BitVec 16) ∧ (s.ethPath 2 18).flits = 0 ∧ 5 = (s.ethPath 2 18).taken + 1
      ∧ 18 / 32 = (0 : BitVec 48).toNat)
    ∧ (∀ n ∈ [3, 7], 3 < 18 ∧ ((replayed n).portAt 3).up = true ∧ ((replayed n).kites.map (·.op)).Nodup
      ∧ ((replayed n).portAt 3).replays = n) := by decide +kernel

/-- Messages reach this device over a Kiteline link, and over Ethernet while a flit of the last frame is left. -/
theorem witness_Reached_ports :
    Reached (replayed 3) 2 3 (.completion 5) (replayed 3) ∧ ∃ u, Reached (linked true 3 1) 2 18 (.completion 5) u :=
  ⟨Or.inr ⟨trivial, by decide +kernel, Or.inl ⟨by decide, rfl⟩⟩,
    _, Or.inr ⟨trivial, by decide +kernel, Or.inr ⟨Or.inl rfl, by decide +kernel, rfl⟩⟩⟩

/-- Queue 5 holds one record, and a launch waits, or drains. -/
def serving (r : LRecord) : State :=
  { withBytes prog 0x40000 (launchBytes r) with
    queues := prog.queues.set 5 { LQueue.reset with qbase := 0x40000, qsize := 1, qroot := 0x1000, qenable := 1, tail := 1 }
    servedLast := 63 }
def waitingLaunch : Launch := { launch0 with serial := 2, state := .pending, gangs := [], nextGang := 0, w0tl := 3, w0val := 5 }
def launching (l : Launch) : State := { timed 3 with launches := [launch0, l] }

theorem witness_RecordsAreTakenInAndLaunchesEnd :
    (∀ r ∈ [record0, { record0 with gsize := 0 }, { record0 with compl := 1, ctl := 4096 }],
      Sized r ∧ Serves (serving r) 5 ∧ Memory.reads (serving r).mem (0x40000 + 64 * (0 % 1)) 64 = launchBytes r ∧ (serving r).bars = []
      ∧ poolHeld (serving r) < Config.poolSize ∧ Memory.wf (serving r).mem = true)
    ∧ (fieldChecks record0).find? (·.1) = none ∧ (fieldChecks { record0 with gsize := 0 }).find? (·.1) = some (true, 20)
    ∧ (fieldChecks { record0 with compl := 1, ctl := 4096 }).find? (·.1) = some (true, 17)
    ∧ (serving { record0 with gsize := 0 }).translate 0 0x1000 false .engine .store 0x40000 = .at 0x40000 false
    ∧ (let s := launching waitingLaunch
       s.launchOf 2 = some waitingLaunch ∧ waitingLaunch.state = .pending ∧ waitingLaunch.w0val.toNat ≤ (s.timeline 3).value.toNat
       ∧ waitingLaunch.w1tl = 0xFFFF)
    ∧ (let l := { waitingLaunch with state := .draining, compl := 0x40000 }
       let s := launching l
       s.launchOf 2 = some l ∧ s.bars = [] ∧ Memory.wf s.mem = true ∧ s.kites = [] ∧ (∀ c < 128, (s.core c).copies = []) ∧ (∀ c < 128, ∀ z < 8, (s.core c).zones[z]? = some none)
       ∧ s.translate 0 l.root false .engine .store l.compl = .at 0x40000 false)
    ∧ (7 ≠ prog.devnum.toNat ∧ prog.launchOf ((9 : BitVec 64).setWidth 32) = none ∧ prog.launchOf ((1 : BitVec 64).setWidth 32) = some launch0) := by
  refine ⟨fun r hr => ?_, by decide, by decide, by decide, by decide +kernel, by decide +kernel, by decide +kernel,
    by decide +kernel⟩
  have h : ∀ r ∈ [record0, { record0 with gsize := 0 }, { record0 with compl := 1, ctl := 4096 }],
      Serves (serving r) 5 ∧ Memory.reads (serving r).mem (0x40000 + 64 * (0 % 1)) 64 = launchBytes r ∧ (serving r).bars = []
        ∧ poolHeld (serving r) < Config.poolSize ∧ Memory.wf (serving r).mem = true := by unfold Serves; decide +kernel
  refine ⟨?_, h r hr⟩
  simp only [List.mem_cons, List.not_mem_nil, or_false] at hr
  rcases hr with rfl | rfl | rfl <;> exact ⟨by decide, by decide, by decide, by decide⟩

/-- A launch has a path to device 2, and none; a slot is filled by operation 5 of launch 9 of that device. -/
theorem witness_LaunchesTellTheOtherDevices :
    (let l := { waitingLaunch with state := .draining }
     let s := { launching l with paths := [((2, 0, 0), (0, 1), 3)] }
     s.launchOf 2 = some l ∧ s.bars = [] ∧ Memory.wf s.mem = true ∧ s.kites = [] ∧ (∀ c < 128, (s.core c).copies = [])
     ∧ (∀ c < 128, ∀ z < 8, (s.core c).zones[z]? = some none) ∧ (∃ e ∈ s.paths, e.2.2 % 32 < 20))
    ∧ (launching { waitingLaunch with state := .draining }).paths = []
    ∧ (let o : Origin := { dev := 2, port := 3, op := 5, launch := 9 }
       let s := zoned [{ slotIn .filling with owner := some o }]
       2 ≠ s.devnum.toNat ∧ slotOf s 0 2 0 = some { slotIn .filling with owner := some o } ∧ o.port % 32 < 20) := by
  decide +kernel

/-- A launch of prio 1 with gangs of n harts, passed over at 0; hart 0 parks for timeline 3, and one core of every other
hearth is retired. -/
def candidate (n : Nat) : Launch :=
  { launch0 with serial := 2, state := .eligible, gangs := [], nextGang := 0, gsize := n, gcount := 1, prio := 1, passedSince := some 0 }
def placing (n : Nat) (w : Option Wait) : State :=
  { prog.modHart (fun h => { h with wait := w }) with
    launches := [launch0, candidate n], tsc := 20000
    cores := .ofFn (fun c => { prog.core c.val with retired := decide (c.val % 4 = 0 ∧ c.val ≠ 0) }) }

theorem placing_lone (n : Nat) (w : Option Wait) : Lone (placing n w) (candidate n) := by
  have hl : (placing n w).launches = [launch0, candidate n] := rfl
  refine ⟨by rw [hl]; exact List.mem_cons_of_mem _ List.mem_cons_self, by rw [hl]; exact (by decide : [(1 : BitVec 32), 2].Nodup),
    Or.inl rfl, Nat.one_pos, (by decide : 1 ≤ 7), ?_, ?_, rfl⟩
  · rw [hl]
    intro k hk g hg
    rcases List.mem_cons.mp hk with rfl | hk
    · obtain rfl := List.mem_singleton.mp hg
      decide
    · obtain rfl := List.mem_singleton.mp hk
      cases hg
  · rw [hl]
    intro k hk hne hst
    rcases List.mem_cons.mp hk with rfl | hk
    · exact absurd hst (by decide)
    · exact absurd (List.mem_singleton.mp hk) hne

/-- A hearth has a hart that is not free. -/
theorem freeOn_lt {s : State} {j : Nat} (h : (s.hartAt (16 * j)).place.isSome = true ∨ (s.core (4 * j)).retired = true) :
    (freeOn s j).length < 16 := by
  have hl : ((List.range 16).map (16 * j + ·)).length = 16 := by simp
  unfold freeOn
  conv => rhs; rw [← hl]
  rw [List.length_filter_lt_length_iff_exists]
  refine ⟨16 * j, List.mem_map.mpr ⟨0, by simp, rfl⟩, ?_⟩
  rw [show 16 * j / 4 = 4 * j by omega]
  rcases h with h | h
  · cases hp : (s.hartAt (16 * j)).place with
    | none => rw [hp] at h; exact absurd h (by decide)
    | some p => simp
  · simp [h]

theorem placing_crowded (w : Option Wait) (hw : w = none ∨ w = some (.tl 3 5 4)) :
    Crowded (placing 16 w) (candidate 16) launch0 gang0 0 0 := by
  have hl : (placing 16 w).launches = [launch0, candidate 16] := rfl
  have hc : ∀ w ∈ [none, some (Wait.tl 3 5 4)], (∀ j < 32, ((placing 16 w).hartAt (16 * j)).place.isSome = true
        ∨ ((placing 16 w).core (4 * j)).retired = true)
      ∧ 16 ≤ (freeOn (placing 16 w) 0).length + 1 ∧ ((placing 16 w).hartAt 0).place = some { serial := 1, gang := 0, rank := 0 }
      ∧ ((placing 16 w).core 0).retired = false ∧ ((placing 16 w).hartAt 0).dbg.halted = false := by decide +kernel
  obtain ⟨h1, h2, h3, h4, h5⟩ := hc w (by rcases hw with rfl | rfl <;> simp)
  refine ⟨placing_lone 16 w, by decide, ⟨by rw [hl]; exact List.mem_cons_self, by decide, by decide, by decide⟩, by decide, by decide,
    ?_, ⟨by decide, by decide, h3, h4, h5⟩, fun j hj => freeOn_lt (h1 j hj), h2⟩
  rw [hl]
  intro m hm e he
  rcases List.mem_cons.mp hm with rfl | hm
  · exact Or.inl ⟨rfl, List.mem_singleton.mp he⟩
  · obtain rfl := List.mem_singleton.mp hm
    cases he

/-- Hart 1 has been placed without a lane group, and hart 0 holds three. -/
def grouping : State :=
  let s := (prog.modHartAt 0 (fun h => { h with stopping := some 0 })).modHartAt 1 (fun h =>
    { h with place := some { serial := 1, gang := 0, rank := 1 }, laneSince := some 0, laneShort := 1 })
  { s with tsc := 20000, cores := s.cores.set 0 { s.core 0 with groups := #v[.holds 0, .holds 0, .holds 0, .free] } }

theorem witness_GangsArePlacedStoppedAndResumed :
    (Lone (placing 3 none) (candidate 3) ∧ 3 ≤ (freeOn (placing 3 none) 0).length ∧ (placing 3 none).noDispatch = false
      ∧ ((placing 3 none).hearth 0).gated = false ∧ (∀ x ∈ (placing 3 none).contexts, x.wait ≠ some .slot)
      ∧ (candidate 3).parentHearth = none)
    ∧ ((candidate 3).passedSince = some 0 ∧ 10000 ≤ ((placing 3 none).tsc - 0).toNat)
    ∧ (Crowded (placing 16 none) (candidate 16) launch0 gang0 0 0 ∧ launch0.prio < (candidate 16).prio
      ∧ ((placing 16 none).hartAt 0).wait = none)
    ∧ (let s := placing 16 (some (.tl 3 5 4))
       Crowded s (candidate 16) launch0 gang0 0 0 ∧ (s.hartAt 0).wait = some (.tl 3 5 4) ∧ (s.hartAt 0).sup = false
       ∧ s.waitOver (s.hartAt 0) (.tl 3 5 4) = false ∧ 2000 ≤ (s.tsc - (s.hartAt 0).parkedTsc).toNat)
    ∧ (let s := grouping
       (s.hartAt 0).place = some place0 ∧ (s.hartAt 0).stopping = some 0 ∧ 20000 ≤ (s.tsc - 0).toNat ∧ (s.hartAt 0).sup = false
       ∧ (s.hartAt 0).dbg.halted = false ∧ s.launchOf 1 = some launch0 ∧ gang0 ∈ launch0.gangs ∧ (launch0.gangs.map (·.index)).Nodup
       ∧ (s.hartAt 1).place ≠ none ∧ s.lgrant 1 = 0 ∧ 20000 ≤ (s.tsc - (s.hartAt 1).placedTsc).toNat ∧ (s.hartAt 1).laneSince ≠ none
       ∧ (s.hartAt 1).laneShort = 1 ∧ s.lgrant 0 = 3 ∧ (∀ k < 4, k ≠ 0 → s.lgrant k = 0) ∧ (∀ k < 4, k ≠ 1 → (s.hartAt k).laneShort = 0)
       ∧ (s.core 0).groups[2]? = some (.holds 0) ∧ (s.core 0).groups[3]? ≠ some (.holds 0))
    ∧ (let c := { (timed 3).hart with wait := some (.tl 3 5 4) }
       let g := { gang0 with state := .saved, ranks := [.saved c] }
       let l := { launch0 with gangs := [g] }
       let s := { timed 3 with launches := [l] }
       s.launchOf 1 = some l ∧ l.gangs.find? (fun e => decide (e.index = 0)) = some g ∧ s.waitOver c (.tl 3 5 4) = true) := by
  refine ⟨⟨placing_lone 3 none, by decide +kernel, by decide +kernel, by decide +kernel, by decide +kernel, by decide⟩, by decide +kernel,
    ⟨placing_crowded none (Or.inl rfl), by decide, by decide +kernel⟩,
    ⟨placing_crowded _ (Or.inr rfl), by decide +kernel⟩, by decide +kernel, by decide +kernel⟩

/-! ### The host, the debugger, energy, errors and steps -/

/-- CXL.mem and CXL.cache are enabled; queue 5 is enabled, of one entry; timeline 3 counts; an image of 8 bytes whose sum
agrees begins host memory, and is being loaded; one granule is poisoned. -/
def hosting (base : Word) : State :=
  { prog with
    cxlmem := true, cxlcache := true, fw := .loading, fwlen := 8, poison := [0x50000]
    queues := prog.queues.set 5 { LQueue.reset with qbase := base, qsize := 1, qenable := 1 }
    timelines := [(3, { value := 5, next := 6, err := false, ecode := 0, ekind := 0, eticket := 0, eaddr := 0, done := [] })]
    rings := prog.rings.set 2 { prog.ring 2 with trhead := 1 }
    mem := prog.mem ++ [(0x8000000000000, 0x31), (0x8000000000001, 0x57), (0x8000000000002, 0x46), (0x8000000000003, 0x58),
      (0x8000000000004, 0x31), (0x8000000000005, 0x57), (0x8000000000006, 0x46), (0x8000000000007, 0x58)] }

theorem witness_TheHostActsOnTheDevice :
    (let x := (hosting 0x40000).queueAt 5
     x.qenable.getLsbD 0 = true ∧ x.error = false ∧ ¬x.qsize.toNat < ((1 : BitVec 32) - x.head).toNat
     ∧ x.qsize.toNat < ((2 : BitVec 32) - x.head).toNat ∧ ringFits x ∧ ¬ringFits ((hosting 1).queueAt 5)
     ∧ (prog.queueAt 5).qenable.getLsbD 0 = false ∧ (hosting 0x40000).cxlmem = true ∧ (hosting 0x40000).cxlcache = true
     ∧ prog.cxlmem = false ∧ Memory.wf (hosting 0x40000).mem = true ∧ (hosting 0x40000).bars = [])
    ∧ (((hosting 0).timeline 3).next ≠ ((hosting 0).timeline 3).value ∧ ((hosting 0).timeline 4).next = ((hosting 0).timeline 4).value)
    ∧ ((∀ i < 8, 0x8F7FFFFFFC + i < 0x8F80000000 → (hosting 0).damagedAt (0x8F7FFFFFFC + i) = false)
      ∧ (hosting 0).damagedAt 0x50000 = true ∧ (hosting 0).bars = [])
    ∧ ((inSup prog).hartAt 0).sup = true
    ∧ (∀ i < 64, (0xFFFFFFFFF001 : BitVec 64).getLsbD i = true → i = 0 ∨ (12 ≤ i ∧ i ≤ 47))
    ∧ (((hosting 0).ring 2).trhead ≠ ((hosting 0).ring 2).trtail ∧ ((hosting 0).ring 3).trhead = ((hosting 0).ring 3).trtail)
    ∧ (let bs := Memory.reads (hosting 0).mem (0x8000000000000 + (hosting 0).fwsrc.toNat % 2 ^ 52) ((hosting 0).fwlen.toNat % 2 ^ 32)
       (hosting 0).fw = .loading ∧ 8 ≤ bs.length ∧ imageFits bs)
    ∧ (let s := { hosting 0 with fwsrc := 8 }
       ¬imageFits (Memory.reads s.mem (0x8000000000000 + s.fwsrc.toNat % 2 ^ 52) (s.fwlen.toNat % 2 ^ 32))) := by
  refine ⟨?_, by decide +kernel, ⟨?_, by decide +kernel, by decide +kernel⟩, by decide +kernel, by decide, by decide +kernel, ?_, ?_⟩
  · refine ⟨by decide +kernel, by decide +kernel, by decide +kernel, by decide +kernel,
      ⟨by decide +kernel, ⟨0, by decide, by decide +kernel⟩, by decide +kernel, by decide +kernel⟩, fun h => ?_,
      by decide +kernel, by decide +kernel, by decide +kernel, by decide +kernel, by decide +kernel, by decide +kernel⟩
    exact absurd h.1 (by decide +kernel)
  · decide +kernel
  · unfold imageFits; decide +kernel
  · unfold imageFits; decide +kernel

/-- An image that runs past the end of host memory; and a hearth that is gated, with a byte of its scratchpad in memory. -/
theorem witness_HostMemoryEnds :
    (let s := { hosting 0 with fwsrc := 0x7FFFFFFFFFFF9 }
     s.fw = .loading ∧ 0x10000000000000 < 0x8000000000000 + s.fwsrc.toNat % 2 ^ 52 + s.fwlen.toNat % 2 ^ 32)
    ∧ (let s := { hosting 0 with fwsrc := 0x7FFFFFFFFFFF8 }
       s.fw = .loading ∧ 0x8000000000000 + s.fwsrc.toNat % 2 ^ 52 + s.fwlen.toNat % 2 ^ 32 ≤ 0x10000000000000)
    ∧ (let s := { prog with hearths := prog.hearths.set 1 { prog.hearth 1 with gated := true } }
       (∃ k < 32, (s.hearth k).gated = true) ∧ localTo 1 (Config.spadLoc + 4 * 0x200000) ∧ ¬localTo 1 Config.spadLoc) := by
  refine ⟨by decide +kernel, by decide +kernel, by decide +kernel, ?_, ?_⟩ <;> · unfold localTo; decide

/-- Hart 0 with a debug block. -/
def debugged (f : Debug → Debug) (s : State) : State := s.modHart (fun h => { h with dbg := f h.dbg })

/-- Hart 0 is halted and the header of an empty image lies at 0x100000. -/
def imageable : State :=
  debugged (fun d => { d with halted := true, dspc := 0x10004, dsample := 5, since := 5 })
    (withBytes prog 0x100000 (leBytes 4 0x58435842 ++ leBytes 4 1 ++ leBytes 4 0x2F000))

/-- Hart 0 has one instruction in its queue, whose convoy stopped at element 2, and a store that waits for room. -/
def convoyed : State :=
  (begun true (.vadd 3 1 2 0 0 0)).modHart (fun h => { h with
    stopped := some { member := 0, front := 2 }, waiting := [entry 0x30108 0x30108 8 (leBytes 8 7)], vresume := 2 })

/-- A record waits for ring 2, which has room. -/
def recording : State :=
  { prog with
    tsc := 9, rings := prog.rings.set 2 { prog.ring 2 with trbase := 0x60000, trsize := 4 }
    hearths := prog.hearths.set 2 { prog.hearth 2 with flue := [{ time := 8, src := 0x20, ty := 5, payload := [] }] } }

theorem witness_DebuggersHaltAndTracesAreWritten :
    ((imageable.hartAt 0).dbg.halted = true ∧ (imageable.hartAt 0).dbg.imgBusy = false ∧ imageable.bars = [] ∧ imageable.poison = []
      ∧ imageable.transit = [] ∧ (imageable.hartAt 0).dbg.dspc.toNat % 4 = 0)
    ∧ ((prog.hartAt 5).dbg.halted = false ∧ (prog.hartAt 5).place = none)
    ∧ (∀ s ∈ [prog, inSup prog, convoyed], let t := debugged (fun d => { d with armed := true, retired := true }) s
       (s.hartAt 0).dbg.halted = false ∧ (s.hartAt 0).place ≠ none ∧ (t.hartAt 0).dbg.halted = false
       ∧ (t.hartAt 0).place ≠ none ∧ (t.hartAt 0).dbg.armed = true ∧ (t.hartAt 0).dbg.retired = true)
    ∧ ((prog.hartAt 0).queue = [] ∧ (prog.hartAt 0).sup = false ∧ ((inSup prog).hartAt 0).sup = true)
    ∧ ((convoyed.hartAt 0).queue = [entryOf true (.vadd 3 1 2 0 0 0)] ∧ (convoyed.hartAt 0).sup = false
      ∧ (convoyed.hartAt 0).stopped = some { member := 0, front := 2 })
    ∧ (let s := debugged (fun d => { d with halted := true, dspc := 0x10004 }) convoyed
       (s.hartAt 0).dbg.halted = true ∧ (s.hartAt 0).dbg.dspc.toNat % 4 = 0 ∧ (s.hartAt 0).stopped ≠ none
       ∧ (imageable.hartAt 0).stopped = none)
    ∧ Memory.wf imageable.mem = true
    ∧ (imageable.image 0 { imageable.hartAt 0 with trapspc := (imageable.hartAt 0).dbg.dspc } true).length = 0x2F000
    ∧ (0x100000 + 0x2F000 ≤ 0x9000000000 ∧ imageAt 0x100000 = 0x100000 ∧ 0x9000000000 < imageAt 0x8FFFFFF000 + 0x2F000)
    ∧ leNat (Memory.reads prog.mem 0x100000 4) ≠ 0x58435842
    ∧ readHeader (fun off n => Memory.reads imageable.mem (0x100000 + off) n) = some header0
    ∧ (let rd := fun (off n : Nat) => Memory.reads imageable.mem (0x100000 + off) n
       ∃ l, readImageFile rd header0 (imageVlmax rd (imageable.hartAt 0)) = some l)
    ∧ header0.ntiles ≤ imageable.freeTiles 0 + (imageable.hartAt 0).tiles.length + (imageable.hartAt 0).keptTiles
    ∧ ((debugged (fun d => { d with imgBusy := true }) prog).hartAt 0).dbg.imgBusy = true
    ∧ ((imageable.hartAt 0).dbg.dsample.toNat % 2 ^ 32 ≠ 0
      ∧ (imageable.hartAt 0).dbg.dsample.toNat % 2 ^ 32 ≤ (imageable.hartAt 0).dbg.since)
    ∧ (let s := recording
       waitingFor s 2 = [{ time := 8, src := 0x20, ty := 5, payload := [] }] ∧ (8 : Word).toNat < s.tsc.toNat
       ∧ (s.hearth 2).lost = 0 ∧ (s.hearth 2).gating = none ∧ ((s.ring 2).trhead - (s.ring 2).trtail).toNat < (s.ring 2).trsize.toNat
       ∧ s.bars = [] ∧ Memory.wf s.mem = true) := by
  refine ⟨by decide +kernel, by decide +kernel, by decide +kernel, by decide +kernel, by decide +kernel, by decide +kernel, by decide +kernel,
    ?_, by decide, by decide +kernel, by decide +kernel, Option.isSome_iff_exists.mp (by decide +kernel), by decide +kernel, by decide +kernel, by decide +kernel, by decide +kernel⟩
  exact image_size _ _ _ _ (by decide +kernel) (by decide +kernel) (by decide +kernel) (by decide +kernel)

/-- A hart goes on in its handler, and in program mode, with a stopped convoy whose members are kept apart. -/
theorem witness_HartsGoOn :
    ∀ sup ∈ [true, false], ∀ base ∈ [[], [(1, (0 : VReg))]],
      let s := (debugged (fun d => { d with halted := true, dspc := 0x10004 }) convoyed).modHart (fun h =>
        { h with sup := sup, stopped := some { member := 0, front := 2, base := base } })
      (s.hartAt 0).dbg.halted = true ∧ (s.hartAt 0).dbg.dspc.toNat % 4 = 0 ∧ (s.hartAt 0).sup = sup
      ∧ (s.hartAt 0).stopped = some { member := 0, front := 2, base := base } ∧ (s.hartAt 0).queue ≠ [] := by
  decide +kernel

/-- 60 µs after a start; hearth 1, which runs nothing, in a state. -/
def hearth1 (f : Hearth → Hearth) : State := { prog with tsc := 60000, hearths := prog.hearths.set 1 (f (prog.hearth 1)) }

/-- Hearth 1 of a machine has no work: a check over its harts and cores. -/
abbrev VacantChecks (s : State) : Prop :=
  (∀ i < 16, (s.hartAt (16 + i)).place = none ∧ (s.hartAt (16 + i)).binds = [])
  ∧ (∀ i < 4, (s.core (4 + i)).copies = [] ∧ ∀ z < 8, (s.core (4 + i)).zones[z]? = some none) ∧ s.kites = []

theorem vacant_of {s : State} (h : VacantChecks s) : Vacant s 1 :=
  let ⟨harts, cores, kites⟩ := h
  ⟨fun j hj => by rw [show j = 16 + (j - 16) by omega]; exact harts _ (by omega),
    fun c hc => by rw [show c = 4 + (c - 4) by omega]; exact cores _ (by omega), by simp [kites]⟩

/-- A record in a flue, and the rank of launch 1 that left hearth 1. -/
def record1 : TraceRec := { time := 0, src := 0, ty := 0, payload := [] }
def stay1 (paid : Bool) : Stay := { place := place0, ns := 500, activity := 8, moved := still, paid := paid }

/-- Hearth 1 is gated, and the next gang of a launch fits there first. -/
def gatedFit : State :=
  { placing 3 none with
    launches := [launch0, { candidate 3 with parentHearth := some 1 }]
    hearths := prog.hearths.set 1 { prog.hearth 1 with gated := true, lost := 2 } }

theorem witness_EnergyIsSplitAndPowerIsManaged :
    (let s := hearth1 (fun x => { x with stays := [stay1 true] })
     1000 ≤ (s.tsc - (s.hearth 1).winStart).toNat ∧ (∀ y ∈ (s.hearth 1).stays, y.paid = true)
     ∧ (∀ h < 512, h ≠ 0 → (s.hartAt h).place = none)
     ∧ (∀ l ∈ s.launches, ∀ g ∈ l.gangs, ∀ r ∈ g.ranks, r = .on 0))
    ∧ (let s := hearth1 (fun x => { x with stays := [stay1 false] })
       1000 ≤ (s.tsc - (s.hearth 1).winStart).toNat ∧ (s.hearth 1).stays = [stay1 false]
       ∧ (∀ i < 16, (s.hartAt (16 + i)).place = none) ∧ ∀ c ∈ State.contexts { s with harts := s.harts.set 0 (s.hartAt 1) },
        c.place ≠ some place0)
    ∧ ¬1000 ≤ ((hearth1 (fun x => { x with winStart := 59500 })).tsc - 59500).toNat
    ∧ (∀ flue ∈ [[], [record1]], let s := hearth1 (fun x => { x with idleSince := some 10000, flue := flue })
       s.pgate.getLsbD 0 = true ∧ (s.hearth 1).gated = false ∧ (s.hearth 1).gating = none ∧ (s.hearth 1).flue = flue
       ∧ (s.hearth 1).idleSince = some 10000 ∧ 50000 ≤ (s.tsc - 10000).toNat ∧ Vacant s 1)
    ∧ (hearth1 id).hearth 1 = { prog.hearth 1 with damper := none }
    ∧ ((hearth1 (fun x => { x with damper := some 0 })).hearth 1).damper ≠ none
    ∧ (let s := hearth1 (fun x => { x with gating := some 40000 })
       (s.hearth 1).gating = some 40000 ∧ 20000 ≤ (s.tsc - 40000).toNat)
    ∧ ((gatedFit.hearth 1).gated = true ∧ gatedFit.noDispatch = false ∧ (gatedFit.firstFit.map (·.2)) = some 1
      ∧ (prog.hearth 1).gated = false) := by
  refine ⟨by decide +kernel, by decide +kernel, by decide +kernel, fun flue hf => ?_, by decide +kernel, by decide +kernel,
    by decide +kernel, by decide +kernel⟩
  simp only [List.mem_cons, List.not_mem_nil, or_false] at hf
  rcases hf with rfl | rfl <;>
    exact ⟨by decide +kernel, by decide +kernel, by decide +kernel, by decide +kernel, by decide +kernel, by decide +kernel,
      vacant_of (by decide +kernel)⟩

/-- A damper's stretch whose last trip is 100 ns back, and 60 µs. -/
theorem witness_DamperStretches :
    (let s := hearth1 (fun x => { x with damper := some 0, tripped := 59900 })
     (s.hearth 1).damper ≠ none ∧ ¬200 ≤ (s.tsc - (s.hearth 1).tripped).toNat)
    ∧ (let s := hearth1 (fun x => { x with damper := some 0, tripped := 0 })
       (s.hearth 1).damper ≠ none ∧ 200 ≤ (s.tsc - (s.hearth 1).tripped).toNat) := by decide +kernel

/-- Granule 0x30000 and one of the first scratchpad are poisoned; core 1 has 8 live lanes and core 2 is retired. -/
def failing : State :=
  { prog with
    poison := [0x30000, Config.spadLoc]
    cores := (prog.cores.set 1 { prog.core 1 with retiredLanes := 0xFFFFFF }).set 2 { prog.core 2 with retired := true } }

theorem witness_ErrorsAreCountedAndClocksAdvance :
    (0x30000 ∈ failing.poison ∧ 0x30020 ∉ failing.poison ∧ Config.spadLoc ∈ failing.poison ∧ Config.spadLoc + 8 ∉ failing.poison)
    ∧ ((failing.core 1).retiredLanes.getLsbD 3 = true ∧ (failing.core 0).retiredLanes.getLsbD 3 = false
      ∧ 9 ≤ liveOf (failing.core 0).retiredLanes ∧ (failing.core 1).retiredLanes.getLsbD 24 = false
      ∧ liveOf (failing.core 1).retiredLanes ≤ 8 ∧ (failing.core 1).retired = false)
    ∧ ((failing.core 2).retired = true ∧ (failing.core 0).retired = false ∧ (failing.launches.map (·.serial)).Nodup
      ∧ launch0 ∈ failing.launches ∧ launch0.state ≠ .complete ∧ ∃ g ∈ launch0.gangs, ∃ h < 4, Rank.on h ∈ g.ranks ∧ h / 4 = 0)
    ∧ ((prog.hearth 0).gated = false ∧ ((hearth1 (fun x => { x with gated := true })).hearth 1).gated = true)
    ∧ ((∀ sync ∈ [true, false], (State.tscSync { prog with tscSync := sync }) = sync) ∧ Vacant prog 1 ∧ ¬Vacant prog 0)
    ∧ (Lone (placing 16 none) (candidate 16) ∧ (∀ k < 32, (freeOn (placing 16 none) k).length < (candidate 16).gsize)
      ∧ Lone (placing 3 none) (candidate 3) ∧ ∃ k < 32, (candidate 3).gsize ≤ (freeOn (placing 3 none) k).length) :=
  ⟨by decide +kernel, by decide +kernel, by decide +kernel, by decide +kernel,
    ⟨by decide +kernel, vacant_of (by decide +kernel), fun h => absurd (h.1 0 (by decide)).1 (by decide +kernel)⟩,
    placing_lone 16 none, (placing_crowded none (Or.inl rfl)).crowded, placing_lone 3 none, 0, by decide, by decide +kernel⟩

/-- No window is full, and one is; clocks that hart 0 has been charged for; a slot of core 0 that this device fills. -/
theorem witness_ClocksAndWindows :
    (∀ k < 32, (prog.tsc - (prog.hearth k).winStart).toNat < 1000)
    ∧ (let s := { hearth1 id with tscSync := true }
       s.tscSync = true ∧ 1000 ≤ (s.tsc - (s.hearth 1).winStart).toNat)
    ∧ ((prog.hartAt 0).ahead = 0 ∧ ((prog.modHart (fun h => { h with ahead := 3 })).hartAt 0).ahead ≠ 0)
    ∧ (let s := zoned [slotIn .filling]
       (s.core 0).retired = false ∧ (s.launches.map (·.serial)).Nodup ∧ slotOf s 0 2 0 = some (slotIn .filling)
       ∧ sender0.port = 31) := by decide +kernel

theorem witness_DecodingGivesBackWhatWasEncoded :
    WellFormed (.cpyg 31 31 47) ∧ (encode (.cpyg 31 31 47)).isSome = true
    ∧ (encode (.cpyg 31 31 47)).bind decode = some (.cpyg 31 31 47) := by decide +kernel

/-- Nothing has come and nothing is due; the word at the pc is DIV g3, g4, g5, or none. -/
def fetching (w : Nat) : State := withBytes prog 0x10000 (leBytes 4 w)

theorem witness_AStepRunsTheDecodedInstruction :
    ({ prog with inbox := [.tscIncrement] }.inbox = [.tscIncrement])
    ∧ ({ prog with fabric := [.completion 5] }.due).isSome = true
    ∧ (∀ w ∈ [0x0190A006, 0x60000000], let s := fetching w
       s.inbox = [] ∧ s.due.isNone = true ∧ s.turns = [] ∧ s.mover = some 0
       ∧ (let u := { s with cur := 0, ticked := false }
          u.hart.wait = none ∧ u.hart.regError = false ∧ u.convoyDue = false ∧ u.hart.pc = 0x10000
          ∧ u.xlate .scalar .fetch u.hart.pc = .at 0x10000 false ∧ (∀ k < 4, u.damagedAt (0x10000 + k) = false)))
    ∧ (decode 0x60000000 = none ∧ (decode 0x0190A006).isSome = true)
    ∧ (let s := { prog with turns := [0] }; s.due.isNone = true ∧ s.runnable 0 = true ∧ 0 ∈ s.placed)
    ∧ (let s := prog.modHart (fun h => { h with pc := 0x40000000 })
       s.due.isNone = true ∧ s.mover = some 0 ∧ s.xlate .scalar .fetch s.hart.pc = .fault 5 ∧ s.hart.entering = false) := by
  decide +kernel

theorem witness_EveryStepKeepsMemoryCanonical :
    Memory.wf (fetching 0x0190A006).mem = true ∧ (match step (fetching 0x0190A006) with
      | .next t => decide (t.hart.pc = 0x10004)
      | _ => false) = true := by decide +kernel

theorem witness_WordsDecodeAsTheirLayoutsSay : bitsAt (0x60000000 : BitVec 32) 28 4 = 6 ∧ bitsAt (0x7FFFFFFF : BitVec 32) 28 4 = 7 := by
  decide

/-! ### One step each: what the rules give, worked out by hand -/

/-- The state after one step that runs an instruction of hart 0. -/
def ran (s : State) (i : Instr) : State :=
  match step (s.withFetchWord 32 ((encode i).map (·.toNat)).get!) with
  | .next t => t
  | _ => s

/-- R143: addition wraps, and a register that is also a source is read before it is written. -/
theorem test_add_wraps : (ran (withRegs [(3, 0xFFFFFFFFFFFFFFFF), (4, 2)]) (.add 4 3 4)).hart.gget 4 = 1 := by decide +kernel
/-- R143: −2^63 divided by −1. -/
theorem test_div_overflow : (ran (withRegs [(3, 0x8000000000000000), (4, 0xFFFFFFFFFFFFFFFF)]) (.div 5 3 4)).hart.gget 5
    = 0x8000000000000000 := by decide +kernel
/-- R143: the remainder has the sign of the dividend. −7 = −2 × 3 − 1. -/
theorem test_rem_sign : (ran (withRegs [(3, 0xFFFFFFFFFFFFFFF9), (4, 3)]) (.rem 5 3 4)).hart.gget 5 = 0xFFFFFFFFFFFFFFFF := by
  decide +kernel
/-- R144's worked example: sltzi gd, ga, −1 gives 0 only for all ones. -/
theorem test_sltzi_all_ones : (ran (withRegs [(3, 0xFFFFFFFFFFFFFFFF)]) (.sltzi 5 3 0x3FFF)).hart.gget 5 = 0
    ∧ (ran (withRegs [(3, 0xFFFFFFFFFFFFFFFE)]) (.sltzi 5 3 0x3FFF)).hart.gget 5 = 1 := by decide +kernel
/-- R142: a write to g0 is discarded, and the pc goes on. -/
theorem test_g0_discards : (ran prog (.addi 0 0 5)).hart.gget 0 = 0 ∧ (ran prog (.addi 0 0 5)).hart.pc = 0x10004 := by
  decide +kernel
/-- R146, R126: 1 / 0 is +∞ with DZ (bit 3 of FPFLAGS). -/
theorem test_fdiv_by_zero : (ran (withRegs [(3, 0x3F800000)]) (.fdiv 5 3 0 0)).hart.gget 5 = 0x7F800000
    ∧ (ran (withRegs [(3, 0x3F800000)]) (.fdiv 5 3 0 0)).hart.fpflags = 8 := by decide +kernel
/-- R148: a comparison with a NaN gives 0; FCMPLT sets NV (bit 4). -/
theorem test_fcmplt_nan : (ran (withRegs [(3, 0x7FC00000)]) (.fcmplt 5 3 0 0)).hart.gget 5 = 0
    ∧ (ran (withRegs [(3, 0x7FC00000)]) (.fcmplt 5 3 0 0)).hart.fpflags = 16 := by decide +kernel
/-- R151: LDH sign-extends two bytes in little-endian order. -/
theorem test_ldh_sign : (ran (withBytes (withRegs [(3, 0x30000)]) 0x30002 [0xFE, 0xFF]) (.ldh 5 3 2)).hart.gget 5
    = 0xFFFFFFFFFFFFFFFE := by decide +kernel
/-- R151, R312: a misaligned load traps ALIGN_DATA (4): its address in TRAPVAL, the handler at 64 × 4 behind TRAPVEC. -/
theorem test_load_misaligned :
    let t := ran (withRegs [(3, 0x30001)]) (.ldw 5 3 0)
    t.hart.trapval = 0x30001 ∧ t.hart.pc = 0x20100 ∧ t.hart.trappc = 0x10000 ∧ t.hart.sup = true := by decide +kernel
/-- R152: a store in program mode is held, so memory keeps its byte and the hart's own load finds the new one. -/
theorem test_store_held :
    let t := ran (withRegs [(3, 0x30000), (4, 0xAB)]) (.stb 4 3 0)
    Memory.read t.mem 0x30000 = 0 ∧ Memory.read (t.view t.hart) 0x30000 = 0xAB ∧ t.hart.held.length = 1 := by decide +kernel
/-- R154: an atomic addition of 32 bits returns the old value, sign-extended, and stores four bytes. -/
theorem test_aadd_wraps :
    let t := ran (withBytes (withRegs [(3, 0x30000), (4, 3)]) 0x30000 [0xFF, 0xFF, 0xFF, 0xFF]) (.aadd 5 3 4 0)
    t.hart.gget 5 = 0xFFFFFFFFFFFFFFFF ∧ Memory.read t.mem 0x30000 = 2 ∧ Memory.read t.mem 0x30001 = 0 ∧ Memory.read t.mem 0x30004 = 0 := by decide +kernel
/-- R91, R156: a taken branch goes a number of 64-byte blocks on from its own block. -/
theorem test_beq_taken : (ran prog (.beq 3 4 2)).hart.pc = 0x10080 := by decide +kernel
/-- R163: TRAP puts the value of its register into TRAPVAL, and returns behind itself. -/
theorem test_trap_returns_behind :
    let t := ran (withRegs [(4, 9)]) (.trap 4)
    t.hart.trapval = 9 ∧ t.hart.trapspc = 0x10004 ∧ t.hart.trappc = 0x10000 := by decide +kernel
/-- R200's worked table at EW = 1: 100 and 50, −100 and −50, 127 and 1, 5 and −10. -/
def pairs : State :=
  withV (withV (strip prog 4 1 0) 1 (BitVec.ofNat 16384 0x057F9C64)) 2 (BitVec.ofNat 16384 0xF601CE32)
theorem test_vadd_wraps : (ran pairs (.vadd 3 1 2 0 0 0)).hart.vget 3 = BitVec.ofNat 16384 0xFB806A96 := by decide +kernel
theorem test_vsadd_clamps : (ran pairs (.vsadd 3 1 2 0 0 0)).hart.vget 3 = BitVec.ofNat 16384 0xFB7F807F := by decide +kernel
/-- R213: VRSUM of 32-bit elements gives their sum modulo 2^32, here 2^32 − 1 + 3. -/
theorem test_vrsum_wraps :
    let t := ran (withV (strip prog 2 3 0) 1 (BitVec.ofNat 16384 0x00000003FFFFFFFF)) (.vrsum 5 1)
    elementAt (t.hart.vget 5) 32 0 = 2 := by decide +kernel
/-- R180: PEXITB keeps the elements before the first that is set. -/
theorem test_pexitb_before :
    let t := ran ((strip prog 4 3 0).modHart (fun h => h.pset 2 4)) (.pexitb 3 2)
    t.hart.pget 3 = 3 := by decide +kernel
/-- R263: TLSIG takes a ticket that has finished: NEXT and VALUE move together. -/
theorem test_tlsig_counts :
    let t := ran (withRegs [(3, 7)]) (.tlsig 3 0)
    (t.timeline 7).next = 1 ∧ (t.timeline 7).value = 1 ∧ t.hart.drained = true := by decide +kernel

end Sys2Proof.Tests
end

/-! SUPPORT. Chapter 05, scalar arithmetic: what a scalar word that completes has written, the values of the integer and
floating functions as their tables give them, and the statements about them settled. -/

namespace Sys2Proof.Proofs

open Sys2Proof.Machine Sys2Proof.Stated

/-! ### What a scalar word that completes has written -/

/-- The sticky flags, one g register and the pc of the executing hart written: all that a scalar word changes (R142). -/
theorem wrote_setHart (s : State) (d : BitVec 5) (v pc fl : Word) (hc : s.cur < 512) :
    Wrote s d.toNat v pc fl
      (s.setHart ((({ s.hart with fpflags := fl } : Hart).gset d.toNat v).wordDone pc)) := by
  have hh := State.hart_setHart s ((({ s.hart with fpflags := fl } : Hart).gset d.toNat v).wordDone pc) hc
  refine ⟨?_, fun r hr => ?_, ?_, fun _ => rfl⟩
  · rw [hh]
    exact Hart.gget_gset _ _ _ d.isLt
  · rw [hh]
    exact Hart.gget_gset_ne _ _ _ _ hr
  · rw [hh, Hart.gset_eq]
    rfl

/-- A word that only goes on has left gd with the value that gd held. -/
theorem wrote_advance (s : State) (d : BitVec 5) (hc : s.cur < 512) :
    Result s d (s.hart.gget d.toNat) s.advance := by
  have hh := State.hart_setHart s (s.hart.wordDone (s.hart.pc + 4)) hc
  rw [State.advance_eq]
  refine ⟨?_, fun r _ => ?_, ?_, fun _ => rfl⟩
  · rw [hh]
    change s.hart.gget d.toNat = _
    split
    · next h => rw [h, Hart.gget_zero]
    · rfl
  · rw [hh]
    rfl
  · rw [hh]
    rfl

/-- A scalar result is written, and no flag (R142). -/
theorem wrote_result (s : State) (d : BitVec 5) (v : Word) (hc : s.cur < 512) : Result s d v (s.result d v) := by
  rw [State.result_eq s d v hc]
  exact wrote_setHart s d v _ s.hart.fpflags hc

/-- A floating result is written, and its flags are added to the sticky ones (R145, R37). -/
theorem wrote_floated (s : State) (d : BitVec 5) (r : Nat × Nat) (hc : s.cur < 512) :
    Floated s d r (s.floated d r) := by
  unfold State.floated State.addFlags
  rw [State.modHart_eq, State.result_eq (s.setHart _) d _ hc, State.hart_setHart s _ hc, State.setHart_setHart]
  exact wrote_setHart s d _ _ _ hc

/-- A word that waits for the writers of g registers only, where none is queued, does at once what it is to do. -/
theorem completes_waitG {i : Instr} {s : State} {k : State → State} {P : State → Prop} (hs : Ready s)
    (hi : exec i s = .next (s.waitG k)) (hP : P (k s)) : Completes i s P :=
  ⟨k s, by rw [hi, State.waitG_free s k hs.free], hP⟩

/-- A function of two registers writes its value. -/
theorem completes_op2 {i : Instr} {s : State} {d a b : BitVec 5} {f : Word → Word → Word} {v : Word} (hs : Ready s)
    (hi : exec i s = .next (s.op2 d a b f)) (hv : f (s.hart.gget a.toNat) (s.hart.gget b.toNat) = v) :
    Completes i s (Result s d v) :=
  completes_waitG hs hi (hv ▸ wrote_result s d _ hs.hart)

/-- A function of one register writes its value. -/
theorem completes_op1 {i : Instr} {s : State} {d a : BitVec 5} {f : Word → Word} {v : Word} (hs : Ready s)
    (hi : exec i s = .next (s.op1 d a f)) (hv : f (s.hart.gget a.toNat) = v) : Completes i s (Result s d v) :=
  completes_waitG hs hi (hv ▸ wrote_result s d _ hs.hart)

/-- A floating function writes its code, and adds its flags to the sticky ones. -/
theorem completes_fop {i : Instr} {s : State} {d a b : BitVec 5} {w : BitVec 2}
    {f : Fmt → Rm → Nat → Nat → Nat → Nat × Nat} {r : Nat × Nat} (hs : Ready s)
    (hi : exec i s = .next (s.fop d a b w f))
    (hr : f (floatOf w) (mode s) (operand s w a) (operand s w b) (operand s w d) = r) :
    Completes i s (Floated s d r) :=
  completes_waitG hs hi (hr ▸ wrote_floated s d _ hs.hart)

/-- The code and the sticky flags of a floating result, under the names that a table gives them. -/
theorem completes_wrote {i : Instr} {s : State} {d : BitVec 5} {r : Nat × Nat} {v fl : Word}
    (h : Completes i s (Floated s d r)) (hv : BitVec.ofNat 64 r.1 = v)
    (hfl : s.hart.fpflags ||| BitVec.ofNat 64 (r.2 % 32) = fl) :
    Completes i s (Wrote s d.toNat v (s.hart.pc + 4) fl) := by
  subst hv hfl
  exact h

/-- No flag raised leaves the sticky flags as they were. -/
theorem completes_result {i : Instr} {s : State} {d : BitVec 5} {n : Nat} (h : Completes i s (Floated s d (n, 0))) :
    Completes i s (Result s d (BitVec.ofNat 64 n)) :=
  completes_wrote h rfl BitVec.or_zero

/-! ### The values of the integer functions (R143) -/

/-- Bits 127 to 64 of a number are those of its quotient by 2^64. -/
theorem extractLsb'_ofInt_eq_highWord (z : Int) : (BitVec.ofInt 128 z).extractLsb' 64 64 = highWord z := by
  apply BitVec.eq_of_toNat_eq
  unfold highWord
  rw [BitVec.extractLsb'_toNat, BitVec.toNat_ofInt, BitVec.toNat_ofInt, Nat.shiftRight_eq_div_pow]
  omega

theorem highWord_signed (x y : Word) :
    highWord (x.toInt * y.toInt) = (x.signExtend 128 * y.signExtend 128).extractLsb' 64 64 := by
  rw [← extractLsb'_ofInt_eq_highWord, BitVec.ofInt_mul]
  rfl

theorem highWord_unsigned (x y : Word) :
    highWord ((x.toNat : Int) * (y.toNat : Int)) = (x.setWidth 128 * y.setWidth 128).extractLsb' 64 64 := by
  rw [← extractLsb'_ofInt_eq_highWord, BitVec.ofInt_mul, BitVec.ofInt_natCast, BitVec.ofInt_natCast,
    BitVec.ofNat_toNat, BitVec.ofNat_toNat]

theorem divWord_eq (x y : Word) : divWord x y = if y = 0 then 0xFFFFFFFFFFFFFFFF else x.sdiv y := by
  have h : BitVec.ofInt 64 (x.toInt.tdiv y.toInt) = x.sdiv y := by
    apply BitVec.eq_of_toInt_eq
    rw [BitVec.toInt_ofInt, BitVec.toInt_sdiv]
  unfold divWord
  rw [h]
  rfl

theorem divzWord_eq (x y : Word) : divzWord x y = if y = 0 then 0xFFFFFFFFFFFFFFFF else x / y := by
  have h : BitVec.ofNat 64 (x.toNat / y.toNat) = x / y := by
    rw [← BitVec.toNat_udiv, BitVec.ofNat_toNat, BitVec.setWidth_eq]
  unfold divzWord
  rw [h]
  rfl

theorem remWord_eq (x y : Word) : remWord x y = if y = 0 then x else x.srem y := by
  unfold remWord
  rw [← BitVec.toInt_srem, BitVec.ofInt_toInt]

theorem remzWord_eq (x y : Word) : remzWord x y = if y = 0 then x else x % y := by
  unfold remzWord
  rw [← BitVec.toNat_umod, BitVec.ofNat_toNat, BitVec.setWidth_eq]

theorem shiftBy_eq (y : Word) : shiftBy y = (y &&& 63).toNat := by
  unfold shiftBy
  rw [BitVec.toNat_and]
  exact (Nat.and_two_pow_sub_one_eq_mod y.toNat 6).symm

theorem flag_eq_oneIf (b : Bool) (c : Prop) [Decidable c] (h : b = true ↔ c) : flag b = oneIf c := by
  unfold flag oneIf
  simp only [h]

theorem flag_slt (x y : Word) : flag (x.slt y) = oneIf (x.toInt < y.toInt) :=
  flag_eq_oneIf _ _ BitVec.slt_iff_toInt_lt

theorem flag_ult (x y : Word) : flag (x.ult y) = oneIf (x.toNat < y.toNat) :=
  flag_eq_oneIf _ _ BitVec.ult_iff_lt

/-- The choice of MIN, told from the other operand's side. -/
theorem ite_slt_min (x y : Word) : (if y.slt x then y else x) = if x.toInt ≤ y.toInt then x else y := by
  simp only [BitVec.slt_iff_toInt_lt, ← Int.not_le, ite_not]

theorem ite_ult_min (x y : Word) : (if y.ult x then y else x) = if x.toNat ≤ y.toNat then x else y := by
  simp only [BitVec.ult_iff_lt, BitVec.lt_def, ← Nat.not_le, ite_not]

/-- MAX takes the second operand of two that are equal, which is the first as well. -/
theorem ite_slt_max (x y : Word) : (if x.slt y then y else x) = if x.toInt ≤ y.toInt then y else x := by
  simp only [BitVec.slt_iff_toInt_lt]
  rcases Int.lt_trichotomy x.toInt y.toInt with h | h | h
  · rw [if_pos h, if_pos (by omega)]
  · rw [BitVec.eq_of_toInt_eq h, ite_self, ite_self]
  · rw [if_neg (by omega), if_neg (by omega)]

theorem ite_ult_max (x y : Word) : (if x.ult y then y else x) = if x.toNat ≤ y.toNat then y else x := by
  simp only [BitVec.ult_iff_lt, BitVec.lt_def]
  rcases Nat.lt_trichotomy x.toNat y.toNat with h | h | h
  · rw [if_pos h, if_pos (by omega)]
  · rw [BitVec.eq_of_toNat_eq h, ite_self, ite_self]
  · rw [if_neg (by omega), if_neg (by omega)]

/-- The n low bits from the top: that many zeros, and then a one unless all n were zeros. -/
theorem leadingZeros_spec (x : Word) (n : Nat) :
    leadingZeros x n ≤ n ∧ (∀ i < leadingZeros x n, x.getLsbD (n - 1 - i) = false)
      ∧ (leadingZeros x n < n → x.getLsbD (n - 1 - leadingZeros x n) = true) := by
  induction n with
  | zero => simp [leadingZeros]
  | succ n ih =>
    obtain ⟨hle, hzero, hone⟩ := ih
    by_cases hb : x.getLsbD n
    · simp [leadingZeros, hb]
    · have hz : leadingZeros x (n + 1) = 1 + leadingZeros x n := by simp [leadingZeros, hb]
      rw [hz]
      refine ⟨by omega, fun i hi => ?_, fun hlt => ?_⟩
      · cases i with
        | zero => simpa using hb
        | succ i =>
          rw [show n + 1 - 1 - (i + 1) = n - 1 - i by omega]
          exact hzero i (by omega)
      · rw [show n + 1 - 1 - (1 + leadingZeros x n) = n - 1 - leadingZeros x n by omega]
        exact hone (by omega)

theorem leadingZeros_leads (x : Word) : LeadingZeros x (leadingZeros x 64) := leadingZeros_spec x 64

/-- The n bits from bit i up: that many zeros, and then a one unless all n were zeros. -/
theorem trailingZeros_spec (x : Word) (i n : Nat) :
    trailingZeros x i n ≤ n ∧ (∀ j < trailingZeros x i n, x.getLsbD (i + j) = false)
      ∧ (trailingZeros x i n < n → x.getLsbD (i + trailingZeros x i n) = true) := by
  induction n generalizing i with
  | zero => simp [trailingZeros]
  | succ n ih =>
    obtain ⟨hle, hzero, hone⟩ := ih (i + 1)
    by_cases hb : x.getLsbD i
    · simp [trailingZeros, hb]
    · have hz : trailingZeros x i (n + 1) = 1 + trailingZeros x (i + 1) n := by simp [trailingZeros, hb]
      rw [hz]
      refine ⟨by omega, fun j hj => ?_, fun hlt => ?_⟩
      · cases j with
        | zero => simpa using hb
        | succ j =>
          rw [show i + (j + 1) = i + 1 + j by omega]
          exact hzero j (by omega)
      · rw [← Nat.add_assoc]
        exact hone (by omega)

theorem trailingZeros_trails (x : Word) : TrailingZeros x (trailingZeros x 0 64) := by
  simpa only [TrailingZeros, Nat.zero_add] using trailingZeros_spec x 0 64

theorem onesBelow_eq_countP (x : Word) (n : Nat) : onesBelow x n = (List.range n).countP x.getLsbD := by
  induction n with
  | zero => rfl
  | succ n ih => rw [onesBelow, ih, List.range_succ, List.countP_append, List.countP_singleton]

/-! ### The values of the immediates and constants (R144, R85) -/

theorem add_simm (x : Word) (i : BitVec 14) : x + simm i = BitVec.ofInt 64 (x.toInt + i.toInt) := by
  rw [BitVec.ofInt_add, BitVec.ofInt_toInt]
  rfl

theorem toInt_simm (i : BitVec 14) : (simm i).toInt = i.toInt := BitVec.toInt_signExtend_of_le (by decide)

theorem upper_eq (j : BitVec 22) : upper j = BitVec.ofInt 64 (j.toInt * 2 ^ 14) := by
  rw [BitVec.ofInt_mul]
  exact BitVec.shiftLeft_eq_mul_twoPow _ _

theorem blk_eq_blockOf (a : Word) : blk a = blockOf a := by
  apply BitVec.eq_of_getLsbD_eq
  intro i hi
  have h63 : (63 : Word).getLsbD i = decide (i < 6) := by
    rw [show (63 : Word) = BitVec.setWidth 64 (BitVec.allOnes 6) from rfl, BitVec.getLsbD_setWidth,
      BitVec.getLsbD_allOnes]
    simp [hi]
  unfold blk blockOf
  rw [BitVec.getLsbD_and, BitVec.getLsbD_not, h63, BitVec.getLsbD_shiftLeft, BitVec.getLsbD_ushiftRight]
  by_cases h6 : i < 6
  · simp [h6]
  · simp [h6, hi, Nat.add_sub_of_le (Nat.le_of_not_lt h6)]

/-! ### The integer functions and immediates complete with these values -/

theorem completes_movnz {s : State} {d a b : BitVec 5} (hs : Ready s) :
    Completes (.movnz d a b) s
      (Result s d (if s.hart.gget b.toNat = 0 then s.hart.gget d.toNat else s.hart.gget a.toNat)) := by
  refine completes_waitG hs rfl ?_
  split
  · exact wrote_advance s d hs.hart
  · exact wrote_result s d _ hs.hart

/-- A word whose result goes to g0 changes no g register (R11). -/
theorem gget_of_result_zero {s t : State} {v : Word} (h : Result s 0 v t) (r : Nat) :
    t.hart.gget r = s.hart.gget r := by
  by_cases hr : r = 0
  · rw [hr, Hart.gget_zero, Hart.gget_zero]
  · exact h.others r hr

theorem completes_mono {i : Instr} {s : State} {P Q : State → Prop} (h : Completes i s P) (hPQ : ∀ t, P t → Q t) :
    Completes i s Q :=
  let ⟨t, ht, hp⟩ := h
  ⟨t, ht, hPQ t hp⟩

/-- Settles O1: each word completes with the value of its table, by the lemma for the function it computes. -/
theorem scalarIntegersGiveTheirResults : Obligations.ScalarIntegersGiveTheirResults := by
  unfold Obligations.ScalarIntegersGiveTheirResults
  refine ⟨fun s d a b hs => ?functions, fun s d a i n j hs => ?immediates, fun s a b hs => ?zero,
    by decide, by decide⟩
  case functions =>
    exact ⟨completes_op2 hs rfl rfl,
      completes_op2 hs rfl rfl,
      completes_op2 hs rfl rfl,
      completes_op2 hs rfl (highWord_signed _ _),
      completes_op2 hs rfl (highWord_unsigned _ _),
      completes_op2 hs rfl (divWord_eq _ _),
      completes_op2 hs rfl (divzWord_eq _ _),
      completes_op2 hs rfl (remWord_eq _ _),
      completes_op2 hs rfl (remzWord_eq _ _),
      completes_op2 hs rfl rfl,
      completes_op2 hs rfl rfl,
      completes_op2 hs rfl rfl,
      completes_op2 hs rfl rfl,
      completes_op2 hs rfl (congrArg _ (shiftBy_eq _)),
      completes_op2 hs rfl (congrArg _ (shiftBy_eq _)),
      completes_op2 hs rfl (congrArg _ (shiftBy_eq _)),
      completes_op2 hs rfl (flag_slt _ _),
      completes_op2 hs rfl (flag_ult _ _),
      completes_op2 hs rfl (ite_slt_min _ _),
      completes_op2 hs rfl (ite_slt_max _ _),
      completes_op2 hs rfl (ite_ult_min _ _),
      completes_op2 hs rfl (ite_ult_max _ _),
      ⟨_, leadingZeros_leads _, completes_op1 hs rfl rfl⟩,
      ⟨_, trailingZeros_trails _, completes_op1 hs rfl rfl⟩,
      completes_op1 hs rfl (congrArg _ (onesBelow_eq_countP _ _)),
      completes_movnz hs⟩
  case immediates =>
    exact ⟨completes_op1 hs rfl (add_simm _ _),
      completes_op1 hs rfl rfl,
      completes_op1 hs rfl rfl,
      completes_op1 hs rfl rfl,
      completes_op1 hs rfl rfl,
      completes_op1 hs rfl rfl,
      completes_op1 hs rfl rfl,
      completes_op1 hs rfl (toInt_simm i ▸ flag_slt _ _),
      completes_op1 hs rfl (flag_ult _ _),
      completes_waitG hs rfl (upper_eq j ▸ wrote_result s d _ hs.hart),
      completes_waitG hs rfl (upper_eq j ▸ blk_eq_blockOf s.hart.pc ▸ wrote_result s d _ hs.hart)⟩
  case zero =>
    have hadd : Completes (.add 0 a b) s (Result s 0 _) := completes_op2 hs rfl rfl
    exact ⟨Hart.gget_zero _, completes_mono hadd fun _ => gget_of_result_zero⟩

/-! ### FMIN, FMAX and the compares (R147, R148) -/

theorem isNan_iff (v : Val) : isNan v = true ↔ v = .nan := beq_iff_eq

/-- The code that FMIN or FMAX picks of x and y, where `second` says that the order favours y (R147). -/
def picked (f : Fmt) (x y : Nat) (second : Bool) : Nat :=
  if decodeF f x = .nan then (if decodeF f y = .nan then nanOf f else y)
  else if decodeF f y = .nan then x else if second then y else x

theorem pickMinMax_false (f : Fmt) (x y : Nat) :
    pickMinMax f false x y = picked f x y (before (decodeF f y) (decodeF f x)) := by
  simp only [pickMinMax, picked, isNan_iff]
  rfl

theorem pickMinMax_true (f : Fmt) (x y : Nat) :
    pickMinMax f true x y = picked f x y (before (decodeF f x) (decodeF f y)) := by
  simp only [pickMinMax, picked, isNan_iff]
  rfl

/-- A compare writes 1 where no operand is NaN and its relation holds. -/
theorem comparison_code (signals : Bool) (c : Val → Val → Bool) (f : Fmt) (rm : Rm) (x y z : Nat) :
    BitVec.ofNat 64 (comparison signals c f rm x y z).1
      = oneIf (¬(decodeF f x = .nan ∨ decodeF f y = .nan) ∧ c (decodeF f x) (decodeF f y) = true) := by
  simp only [comparison, Bool.or_eq_true, isNan_iff, oneIf]
  by_cases hn : decodeF f x = .nan ∨ decodeF f y = .nan
  · simp [hn]
  · cases hc : c (decodeF f x) (decodeF f y) <;> simp [hn, b2n]

/-- A NaN operand adds NV to the sticky flags in the compares that signal, and no other flag is ever added. -/
theorem or_comparison_flags (fl : Word) (signals : Bool) (c : Val → Val → Bool) (f : Fmt) (rm : Rm) (x y z : Nat) :
    fl ||| BitVec.ofNat 64 ((comparison signals c f rm x y z).2 % 32)
      = if signals = true ∧ (decodeF f x = .nan ∨ decodeF f y = .nan) then fl ||| 16 else fl := by
  simp only [comparison, Bool.or_eq_true, isNan_iff]
  by_cases hn : decodeF f x = .nan ∨ decodeF f y = .nan
  · cases signals <;> simp [hn, flagNV]
  · simp [hn]

theorem completes_compare {i : Instr} {s : State} {d a b : BitVec 5} {w : BitVec 2} {signals : Bool}
    {c : Val → Val → Bool} (hs : Ready s) (hi : exec i s = .next (s.fop d a b w (comparison signals c))) :
    Completes i s (Wrote s d.toNat
      (oneIf (¬(value s w a = .nan ∨ value s w b = .nan) ∧ c (value s w a) (value s w b) = true)) (s.hart.pc + 4)
      (if signals = true ∧ (value s w a = .nan ∨ value s w b = .nan) then s.hart.fpflags ||| 16
        else s.hart.fpflags)) :=
  completes_wrote (completes_fop hs hi rfl) (comparison_code ..) (or_comparison_flags ..)

/-! ### FCVT (R149) -/

theorem completes_fcvt {s : State} {d a c : BitVec 5} {w : BitVec 2} {r : Nat × Nat} (hs : Ready s)
    (hr : scalarConvert c.toNat w (mode s) (s.hart.gget a.toNat) = r) : Completes (.fcvt d a c w) s (Floated s d r) :=
  completes_waitG hs rfl (hr ▸ wrote_floated s d _ hs.hart)

/-- Code 0 rounds the value that the other width holds. -/
theorem scalarConvert_zero (s : State) (a : BitVec 5) (w : BitVec 2) (rm : Rm) :
    scalarConvert 0 w rm (s.hart.gget a.toNat)
      = cvtToFlt (floatOf w) rm false (value s (if w = 0 then (1 : BitVec 2) else 0) a) := by
  unfold scalarConvert value operand
  by_cases hw : w = 0
  · simp only [hw, if_true]
    rfl
  · simp only [hw, if_false]
    rfl

theorem scalarConvert_two (w : BitVec 2) (rm : Rm) (x : Word) :
    scalarConvert 2 w rm x = roundFin (floatOf w) rm false false x.toNat 0 := by
  have hneg : decide ((x.toNat : Int) < 0) = false := by simp
  change roundFin (floatOf w) rm false (decide ((x.toNat : Int) < 0)) (x.toNat : Int).natAbs 0 = _
  rw [hneg, Int.natAbs_natCast]

theorem cvtToInt_inf_signed (rm : Rm) (neg : Bool) :
    cvtToInt rm true 64 (.inf neg) = (if neg then 2 ^ 63 else 2 ^ 63 - 1, 16) := by
  cases neg <;> rfl

theorem cvtToInt_inf_unsigned (rm : Rm) (neg : Bool) :
    cvtToInt rm false 64 (.inf neg) = (if neg then 0 else 2 ^ 64 - 1, 16) := by
  cases neg <;> rfl

section Finite

variable {rm : Rm} {signed neg : Bool} {m : Nat} {e : Int}

theorem cvtToInt_below (h : (toIntVal rm neg m e).1 < intMin signed 64) :
    cvtToInt rm signed 64 (.fin neg m e) = (wrapInt 64 (intMin signed 64), 16) := by
  simp only [cvtToInt, h, if_true, flagNV]

theorem cvtToInt_above (h : intMax signed 64 < (toIntVal rm neg m e).1) :
    cvtToInt rm signed 64 (.fin neg m e) = (wrapInt 64 (intMax signed 64), 16) := by
  have hends : intMin signed 64 ≤ intMax signed 64 := by cases signed <;> decide
  have hlow : ¬ (toIntVal rm neg m e).1 < intMin signed 64 := by omega
  simp only [cvtToInt, hlow, if_false, h, if_true, flagNV]

theorem cvtToInt_within (hlow : intMin signed 64 ≤ (toIntVal rm neg m e).1)
    (hhigh : (toIntVal rm neg m e).1 ≤ intMax signed 64) :
    cvtToInt rm signed 64 (.fin neg m e)
      = (wrapInt 64 (toIntVal rm neg m e).1, if (toIntVal rm neg m e).2 then 1 else 0) := by
  simp only [cvtToInt, Int.not_lt.mpr hlow, Int.not_lt.mpr hhigh, if_false, flagNX]

theorem ofNat_wrapInt (n : Int) : BitVec.ofNat 64 (wrapInt 64 n) = BitVec.ofInt 64 n := by
  apply BitVec.eq_of_toNat_eq
  rw [BitVec.toNat_ofNat, BitVec.toNat_ofInt, wrapInt]
  omega

variable {i : Instr} {s : State} {d : BitVec 5}

/-- A conversion whose integer lies below its type gives the least value n, with NV (R128). -/
theorem completes_toInt_below {n : Nat} (h : Completes i s (Floated s d (cvtToInt rm signed 64 (.fin neg m e))))
    (hn : wrapInt 64 (intMin signed 64) = n) (hlow : (toIntVal rm neg m e).1 < intMin signed 64) :
    Completes i s (Floated s d (n, 16)) := by
  rwa [cvtToInt_below hlow, hn] at h

/-- One whose integer lies above its type gives the greatest value n, with NV. -/
theorem completes_toInt_above {n : Nat} (h : Completes i s (Floated s d (cvtToInt rm signed 64 (.fin neg m e))))
    (hn : wrapInt 64 (intMax signed 64) = n) (hhigh : intMax signed 64 < (toIntVal rm neg m e).1) :
    Completes i s (Floated s d (n, 16)) := by
  rwa [cvtToInt_above hhigh, hn] at h

/-- One whose integer the type holds gives it, with NX where rounding changed the value. -/
theorem completes_toInt_within (h : Completes i s (Floated s d (cvtToInt rm signed 64 (.fin neg m e))))
    (hlow : intMin signed 64 ≤ (toIntVal rm neg m e).1) (hhigh : (toIntVal rm neg m e).1 ≤ intMax signed 64) :
    Completes i s (Wrote s d.toNat (BitVec.ofInt 64 (toIntVal rm neg m e).1) (s.hart.pc + 4)
      (if (toIntVal rm neg m e).2 then s.hart.fpflags ||| 1 else s.hart.fpflags)) := by
  rw [cvtToInt_within hlow hhigh] at h
  refine completes_wrote h (ofNat_wrapInt _) ?_
  cases (toIntVal rm neg m e).2
  · exact BitVec.or_zero
  · rfl

end Finite

/-! ### FCLASS (R150) -/

/-- In a format with infinities and NaNs, the class that the decoded value shows is that of the fields. -/
theorem classOf_eq_classBit (f : Fmt) (x : Nat) (hf : f.kind = .ieee) : classOf f x = classBit f x := by
  have hfrac : x % 2 ^ f.nf < 2 ^ f.nf := Nat.mod_lt _ (Nat.two_pow_pos f.nf)
  unfold classOf classBit decodeF
  by_cases htop : x / 2 ^ f.nf % 2 ^ f.ne = 2 ^ f.ne - 1
  · by_cases hm : x % 2 ^ f.nf = 0 <;> simp [hf, htop, hm]
  · by_cases hsub : x / 2 ^ f.nf % 2 ^ f.ne = 0
    · have hzero : ¬ 0 = 2 ^ f.ne - 1 := hsub ▸ htop
      simp [hf, hzero, hsub, hfrac]
    · have hnormal : ¬ 2 ^ f.nf + x % 2 ^ f.nf < 2 ^ f.nf := Nat.not_lt.mpr (Nat.le_add_right ..)
      simp [hf, htop, hsub, hnormal]

theorem floatOf_kind (w : BitVec 2) : (floatOf w).kind = .ieee := by
  unfold floatOf
  split <;> rfl

theorem completes_fclass {s : State} {d a : BitVec 5} {w : BitVec 2} (hs : Ready s) :
    Completes (.fclass d a w) s (Result s d (BitVec.ofNat 64 (2 ^ classBit (floatOf w) (operand s w a)))) := by
  rw [← classOf_eq_classBit _ _ (floatOf_kind w)]
  exact completes_result (completes_fop hs rfl rfl)

/-- Settles O3: minima and compares by the order that both sides share, FCVT code by code and case by case of the
value, FCLASS by the fields of its operand. -/
theorem scalarComparesAndConversions : Obligations.ScalarComparesAndConversions := by
  unfold Obligations.ScalarComparesAndConversions
  refine ⟨fun s d a b w hs _ => ?compares, fun s d a w hs _ => ?conversions⟩
  case compares =>
    exact ⟨completes_result (completes_fop hs rfl (congrArg (·, 0) (pickMinMax_false ..))),
      completes_result (completes_fop hs rfl (congrArg (·, 0) (pickMinMax_true ..))),
      by simpa only [Bool.false_eq_true, false_and, if_false] using completes_compare (i := .fcmpeq d a b w) hs rfl,
      by simpa only [true_and] using completes_compare (i := .fcmplt d a b w) hs rfl,
      by simpa only [true_and, Bool.or_eq_true] using completes_compare (i := .fcmple d a b w) hs rfl⟩
  case conversions =>
    have toSigned : Completes (.fcvt d a 3 w) s (Floated s d (cvtToInt (mode s) true 64 (value s w a))) :=
      completes_fcvt hs rfl
    have toUnsigned : Completes (.fcvt d a 4 w) s (Floated s d (cvtToInt (mode s) false 64 (value s w a))) :=
      completes_fcvt hs rfl
    refine ⟨completes_fcvt hs ?width, completes_fcvt hs rfl, completes_fcvt hs (scalarConvert_two ..),
      fun hv => ?nan, fun neg hv => ?inf, fun neg m e hv => ?fin, completes_fclass hs⟩
    case width =>
      refine (scalarConvert_zero s a w (mode s)).trans ?_
      cases value s (if w = 0 then (1 : BitVec 2) else 0) a <;> rfl
    all_goals rw [hv] at toSigned toUnsigned
    case nan => exact ⟨toSigned, toUnsigned⟩
    case inf => exact ⟨cvtToInt_inf_signed _ neg ▸ toSigned, cvtToInt_inf_unsigned _ neg ▸ toUnsigned⟩
    case fin =>
      have hsmin : intMin true 64 = -2 ^ 63 := rfl
      have hsmax : intMax true 64 = 2 ^ 63 - 1 := rfl
      have humin : intMin false 64 = 0 := rfl
      have humax : intMax false 64 = 2 ^ 64 - 1 := rfl
      exact ⟨fun h => completes_toInt_within toSigned (by omega) (by omega),
        fun h => completes_toInt_below toSigned rfl h,
        fun h => completes_toInt_above toSigned rfl (by omega),
        fun h => completes_toInt_within toUnsigned (by omega) (by omega),
        fun h => completes_toInt_below toUnsigned rfl h,
        fun h => completes_toInt_above toUnsigned rfl (by omega)⟩

end Sys2Proof.Proofs

/-! SUPPORT. Chapter 07, VFEXP2: a vector instruction alone from issue to retirement, what an element loop over the strip
has computed, and 2^x of R204 and R205. The statement O26 is refuted, for want of one hypothesis; `completes_vfexp2` is
what holds with it. -/

namespace Sys2Proof.Proofs

open Sys2Proof.Machine Sys2Proof.Stated

/-! ### The strip, as the model and the statements read it -/

theorem fld_eq (w : Word) (lo n : Nat) : fld w lo n = w.toNat / 2 ^ lo % 2 ^ n := by
  rw [fld, Nat.shiftRight_eq_div_pow]

theorem vlOf_vcfg (s : State) : vlOf s.hart.vcfg = vlNow s :=
  (fld_eq _ 0 13).trans (congrArg (· % 8192) (Nat.div_one _))

theorem ewOf_vcfg (s : State) : ewOf s.hart.vcfg = ewNow s := fld_eq _ 13 3

theorem fmtOf_vcfg (s : State) : fmtOf s.hart.vcfg = fmtNow s := fld_eq _ 16 3

theorem ewBits_ewNow (s : State) : ewBits (ewNow s) = bitsNow s := Nat.shiftLeft_eq _ _

theorem bitsNow_ge (s : State) : 4 ≤ bitsNow s := Nat.le_mul_of_pos_right 4 (Nat.two_pow_pos _)

theorem lanes_eq_liveOf (h : Hart) : h.lanes = liveOf h.retiredLanes := by
  have hsplit := List.length_eq_countP_add_countP (fun i => h.retiredLanes.getLsbD i) (l := List.range 32)
  simp only [List.length_range, Bool.not_eq_true, Bool.decide_eq_false] at hsplit
  unfold Hart.lanes liveOf
  omega

theorem vlmaxr_eq_longest (h : Hart) : h.vlmaxr = longest h.retiredLanes h.miract := by
  rw [Hart.vlmaxr, longest, lanes_eq_liveOf]

theorem room_le (h : Hart) : 64 * h.vlmaxr ≤ 16384 := by
  have hlanes : h.lanes ≤ 32 := Nat.sub_le _ _
  unfold Hart.vlmaxr
  split <;> omega

theorem roomNow_eq (s : State) : roomNow s = 64 * s.hart.vlmaxr := by rw [roomNow, vlmaxr_eq_longest]

theorem vmask_bit (h : Hart) (j : Nat) : h.vmask.getLsbD j = decide (j < 64 * h.vlmaxr) := by
  have hroom := room_le h
  rw [Hart.vmask, BitVec.getLsbD_ofNat, Nat.testBit_two_pow_sub_one]
  rw [← Bool.decide_and, decide_eq_decide]
  omega

theorem vget_bit_of_ge (h : Hart) (r j : Nat) (hj : 64 * h.vlmaxr ≤ j) : (h.vget r).getLsbD j = false := by
  rw [Hart.vget, BitVec.getLsbD_and, vmask_bit, decide_eq_false (Nat.not_lt.mpr hj), Bool.and_false]

/-- The element that a register's bits spell. -/
theorem elementAt_eq_of_bits {r : VReg} {w k x : Nat} (hx : x < 2 ^ w)
    (h : ∀ i < w, r.getLsbD (w * k + i) = x.testBit i) : elementAt r w k = x := by
  apply Nat.eq_of_testBit_eq
  intro i
  rw [elementAt, BitVec.testBit_toNat, BitVec.getLsbD_extractLsb']
  by_cases hi : i < w
  · simp [hi, h i hi]
  · simp [hi, Nat.testBit_lt_two_pow (Nat.lt_of_lt_of_le hx (Nat.pow_le_pow_right (by decide) (Nat.not_lt.mp hi)))]

theorem elemOf_eq_elementAt (r : VReg) (w k : Nat) : elemOf r w k = elementAt r w k := by
  rw [elemOf_eq, elementAt, Nat.mul_comm]

/-! ### A vector instruction alone, from issue to retirement -/

/-- No check at issue stops the word (R196, R194, R235, R27), and no register that it reads is bound (R236). -/
structure Unhindered (s : State) (i : Instr) : Prop where
  legal : illegalAtIssue i s.hart.capture = false
  apart : overlaps i s.hart.capture = false
  unstreamed : streamTrap s.hart i s.hart.capture = false
  inRange : vlTrap s.hart i s.hart.capture (s.entryOf i).opa (s.ladderOf i (s.entryOf i).opa) = none
  unread : s.hart.bindingsRead (s.entryOf i) = []

section Alone

variable {s : State} {i : Instr} {named : List (BitVec 6)}

theorem vl_le_of_alone (hs : Alone s i named) : vlNow s ≤ 4096 := by
  have hfits := hs.fits
  have hroom := room_le s.hart
  rw [roomNow_eq] at hfits
  have := Nat.mul_le_mul_left (vlNow s) (bitsNow_ge s)
  omega

/-- What the entry of the word executes with. -/
def ctxNow (s : State) (i : Instr) : Ctx := s.hart.ctxOf (s.entryOf i) 0 0 8192

theorem ctxNow_vl : (ctxNow s i).vl = vlNow s := vlOf_vcfg s

theorem ctxNow_bits : (ctxNow s i).bits = bitsNow s := by
  rw [← ewBits_ewNow, ← ewOf_vcfg]
  rfl

/-- The elements that the word acts on are those that are live (R7, R181, R197). -/
theorem ctxNow_on (hs : Alone s i named) {k : Nat} (hk : k < vlNow s) : (ctxNow s i).on k = live s k := by
  have hvl := vl_le_of_alone hs
  have hbound : k < min (s.hart.bound.getD (vlNow s)) (vlNow s) ↔ k < boundNow s := by
    rw [boundNow, Nat.lt_min]
    exact and_iff_left hk
  have hgov : (ctxNow s i).gov.getLsbD k
      = (!s.hart.vmsk.getLsbD 5 || (s.hart.pget (s.hart.vmsk.toNat % 32)).getLsbD k) := by
    change (if bit s.hart.vmsk 5 then s.hart.pget (fld s.hart.vmsk 0 5) else BitVec.allOnes 4096).getLsbD k = _
    rw [bit, fld_eq, Nat.pow_zero, Nat.div_one]
    cases s.hart.vmsk.getLsbD 5
    · rw [if_neg Bool.false_ne_true, BitVec.getLsbD_allOnes, decide_eq_true (Nat.lt_of_lt_of_le hk hvl)]
      rfl
    · rfl
  have hu : (ctxNow s i).u = min (s.hart.bound.getD (vlNow s)) (vlNow s) := by
    rw [← vlOf_vcfg]
    rfl
  rw [Ctx.on, Ctx.active, hgov, hu, ctxNow_vl, live, activeAt, decide_eq_decide.mpr hbound]

theorem ctxNow_elems (hs : Alone s i named) : (ctxNow s i).elems = List.range (vlNow s) := by
  have hvl := vl_le_of_alone hs
  rw [Ctx.elems_plain _ rfl, ctxNow_vl, List.range_eq_range']
  change List.range' 0 (min 8192 (vlNow s) - 0) = _
  rw [Nat.sub_zero, Nat.min_eq_right (by omega)]

/-- The register and the flags that an element loop writes. -/
theorem putV_eq (s : State) (d : Nat) (r : VReg × Nat) (hc : s.cur < 512) :
    s.putV d r = s.setHart { s.hart.vset d r.1 with fpflags := s.hart.fpflags ||| BitVec.ofNat 64 (r.2 % 32) } := by
  unfold State.putV State.addFlags
  rw [State.modHart_eq, State.modHart_eq, State.hart_setHart s _ hc, State.setHart_setHart]
  rfl

/-- The only entry of a queue retires. -/
theorem retire_only {h : Hart} {e : QEntry} {n : Nat} (hqueue : h.queue = [e]) (hseq : e.seq = n) :
    h.retire [n] = { h with queue := [], stopped := none, watched := [], dbg := { h.dbg with retired := true } } := by
  rw [Hart.retire, hqueue, List.filter_cons_of_neg (by simp [hseq]), List.filter_nil]

/-- A word alone whose member only writes register d and flags: its hart afterwards, the counters of lane cycles aside. -/
theorem issueV_putV (hs : Alone s i named) (hi : Unhindered s i) (d : Nat) (r : VReg × Nat)
    (hmember : ∀ t : State, (∀ n, t.hart.vget n = s.hart.vget n) → runMember (ctxNow s i) t = .ok (t.putV d r)) :
    (∀ n, (s.issueV i).hart.vget n = (s.hart.vset d r.1).vget n)
      ∧ (s.issueV i).hart.fpflags = s.hart.fpflags ||| BitVec.ofNat 64 (r.2 % 32)
      ∧ Stepped s { s.hart with v := (s.issueV i).hart.v, fpflags := (s.issueV i).hart.fpflags } (s.issueV i) := by
  have hc : s.cur < 512 := hs.hart
  have hforced : s.hart.forced (ctxNow s i) false = none := Hart.forced_none _ _ _ hs.unwatched hs.matched
  have henq : (s.enqueue i).modHart Hart.pick = s.setHart (Hart.pick { s.hart with
      queue := [s.entryOf i], nextSeq := s.hart.nextSeq + 1, split := false, lastVl := vlNow s
      pc := s.hart.pc + 4 }) := by
    rw [State.modHart_eq, State.enqueue, State.hart_modHart s _ hc, State.modHart_eq, State.setHart_setHart, hs.idle]
    rw [← vlOf_vcfg]
    rfl
  have hregs (n : Nat) : ((s.enqueue i).modHart Hart.pick).hart.vget n = s.hart.vget n := by
    rw [henq, State.hart_setHart s _ hc]
    rfl
  have halone := State.issueV_alone s i hc hs.program hs.idle hs.next hs.stepping hs.sound hs.fresh hi.legal
    hi.apart hi.unstreamed hi.inRange hi.unread hforced _ (hmember _ hregs).symm rfl rfl
  rw [henq, MRes.ok, putV_eq _ _ _ (by exact hc), State.hart_setHart s _ hc, State.setHart_setHart] at halone
  obtain ⟨lu, lm, lt, ls, act, ahead, hdone⟩ := State.memberDone_eq (s.setHart _) s.hart.nextSeq 0 _ _ hc
  rw [hdone, State.hart_setHart s _ hc, State.setHart_setHart] at halone
  rw [halone]
  refine ⟨fun n => ?_, ?_, ?_⟩
  · rw [State.hart_setHart s _ hc]
    rfl
  · rw [State.hart_setHart s _ hc]
    rfl
  · unfold Stepped
    rw [State.hart_setHart s _ hc]
    exact congrArg s.setHart ((retire_only (e := s.entryOf i) rfl rfl).trans rfl)

/-! ### What an element loop over the strip has computed -/

/-- A bit of the register that an element loop wrote: below VL that of the element's value, of the zero of VCFG.ZERO or
of before; from VL on that of before (R15, R197). -/
theorem bit_vset_mapElems (hs : Alone s i named) {d : Nat} (hd : d < 48) (g : Nat → Nat × Nat) {k b : Nat}
    (hb : b < bitsNow s) :
    ((s.hart.vset d ((ctxNow s i).mapElems (s.hart.vget d) (bitsNow s) g).1).vget d).getLsbD (bitsNow s * k + b)
      = if k < vlNow s then
          (if live s k then (g k).1.testBit b
            else if s.hart.vcfg.getLsbD 23 then false else (s.hart.vget d).getLsbD (bitsNow s * k + b))
        else (s.hart.vget d).getLsbD (bitsNow s * k + b) := by
  have hroom := room_le s.hart
  have hfits := hs.fits
  rw [roomNow_eq] at hfits
  have hvl := vl_le_of_alone hs
  have hw : 0 < bitsNow s := by omega
  by_cases hj : bitsNow s * k + b < 64 * s.hart.vlmaxr
  · have hdiv : (bitsNow s * k + b) / bitsNow s = k := by
      rw [Nat.mul_add_div hw, Nat.div_eq_of_lt hb, Nat.add_zero]
    have hmod : (bitsNow s * k + b) % bitsNow s = b := by rw [Nat.mul_add_mod, Nat.mod_eq_of_lt hb]
    have hcover : (ctxNow s i).lo ≤ k ∧ k < (ctxNow s i).lo + (min (ctxNow s i).hi (ctxNow s i).vl - (ctxNow s i).lo)
        ↔ k < vlNow s := by
      rw [ctxNow_vl]
      change 0 ≤ k ∧ k < 0 + (min 8192 (vlNow s) - 0) ↔ _
      omega
    rw [Hart.vget_vset _ _ _ hd, BitVec.getLsbD_and, vmask_bit, decide_eq_true hj, Bool.and_true,
      Ctx.mapElems_bit _ _ _ _ hw rfl _ (by omega), hdiv, hmod]
    by_cases hk : k < vlNow s
    · rw [if_pos (hcover.mpr hk), if_pos hk, ctxNow_on hs hk]
      rfl
    · rw [if_neg (fun h => hk (hcover.mp h)), if_neg hk]
  · have hk : ¬ k < vlNow s := fun hk => by
      have := Nat.mul_le_mul_right (bitsNow s) (Nat.succ_le_of_lt hk)
      rw [Nat.succ_mul, Nat.mul_comm k] at this
      omega
    rw [if_neg hk, vget_bit_of_ge _ _ _ (Nat.not_lt.mp hj)]
    exact vget_bit_of_ge _ _ _ (Nat.not_lt.mp hj)

/-- A word alone whose member is an element loop over register d computes what the loop's function gives. -/
theorem computed_of_mapElems (hs : Alone s i named) (hi : Unhindered s i) {d : BitVec 6} (hd : d ∈ named)
    (g : Nat → Nat × Nat) (hg : ∀ k, (g k).1 < 2 ^ bitsNow s)
    (hmember : ∀ t : State, (∀ n, t.hart.vget n = s.hart.vget n) →
      runMember (ctxNow s i) t = .ok (t.putV d.toNat ((ctxNow s i).mapElems (s.hart.vget d.toNat) (bitsNow s) g))) :
    Computed s d (bitsNow s) (fun k => (g k).1) (fun k => (g k).2) (s.issueV i) := by
  have hw : 0 < bitsNow s := Nat.lt_of_lt_of_le (by decide) (bitsNow_ge s)
  obtain ⟨hregs, hflags, hframe⟩ := issueV_putV hs hi d.toNat _ hmember
  have hbit {k b : Nat} (hb : b < bitsNow s) := bit_vset_mapElems hs (hs.registers d hd) g (k := k) hb
  simp only [← hregs] at hbit
  refine { written := fun k hk hlive => ?written, masked := fun k hk hlive => ?masked, tail := fun j hj => ?tail
           others := fun r hr => ?others, flags := fun j hj => ?flags, frame := hframe }
  case written =>
    exact elementAt_eq_of_bits (hg k) fun b hb => by rw [hbit hb, if_pos hk, if_pos hlive]
  case masked =>
    split
    next hzero =>
      exact elementAt_eq_of_bits (Nat.two_pow_pos _) fun b hb => by
        rw [hbit hb, if_pos hk, hlive, if_neg Bool.false_ne_true, if_pos hzero, Nat.zero_testBit]
    next hkeep =>
      refine elementAt_eq_of_bits (BitVec.isLt _) fun b hb => ?_
      rw [hbit hb, if_pos hk, hlive, if_neg Bool.false_ne_true, if_neg hkeep, elementAt, BitVec.testBit_toNat,
        BitVec.getLsbD_extractLsb', decide_eq_true hb, Bool.true_and]
  case tail =>
    have hk : ¬ j / bitsNow s < vlNow s := by
      rw [Nat.div_lt_iff_lt_mul hw]
      omega
    have := hbit (k := j / bitsNow s) (Nat.mod_lt j hw)
    rwa [if_neg hk, Nat.div_add_mod] at this
  case others => rw [hregs, Hart.vget_vset_ne _ _ _ _ hr]
  case flags =>
    have hany : (List.range (vlNow s)).any (fun k => (ctxNow s i).on k && (g k).2.testBit j)
        = (List.range (vlNow s)).any (fun k => live s k && (g k).2.testBit j) :=
      Bool.eq_iff_iff.mpr (by
        simp only [List.any_eq_true, List.mem_range]
        exact exists_congr fun k => and_congr_right fun hk => by rw [ctxNow_on hs hk])
    rw [hflags, BitVec.getLsbD_or, BitVec.getLsbD_ofNat, decide_eq_true hj, Bool.true_and,
      show (32 : Nat) = 2 ^ 5 from rfl, Nat.testBit_mod_two_pow, Ctx.mapElems_flag, ctxNow_elems hs, hany]

end Alone

/-! ### VFEXP2 is not stopped at issue -/

section Exponential

variable {s : State} {d a : BitVec 6} {x : BitVec 1}

theorem namedReads_vfexp2 : namedReads (.vfexp2 d a x) = [a.toNat] := by
  change (src a x).1 ++ (src a x).2 = [a.toNat]
  unfold src
  split <;> rfl

theorem legal_vfexp2 (hfloats : takesFloats s) (hew : ewNow s < 4) :
    illegalAtIssue (.vfexp2 d a x) s.hart.capture = false := by
  change (noFloat (ewOf s.hart.vcfg) (fmtOf s.hart.vcfg) || decide (ewOf s.hart.vcfg = 4)) = false
  rw [ewOf_vcfg, fmtOf_vcfg, noFloat]
  simp only [takesFloats] at hfloats
  simp only [Bool.or_eq_false_iff, Bool.and_eq_false_iff, decide_eq_false_iff_not]
  omega

theorem scaleReads_vfexp2 (mscale : Word) : scaleReads (.vfexp2 d a x) mscale = [] := by
  simp [scaleReads, convertsM, scaledTile]

/-- A register that is not one of a binding with a plane is not its leading one. -/
theorem ne_reg_of_not_mem_regs {b : Binding} {r : Nat} (hb : 0 < b.planes) (hr : r ∉ b.regs) : b.reg ≠ r := by
  rintro rfl
  exact hr (List.mem_append_left _ (List.mem_map.mpr ⟨0, List.mem_range.mpr hb, rfl⟩))

theorem unstreamed_vfexp2 (hplanes : ∀ b ∈ s.hart.binds, 0 < b.planes)
    (hsource : ∀ b ∈ s.hart.binds, a.toNat ∉ b.regs) (hdest : ∀ b ∈ s.hart.binds, d.toNat ∉ b.regs) :
    streamTrap s.hart (.vfexp2 d a x) s.hart.capture = false := by
  unfold streamTrap
  refine List.any_eq_false.mpr fun b hb => ?_
  have hlower : lowerReads (.vfexp2 d a x) = [] := rfl
  have hwrites : ((vInfo (.vfexp2 d a x)).map (·.writes)).getD [] = [d.toNat] := rfl
  simp [scaleReads_vfexp2, hlower, hwrites, namedReads_vfexp2, hdest b hb, hsource b hb,
    ne_reg_of_not_mem_regs (hplanes b hb) (hsource b hb)]

theorem bindingBits_vfexp2 {h : Hart} (hplanes : ∀ b ∈ h.binds, 0 < b.planes)
    (hsource : ∀ b ∈ h.binds, a.toNat ∉ b.regs) : bindingBits h (.vfexp2 d a x) = 0 :=
  List.foldlRecOn (motive := (· = 0)) h.binds _ rfl fun w hw b hb => by
    simp [hw, namedReads_vfexp2, ne_reg_of_not_mem_regs (hplanes b hb) (hsource b hb)]

theorem inRange_vfexp2 (hplanes : ∀ b ∈ s.hart.binds, 0 < b.planes)
    (hsource : ∀ b ∈ s.hart.binds, a.toNat ∉ b.regs) (hfits : vlNow s * bitsNow s ≤ roomNow s)
    (opa : Word) (ladder : Nat) :
    vlTrap s.hart (.vfexp2 d a x) s.hart.capture opa ladder = none := by
  have hlimit : vlNow s ≤ s.hart.vlmax (ewNow s) := by
    have hw : 0 < bitsNow s := Nat.lt_of_lt_of_le (by decide) (bitsNow_ge s)
    rw [Hart.vlmax, ewBits_ewNow, Nat.le_div_iff_mul_le hw, Nat.mul_comm _ 64, ← roomNow_eq]
    exact hfits
  have hbits : bindingBits s.hart (.vfexp2 d a x) = 0 := bindingBits_vfexp2 hplanes hsource
  have hvl : vlOf s.hart.capture.vcfg = vlNow s := vlOf_vcfg s
  have hew : ewOf s.hart.capture.vcfg = ewNow s := ewOf_vcfg s
  unfold vlTrap
  simp [hbits, hvl, hew, capacityBits, xpandBits, lengthLimit, Nat.not_lt.mpr hlimit]

theorem unread_vfexp2 (hsource : ∀ b ∈ s.hart.binds, a.toNat ∉ b.regs) :
    s.hart.bindingsRead (s.entryOf (.vfexp2 d a x)) = [] := by
  have hreads : allReads (.vfexp2 d a x) s.hart.capture.mscale = [a.toNat] := by
    rw [allReads, scaleReads_vfexp2, List.append_nil]
    exact namedReads_vfexp2
  have hnone : s.hart.bindingOf a.toNat = none := by
    simpa [Hart.bindingOf, List.findIdx?_eq_none_iff] using hsource
  change (List.filterMap s.hart.bindingOf (allReads (.vfexp2 d a x) s.hart.capture.mscale)).eraseDups = []
  simp [hreads, hnone]

theorem unhindered_vfexp2 (hfloats : takesFloats s) (hew : ewNow s < 4) (hs : Alone s (.vfexp2 d a x) [d, a])
    (hplanes : ∀ b ∈ s.hart.binds, 0 < b.planes) : Unhindered s (.vfexp2 d a x) :=
  have hdest : ∀ b ∈ s.hart.binds, d.toNat ∉ b.regs := fun b hb => hs.unbound b hb d (by simp)
  have hsource : ∀ b ∈ s.hart.binds, a.toNat ∉ b.regs := fun b hb => hs.unbound b hb a (by simp)
  { legal := legal_vfexp2 hfloats hew
    apart := rfl
    unstreamed := unstreamed_vfexp2 hplanes hsource hdest
    inRange := inRange_vfexp2 hplanes hsource hs.fits _ _
    unread := unread_vfexp2 hsource }

end Exponential

/-! ### The codes of 2^x fit their format -/

section Codes

variable (f : Fmt)

/-- The codes from the top exponent on come before the sign bit. -/
theorem top_exponent_add : (2 ^ f.ne - 1) * 2 ^ f.nf + 2 ^ f.nf = 2 ^ (f.ne + f.nf) := by
  rw [← Nat.succ_mul, Nat.pow_add, Nat.succ_eq_add_one, Nat.sub_add_cancel (Nat.two_pow_pos _)]

theorem two_pow_lt_bits : 2 ^ (f.ne + f.nf) < 2 ^ f.bits := Nat.pow_lt_pow_right (by decide) (by unfold Fmt.bits; omega)

theorem top_exponent_lt : (2 ^ f.ne - 1) * 2 ^ f.nf < 2 ^ f.bits :=
  Nat.lt_of_le_of_lt (top_exponent_add f ▸ Nat.le_add_right ..) (two_pow_lt_bits f)

theorem largestOf_lt : largestOf f < 2 ^ f.bits := by
  unfold largestOf
  split
  · exact Nat.lt_of_le_of_lt (Nat.sub_le ..) (top_exponent_lt f)
  all_goals exact Nat.lt_of_le_of_lt (Nat.sub_le ..) (two_pow_lt_bits f)

theorem nanOf_lt : nanOf f < 2 ^ f.bits := by
  have hquiet : 2 ^ (f.nf - 1) ≤ 2 ^ f.nf := Nat.pow_le_pow_right (by decide) (Nat.sub_le ..)
  unfold nanOf
  split
  · exact Nat.lt_of_le_of_lt (top_exponent_add f ▸ Nat.add_le_add_left hquiet _) (two_pow_lt_bits f)
  · exact Nat.lt_of_le_of_lt (Nat.add_comm f.nf _ ▸ Nat.sub_le ..) (two_pow_lt_bits f)
  · exact Nat.two_pow_pos _

theorem signAt_false : signAt f false = 0 := rfl

theorem infOf_false_lt : infOf f false < 2 ^ f.bits := by
  unfold infOf
  rw [signAt_false, Nat.zero_add, Nat.zero_add]
  split
  · exact top_exponent_lt f
  · exact nanOf_lt f
  · exact largestOf_lt f

theorem overflowTo_false_lt (rm : Rm) (sat : Bool) : overflowTo f rm sat false < 2 ^ f.bits := by
  have hends (c : Prop) [Decidable c] : (if c then signAt f false + largestOf f else infOf f false) < 2 ^ f.bits := by
    rw [signAt_false, Nat.zero_add]
    split
    · exact largestOf_lt f
    · exact infOf_false_lt f
  exact hends _

/-- A value that is not negative rounds to a code of its format. -/
theorem roundFin_false_lt (rm : Rm) (sat : Bool) (m : Nat) (e : Int) :
    (roundFin f rm sat false m e).1 < 2 ^ f.bits := by
  unfold roundFin
  simp only [Bool.and_false, Bool.false_and, Bool.false_eq_true, if_false, signAt_false, Nat.zero_add, ite_self]
  split
  · exact Nat.two_pow_pos _
  · split
    · exact overflowTo_false_lt f rm sat
    · next hle => exact Nat.lt_of_le_of_lt (Nat.not_lt.mp hle) (largestOf_lt f)

/-- 2^x is a code of its format. -/
theorem exp2_lt (v : Val) : (exp2 f v).1 < 2 ^ f.bits := by
  unfold exp2
  split
  case h_1 => exact nanOf_lt f
  case h_2 neg =>
    cases neg
    · exact infOf_false_lt f
    · exact Nat.two_pow_pos _
  case h_3 =>
    split
    · exact infOf_false_lt f
    · split
      · exact Nat.two_pow_pos _
      · exact roundFin_false_lt f ..

end Codes

/-! ### 2^x by the table and the polynomial of R204 -/

/-- The table of the model is the table of R204. -/
theorem expTableOf_expTable : expTableOf (fun j => expTable[j]?.getD 0) := by
  unfold expTableOf
  decide +kernel

/-- Numbers nearest to the same roots are equal. -/
theorem expTableOf_unique {T U : Nat → Nat} (hT : expTableOf T) (hU : expTableOf U) {j : Nat} (hj : j < 64) :
    T j = U j := by
  have hle {T U : Nat → Nat} (hT : expTableOf T) (hU : expTableOf U) : T j ≤ U j := by
    have hroot := Nat.lt_trans (hT j hj).1 (hU j hj).2
    have := (Nat.pow_lt_pow_iff_left (by decide)).mp hroot
    omega
  exact Nat.le_antisymm (hle hT hU) (hle hU hT)

/-- 2^x of R204 and R205 by a table T. -/
def expBy (f : Fmt) (T : Nat → Nat) : Val → Nat × Nat
  | .nan => (nanOf f, 0)
  | .inf neg => if neg then (0, 0) else (infOf f false, 0)
  | .fin neg m e =>
    if ltVal (.fin false 200 0) (.fin neg m e) then (infOf f false, 5)
    else if ltVal (.fin neg m e) (.fin true 200 0) then (0, 3)
    else expOf f T neg m e

theorem isInteger_iff (m : Nat) (e : Int) : isInteger m e = true ↔ 0 ≤ e ∨ m % 2 ^ (-e).toNat = 0 := by
  rw [isInteger, Bool.or_eq_true, decide_eq_true_iff, decide_eq_true_iff]

/-- The model's own numbers are those of R204, whatever way the table is given. -/
theorem exp2_eq_expBy {f : Fmt} {T : Nat → Nat} (hT : expTableOf T) (v : Val) : exp2 f v = expBy f T v := by
  cases v with
  | nan => rfl
  | inf neg => rfl
  | fin neg m e =>
    have hrow (X : Int) : (X - X / 2 ^ 23 * 2 ^ 23).toNat / 2 ^ 17 < 64 := by omega
    simp only [exp2, expBy, expOf, expTableOf_unique hT expTableOf_expTable (hrow _), isInteger_iff]
    rfl

/-! ### VFEXP2 computes 2^x -/

/-- VFEXP2 is issued to the vector unit. -/
theorem exec_vfexp2 (d a : BitVec 6) (x : BitVec 1) (s : State) :
    exec (.vfexp2 d a x) s = .next (s.issueV (.vfexp2 d a x)) := rfl

theorem fmtFor_eq_formatNow {s : State} (hfloats : takesFloats s) : fmtFor (ewNow s) (fmtNow s) = formatNow s := by
  unfold formatNow
  rcases hfloats with ⟨hew, hfmt⟩ | ⟨hew | hew, hfmt⟩
  · have hfmt : fmtNow s = 0 ∨ fmtNow s = 1 := by omega
    rcases hew with hew | hew <;> rcases hfmt with hfmt | hfmt <;> rw [hew, hfmt] <;> rfl
  · rw [hew, hfmt]
    rfl
  · rw [hew, hfmt]
    rfl

theorem formatNow_bits {s : State} (hfloats : takesFloats s) : (formatNow s).bits = bitsNow s := by
  unfold formatNow bitsNow
  rcases hfloats with ⟨hew | hew, -⟩ | ⟨hew | hew, -⟩ <;> rw [hew]
  · rw [if_pos rfl]
    split <;> rfl
  · rw [if_neg (by decide), if_pos rfl]
    split <;> rfl
  · rfl
  · rfl

theorem elemMember_unary {c : Ctx} {t : State} {d a : BitVec 6} {w : Nat} (g : Nat → Nat × Nat) :
    elemMember c t d a a 0 w (fun x _ _ => g x)
      = .ok (t.putV d.toNat (c.mapElems (t.hart.vget d.toNat) w (fun k => g (elementAt (t.hart.vget a.toNat) w k)))) := by
  simp only [elemMember, elemOf_eq_elementAt]

/-- R204, R205: where every binding has a plane, VFEXP2 alone computes 2^x of each element it acts on, with its flags. -/
theorem completes_vfexp2 {s : State} {d a : BitVec 6} {x : BitVec 1} {T : Nat → Nat} (hfloats : takesFloats s)
    (hew : ewNow s < 4) (hT : expTableOf T) (hs : Alone s (.vfexp2 d a x) [d, a])
    (hplanes : ∀ b ∈ s.hart.binds, 0 < b.planes) :
    Completes (.vfexp2 d a x) s (Computed s d (bitsNow s)
      (fun k => (expBy (formatNow s) T (decodeF (formatNow s) (el s (bitsNow s) a k))).1)
      (fun k => (expBy (formatNow s) T (decodeF (formatNow s) (el s (bitsNow s) a k))).2)) := by
  refine ⟨_, exec_vfexp2 d a x s, ?_⟩
  have hfloat : (ctxNow s (.vfexp2 d a x)).float = formatNow s := by
    rw [← fmtFor_eq_formatNow hfloats, ← ewOf_vcfg, ← fmtOf_vcfg]
    rfl
  refine computed_of_mapElems hs (unhindered_vfexp2 hfloats hew hs hplanes) (d := d) (by simp)
    (fun k => expBy (formatNow s) T (decodeF (formatNow s) (el s (bitsNow s) a k))) (fun k => ?_) fun t hregs => ?_
  · rw [← exp2_eq_expBy hT, ← formatNow_bits hfloats]
    exact exp2_lt _ _
  · change vfexp2Member (ctxNow s (.vfexp2 d a x)) t d a = _
    simp only [vfexp2Member, hfloat, ctxNow_bits, exp2_eq_expBy hT]
    rw [elemMember_unary (fun y => expBy (formatNow s) T (decodeF (formatNow s) y)), hregs, hregs]
    rfl

/-! ### The statement admits a binding without planes -/

/-- STREAM at issue: with nothing queued, a vector word that meets a condition of R235 traps (R317). -/
theorem issueV_streamTrap {s : State} {i : Instr} (hsup : s.hart.sup = false) (hqueue : s.hart.queue = [])
    (hlegal : illegalAtIssue i s.hart.capture = false) (hover : overlaps i s.hart.capture = false)
    (hstream : streamTrap s.hart i s.hart.capture = true) :
    s.issueV i = s.trapHere causeStream ((wordOf i).setWidth 64) := by
  have those (p : QEntry → Bool) (k : State → State) : s.afterThose p k = k s :=
    State.afterThose_free s p k (.inr (by rw [hqueue]; rfl))
  have waits (need : Bool) (k : State → State) : s.afterQueue need k = k s := those _ k
  simp only [State.issueV, hsup, hlegal, those, State.issueLegal, hover, waits, hstream, State.trapAfter,
    Bool.false_eq_true, if_false, if_true]

/-- A trap with a handler leaves the hart in supervisor mode (R313). -/
theorem sup_trapHere {s : State} (cause : Nat) (val : Word) (hc : s.cur < 512) (hvec : s.hart.trapvec ≠ 0) :
    (s.trapHere cause val).hart.sup = true := by
  unfold State.trapHere
  rw [State.takeTrap_enter s _ hvec, State.emit_hart, State.hart_setHart s _ hc]
  rfl

/-- A vector instruction that has computed leaves its hart in the mode it was in. -/
theorem sup_of_computed {s t : State} {d : BitVec 6} {w : Nat} {f g : Nat → Nat} (hc : s.cur < 512)
    (h : Computed s d w f g t) : t.hart.sup = s.hart.sup := by
  have hframe := h.frame
  unfold Stepped at hframe
  rw [hframe, State.hart_setHart s _ hc]

/-- A binding of ladder 0 with FP64 elements, its leading register and its plane count. -/
def rawBinding (reg planes : Nat) : Binding :=
  { record := 0, reg := reg, base := 0, stride := 0, pstr := 0, scales := 0, replica := 0, total := 0, ew := 4
    ladder := 0, planes := planes, packed := false, sreg := 0, tl := 0xFFFF, ticket := 0, data := [], block := 0
    pairs := [], used := 0, status := 1, cause := 0 }

/-- The machine after reset, where the hart has a handler, a strip of one FP32 element and one binding. -/
def boundAfterReset (b : Binding) : State :=
  State.reset.setHart { Hart.reset with vcfg := 0x6001, trapvec := 0x1000, binds := [b] }

theorem boundAfterReset_hart (b : Binding) :
    (boundAfterReset b).hart = { Hart.reset with vcfg := 0x6001, trapvec := 0x1000, binds := [b] } :=
  State.hart_setHart _ _ (by decide)

theorem vcfg_boundAfterReset (b : Binding) : (boundAfterReset b).hart.vcfg = 0x6001 := by rw [boundAfterReset_hart]

theorem roomNow_boundAfterReset (b : Binding) : roomNow (boundAfterReset b) = 16384 := by
  rw [roomNow, boundAfterReset_hart]
  exact (by decide : 64 * longest 0 false = 16384)

theorem alone_boundAfterReset {b : Binding} (hunbound : ∀ r ∈ [(3 : BitVec 6), 1], r.toNat ∉ b.regs)
    (hnext : ((boundAfterReset b).enqueue (.vfexp2 3 1 0)).convoyPick = some (boundAfterReset b).cur) :
    Alone (boundAfterReset b) (.vfexp2 3 1 0) [3, 1] where
  hart := (by decide : 0 < Config.harts)
  program := by rw [boundAfterReset_hart]; rfl
  eager := rfl
  idle := by rw [boundAfterReset_hart]; rfl
  clear := by rw [boundAfterReset_hart]; rfl
  fresh := by rw [boundAfterReset_hart]; rfl
  sound := by rw [boundAfterReset_hart]; rfl
  registers := by decide
  unbound c hc := by
    rw [boundAfterReset_hart] at hc
    rwa [List.mem_singleton.mp hc]
  unwatched k w hw hen := by
    rw [boundAfterReset_hart] at hw
    obtain ⟨-, rfl⟩ : k < 4 ∧ _ = w := by simpa [Hart.reset, Vector.getElem?_replicate] using hw
    exact Bool.noConfusion hen
  matched := by rw [boundAfterReset_hart]; exact fun h => Bool.noConfusion h
  next := hnext
  stepping := by rw [boundAfterReset_hart]; rfl
  fits := by
    rw [vlNow, bitsNow, ewNow, vcfg_boundAfterReset, roomNow_boundAfterReset]
    decide

theorem takesFloats_boundAfterReset (b : Binding) :
    takesFloats (boundAfterReset b) ∧ ewNow (boundAfterReset b) < 4 := by
  rw [takesFloats, ewNow, fmtNow, vcfg_boundAfterReset]
  decide

/-- The hypotheses of `completes_vfexp2` hold where another register than va and vd is bound, with one plane: there
2^0 is 1.0, and raises no flag. -/
theorem vfexp2_boundAfterReset : Completes (.vfexp2 3 1 0) (boundAfterReset (rawBinding 2 1)) (fun t =>
    elementAt (t.hart.vget 3) 32 0 = 0x3F800000 ∧ ∀ i < 64, t.hart.fpflags.getLsbD i = false) := by
  obtain ⟨hfloats, hew⟩ := takesFloats_boundAfterReset (rawBinding 2 1)
  have halone : Alone (boundAfterReset (rawBinding 2 1)) (.vfexp2 3 1 0) [3, 1] :=
    alone_boundAfterReset (by decide) (by decide +kernel)
  have hcomputes := completes_vfexp2 hfloats hew expTableOf_expTable halone fun b hb => by
    rw [boundAfterReset_hart] at hb
    rw [List.mem_singleton.mp hb]
    decide
  have hbits : bitsNow (boundAfterReset (rawBinding 2 1)) = 32 := by decide +kernel
  refine completes_mono hcomputes fun t ht => ⟨?value, fun i hi => ?flags⟩
  case value =>
    have hwritten := ht.written 0 (by decide +kernel) (by decide +kernel)
    rw [hbits] at hwritten
    exact Eq.trans hwritten (by decide +kernel)
  case flags =>
    rw [ht.flags i hi]
    revert i
    decide +kernel

/-- Where va is the leading register of a binding without planes, whose elements have another width, VFEXP2 traps STREAM
at issue (R235). -/
theorem exec_boundAfterReset_planeless :
    exec (.vfexp2 3 1 0) (boundAfterReset (rawBinding 1 0))
      = .next ((boundAfterReset (rawBinding 1 0)).trapHere causeStream ((wordOf (.vfexp2 3 1 0)).setWidth 64)) := by
  have hprogram : (boundAfterReset (rawBinding 1 0)).hart.sup = false := by rw [boundAfterReset_hart]; rfl
  have hidle : (boundAfterReset (rawBinding 1 0)).hart.queue = [] := by rw [boundAfterReset_hart]; rfl
  rw [exec_vfexp2, issueV_streamTrap hprogram hidle (by decide +kernel) rfl (by decide +kernel)]

/-- Refutes O26: `Alone` keeps vd and va from the registers of a binding, which are those of its planes, and so admits a
binding that has va as its leading register and no plane. No VBIND makes one (R234), but the statement speaks of every
state. With another element width than EW the word traps STREAM (R235) and computes nothing. -/
theorem not_vectorExponentialsFollowTheirAlgorithm : ¬ Obligations.VectorExponentialsFollowTheirAlgorithm := by
  unfold Obligations.VectorExponentialsFollowTheirAlgorithm
  intro h
  obtain ⟨hfloats, hew⟩ := takesFloats_boundAfterReset (rawBinding 1 0)
  have halone : Alone (boundAfterReset (rawBinding 1 0)) (.vfexp2 3 1 0) [3, 1] :=
    alone_boundAfterReset (by decide) (by decide +kernel)
  obtain ⟨⟨t, ht, hcomputed⟩, -⟩ := h _ 3 1 0 _ hfloats hew expTableOf_expTable halone
  rw [exec_boundAfterReset_planeless] at ht
  obtain rfl := Host.Outcome.next.inj ht
  have hmode := sup_of_computed halone.hart hcomputed
  rw [sup_trapHere _ _ halone.hart (by rw [boundAfterReset_hart]; decide), halone.program] at hmode
  exact Bool.noConfusion hmode

end Sys2Proof.Proofs
